-- ==== Sys2Proof/Word.lean ====
section
/-!
DEFINITION. The word types of the FV9 (R1-R3): bytes, 32- and 64-bit words and lane masks.
-/

namespace Sys2Proof

/-- A byte of memory. -/
abbrev Byte := BitVec 8

/-- One lane's 32 bits of a vector register (R51). -/
abbrev W32 := BitVec 32

/-- A uniform register, an address (R51, R71). -/
abbrev W64 := BitVec 64

/-- A set of lanes: 32 mask words of 32 lanes (R44), lane L at bit L. -/
abbrev Mask := BitVec 1024

/-- A sparse table: entries by key, keys strictly ascending; what an absent key reads as stands where it is read. -/
abbrev SMap (α : Type) := List (Nat × α)

end Sys2Proof
end

