-- ==== Sys2Proof/Syntax.lean ====
section
/-!
DEFINITION. The instructions and events of the FV9 as data: operands (R51, R54), scopes (R171), the
messages that arrive from outside, and Instr, one constructor per row of spec/opcode_table.json.
-/

namespace Sys2Proof

/-- An operand code as R51, R52 and R54 name it. -/
inductive Operand where
  | v (n : Fin 128)
  | w (n : Fin 64)
  | p (n : Fin 16)
  | a (n : Fin 8)
  | j (n : Fin 8)
  | t (n : Fin 16)
  | lane | team | core | sector | dev | flow | cls | seq | clock | tslot | part
  /-- Code 0xFF: reads zero, discards a result (R52). -/
  | zero
  deriving DecidableEq, Repr

/-- Scope codes (R171). -/
inductive Scope where
  | team | core | sector | dev | sys
  deriving DecidableEq, Repr

/-- The code of a scope (R171). -/
def Scope.code : Scope → BitVec 3
  | .team => 0 | .core => 1 | .sector => 2 | .dev => 3 | .sys => 4

/-- The operations of an atomic (R228, R329). -/
inductive AtomOp where
  | add | addSatN | fadd | xchg | minI | maxI | minN | maxN | andB | orB | xorB | cas
  deriving DecidableEq, Repr

/-- What the bytes of a beat or of a transfer carry. -/
inductive BeatStatus where
  | ok | poison | fault
  deriving DecidableEq, Repr

/-- Where a message over Ultra Ethernet comes from: the port it arrives at, the address and job of its sender, and whether its packets bore an
ECN mark (R10, R322, R323). -/
structure UeFrom where
  port : Nat
  addr : BitVec 128
  job : BitVec 24
  ecn : Bool
  deriving DecidableEq, Repr

/-- A pull announcement with its unscheduled bytes, as it arrives (R298, R301); `ue` tells that it came over Ultra Ethernet, `sdev` is then
no part of it. -/
structure Announcement where
  part : Nat
  ue : Option UeFrom
  sdev : Nat
  score : Nat
  sh : Nat
  dcore : Nat
  dh : Nat
  pri : Nat
  off : Nat
  len : Nat
  pieces : List (BeatStatus × List Byte)
  deriving DecidableEq, Repr

/-- A pull token, as it arrives at the sender's handle (R298, R302). -/
structure PullToken where
  core : Nat
  handle : Nat
  off : Nat
  len : Nat
  ue : Option UeFrom
  deriving DecidableEq, Repr

/-- A beat of a pull message, as it arrives (R302, R304). -/
structure PullBeat where
  part : Nat
  req : Nat
  off : Nat
  data : List Byte
  status : BeatStatus
  ue : Option UeFrom
  deriving DecidableEq, Repr

/-- A notice that ends a transfer, as it arrives: whether the bytes were delivered (R306). -/
structure PullNote where
  delivered : Bool
  ue : Option UeFrom
  deriving DecidableEq, Repr

/-- A nack, as it arrives: the lanes that the peer refuses (R318). -/
structure NackMsg where
  tag : Nat
  lanes : List Nat
  deriving DecidableEq, Repr

/-- A link-control message: a counter value, from which flits are to come again, below which flits have arrived, or with which the neighbour goes
on (R316); `flit` is the counter value of the flit that carries it (R314). -/
structure LinkNote where
  counter : Nat
  replay : Bool
  ack : Bool := false
  flit : Nat := 0
  deriving DecidableEq, Repr

/-- The kinds of a peer request (R313). -/
inductive PeerKind where
  | read | write | atomic (op : AtomOp)
  deriving DecidableEq, Repr

/-- A peer request, as it arrives: one lane is an offset, a value and a compare value (R317). -/
structure PeerMsg where
  src : Nat
  tag : Nat
  part : Nat
  kind : PeerKind
  size : Nat
  lanes : List (Nat × BitVec 64 × BitVec 64)
  deriving DecidableEq, Repr

/-- A flit of a multicast write, as it arrives: for the device to replicate, or for a member: the words of one run from an offset on, and
which of how many flits of its `mcst` it is (R321, R332). -/
structure McastMsg where
  src : Nat
  tag : Nat
  group : Nat
  addr : Nat
  words : List (BitVec 32)
  index : Nat
  count : Nat
  deriving DecidableEq, Repr

/-- What firmware brings to the training of a link: the shape of the domain (R310), the port that a spare replaces (R11), the neighbour, and
what the two ends exchange at a key setup (R315): the neighbour's encapsulation key with its signature, and the ciphertext of a lower neighbour. -/
structure LinkTraining where
  link : Nat
  replaces : Option Nat
  cols : Nat
  rows : Nat
  peer : Nat
  encKey : List Byte
  signature : List Byte
  cipher : List Byte
  deriving DecidableEq, Repr

/-- A flit, as it arrives on a link (R313, R314). -/
structure Flit where
  header : BitVec 128
  payload : List Byte
  gcm : BitVec 128
  counter : Nat
  deriving DecidableEq, Repr

/-- Where an uncorrectable error is found (R378, R380). -/
inductive ErrorSite where
  | line (pa : Nat)
  | team (core slot : Nat)
  deriving DecidableEq, Repr

/-- What a management read asks for (R409). -/
inductive MgmtItem where
  | certificate | reports | partitionTable | sensors
  deriving DecidableEq, Repr

/-- The instructions and events of spec/opcode_table.json, one constructor per row. -/
inductive Instr where
  /-- R191 `add` -/
  | add (d : Operand) (a : Operand) (b : Operand)
  /-- R191 `sub` -/
  | sub (d : Operand) (a : Operand) (b : Operand)
  /-- R191 `add.sat.i` -/
  | addSatI (d : Operand) (a : Operand) (b : Operand)
  /-- R191 `add.sat.n` -/
  | addSatN (d : Operand) (a : Operand) (b : Operand)
  /-- R192 `mul` -/
  | mul (d : Operand) (a : Operand) (b : Operand)
  /-- R192 `mulhi.i` -/
  | mulhiI (d : Operand) (a : Operand) (b : Operand)
  /-- R192 `mulhi.n` -/
  | mulhiN (d : Operand) (a : Operand) (b : Operand)
  /-- R192 `mad` -/
  | mad (d : Operand) (a : Operand) (b : Operand)
  /-- R193 `div.i` -/
  | divI (d : Operand) (a : Operand) (b : Operand)
  /-- R193 `div.n` -/
  | divN (d : Operand) (a : Operand) (b : Operand)
  /-- R193 `rem.i` -/
  | remI (d : Operand) (a : Operand) (b : Operand)
  /-- R193 `rem.n` -/
  | remN (d : Operand) (a : Operand) (b : Operand)
  /-- R194 `and` -/
  | andOp (d : Operand) (a : Operand) (b : Operand)
  /-- R194 `or` -/
  | orOp (d : Operand) (a : Operand) (b : Operand)
  /-- R194 `xor` -/
  | xorOp (d : Operand) (a : Operand) (b : Operand)
  /-- R194 `andn` -/
  | andn (d : Operand) (a : Operand) (b : Operand)
  /-- R195 `shl` -/
  | shl (d : Operand) (a : Operand) (b : Operand)
  /-- R195 `shr` -/
  | shr (d : Operand) (a : Operand) (b : Operand)
  /-- R195 `sar` -/
  | sar (d : Operand) (a : Operand) (b : Operand)
  /-- R195 `rotl` -/
  | rotl (d : Operand) (a : Operand) (b : Operand)
  /-- R196 `clz` -/
  | clz (d : Operand) (a : Operand)
  /-- R196 `popc` -/
  | popc (d : Operand) (a : Operand)
  /-- R196 `brev` -/
  | brev (d : Operand) (a : Operand)
  /-- R196 `ffs` -/
  | ffs (d : Operand) (a : Operand)
  /-- R194 `min.i` -/
  | minI (d : Operand) (a : Operand) (b : Operand)
  /-- R194 `max.i` -/
  | maxI (d : Operand) (a : Operand) (b : Operand)
  /-- R194 `min.n` -/
  | minN (d : Operand) (a : Operand) (b : Operand)
  /-- R194 `max.n` -/
  | maxN (d : Operand) (a : Operand) (b : Operand)
  /-- R197 `bfx.i` -/
  | bfxI (d : Operand) (a : Operand) (b : Operand)
  /-- R197 `bfx.n` -/
  | bfxN (d : Operand) (a : Operand) (b : Operand)
  /-- R197 `bfi` -/
  | bfi (d : Operand) (a : Operand) (b : Operand)
  /-- R198 `lea` -/
  | lea (d : Operand) (a : Operand) (b : Operand)
  /-- R199 `addi` -/
  | addi (d a : Operand) (imm : BitVec 10)
  /-- R199 `muli` -/
  | muli (d a : Operand) (imm : BitVec 10)
  /-- R199 `andi` -/
  | andi (d a : Operand) (imm : BitVec 10)
  /-- R199 `ori` -/
  | ori (d a : Operand) (imm : BitVec 10)
  /-- R199 `xori` -/
  | xori (d a : Operand) (imm : BitVec 10)
  /-- R199 `shli` -/
  | shli (d a : Operand) (amt : BitVec 6)
  /-- R199 `shri` -/
  | shri (d a : Operand) (amt : BitVec 6)
  /-- R199 `sari` -/
  | sari (d a : Operand) (amt : BitVec 6)
  /-- R200 `movi` -/
  | movi (d : Operand) (imm : BitVec 18)
  /-- R200 `movk` -/
  | movk (d : Operand) (sel : BitVec 2) (imm : BitVec 16)
  /-- R201 `mov` -/
  | mov (d : Operand) (a : Operand)
  /-- R201 `cmov` -/
  | cmov (d : Operand) (a : Operand) (b : Operand)
  /-- R201 `p2v` -/
  | p2v (d : Operand) (a : Operand)
  /-- R201 `v2p` -/
  | v2p (d : Operand) (a : Operand)
  /-- R202 `cmp.eq` -/
  | cmpEq (d : Operand) (a : Operand) (b : Operand)
  /-- R202 `cmp.ne` -/
  | cmpNe (d : Operand) (a : Operand) (b : Operand)
  /-- R202 `cmp.lt.i` -/
  | cmpLtI (d : Operand) (a : Operand) (b : Operand)
  /-- R202 `cmp.le.i` -/
  | cmpLeI (d : Operand) (a : Operand) (b : Operand)
  /-- R202 `cmp.lt.n` -/
  | cmpLtN (d : Operand) (a : Operand) (b : Operand)
  /-- R202 `cmp.le.n` -/
  | cmpLeN (d : Operand) (a : Operand) (b : Operand)
  /-- R202 `tst` -/
  | tst (d : Operand) (a : Operand) (b : Operand)
  /-- R202 `tstz` -/
  | tstz (d : Operand) (a : Operand) (b : Operand)
  /-- R203 `pand` -/
  | pand (d : Operand) (a : Operand) (b : Operand)
  /-- R203 `por` -/
  | por (d : Operand) (a : Operand) (b : Operand)
  /-- R203 `pxor` -/
  | pxor (d : Operand) (a : Operand) (b : Operand)
  /-- R203 `pandn` -/
  | pandn (d : Operand) (a : Operand) (b : Operand)
  /-- R204 `pset` -/
  | pset (d : Operand)
  /-- R204 `pclr` -/
  | pclr (d : Operand)
  /-- R204 `pfirst` -/
  | pfirst (d : Operand) (a : Operand)
  /-- R204 `pcnt` -/
  | pcnt (d : Operand) (a : Operand)
  /-- R205 `br` -/
  | br (cond : Operand) (off : BitVec 18)
  /-- R205 `call` -/
  | call (cond : Operand) (off : BitVec 18)
  /-- R206 `brx` -/
  | brx (a : Operand)
  /-- R206 `ret` -/
  | ret (a : Operand)
  /-- R206 `callx` -/
  | callx (d : Operand) (a : Operand)
  /-- R210 `join.arr` -/
  | joinArr (cond : Operand) (off : BitVec 18)
  /-- R209 `join.set` -/
  | joinSet (d : Operand) (a : Operand)
  /-- R209 `join.add` -/
  | joinAdd (d : Operand) (a : Operand)
  /-- R209 `join.clr` -/
  | joinClr (d : Operand)
  /-- R209 `join.rem` -/
  | joinRem (d : Operand) (a : Operand)
  /-- R211 `exit` -/
  | exitLanes
  /-- R212 `refill` -/
  | refill
  /-- R213 `yield` -/
  | yield
  /-- R213 `nop` -/
  | nop
  /-- R219 `ld.b` -/
  | ldB (d : Operand) (a : Operand) (b : Operand)
  /-- R219 `ld.h` -/
  | ldH (d : Operand) (a : Operand) (b : Operand)
  /-- R219 `ld.w` -/
  | ldW (d : Operand) (a : Operand) (b : Operand)
  /-- R219 `ld.d` -/
  | ldD (d : Operand) (a : Operand) (b : Operand)
  /-- R220 `st.b` -/
  | stB (d : Operand) (a : Operand) (b : Operand)
  /-- R220 `st.h` -/
  | stH (d : Operand) (a : Operand) (b : Operand)
  /-- R220 `st.w` -/
  | stW (d : Operand) (a : Operand) (b : Operand)
  /-- R220 `st.d` -/
  | stD (d : Operand) (a : Operand) (b : Operand)
  /-- R223 `pref` -/
  | pref (a : Operand) (b : Operand)
  /-- R224 `zero` -/
  | zeroLine (a : Operand) (b : Operand)
  /-- R225 `gaddr` -/
  | gaddr (d : Operand) (a : Operand)
  /-- R225 `space` -/
  | space (d : Operand) (a : Operand)
  /-- R226 `alloc` -/
  | alloc (d : Operand) (a : Operand) (b : Operand)
  /-- R227 `free` -/
  | freeMem (a : Operand)
  /-- R226 `alloc.z` -/
  | allocZ (d : Operand) (a : Operand) (b : Operand)
  /-- R228 `atom.add` -/
  | atomAdd (d : Operand) (a : Operand) (b : Operand)
  /-- R228 `atom.add.sat.n` -/
  | atomAddSatN (d : Operand) (a : Operand) (b : Operand)
  /-- R228 `atom.fadd` -/
  | atomFadd (d : Operand) (a : Operand) (b : Operand)
  /-- R228 `atom.xchg` -/
  | atomXchg (d : Operand) (a : Operand) (b : Operand)
  /-- R228 `atom.min.i` -/
  | atomMinI (d : Operand) (a : Operand) (b : Operand)
  /-- R228 `atom.max.i` -/
  | atomMaxI (d : Operand) (a : Operand) (b : Operand)
  /-- R228 `atom.min.n` -/
  | atomMinN (d : Operand) (a : Operand) (b : Operand)
  /-- R228 `atom.max.n` -/
  | atomMaxN (d : Operand) (a : Operand) (b : Operand)
  /-- R228 `atom.and` -/
  | atomAnd (d : Operand) (a : Operand) (b : Operand)
  /-- R228 `atom.or` -/
  | atomOr (d : Operand) (a : Operand) (b : Operand)
  /-- R228 `atom.xor` -/
  | atomXor (d : Operand) (a : Operand) (b : Operand)
  /-- R228 `atom.cas` -/
  | atomCas (d : Operand) (a : Operand) (b : Operand)
  /-- R231 `fence` -/
  | fence (pred succ : BitVec 4) (scope : Scope)
  /-- R233 `bar.init` -/
  | barInit (x : Operand) (idx : BitVec 6)
  /-- R233 `bar.init.force` -/
  | barInitForce (x : Operand) (idx : BitVec 6)
  /-- R233 `bar.arr` -/
  | barArr (x : Operand) (y : Operand) (idx : BitVec 6)
  /-- R234 `bar.wait` -/
  | barWait (idx : BitVec 6)
  /-- R233 `bar.inv` -/
  | barInv (idx : BitVec 6)
  /-- R235 `bar.q` -/
  | barQ (x : Operand) (idx : BitVec 6)
  /-- R236 `sput` -/
  | sput (d : Operand) (a : Operand)
  /-- R236 `sget.c` -/
  | sgetC (d : Operand) (a : Operand)
  /-- R236 `sget` -/
  | sget (d : Operand) (a : Operand)
  /-- R236 `sq` -/
  | sq (d : Operand) (a : Operand)
  /-- R237 `flow.rel` -/
  | flowRel
  /-- R238 `flow.set` -/
  | flowSet (a : Operand) (b : Operand)
  /-- R239 `flow.q` -/
  | flowQ (d : Operand) (a : Operand)
  /-- R241 `enq` -/
  | enq (x : Operand) (y : Operand)
  /-- R241 `enq.w` -/
  | enqW (x : Operand) (y : Operand)
  /-- R242 `cnt.set` -/
  | cntSet (x : Operand) (y : Operand)
  /-- R242 `cnt.add` -/
  | cntAdd (x : Operand) (y : Operand)
  /-- R242 `cnt.dec` -/
  | cntDec (x : Operand) (y : Operand)
  /-- R242 `cnt.q` -/
  | cntQ (x : Operand) (y : Operand)
  /-- R243 `heap.ins` -/
  | heapIns (x : Operand) (y : Operand)
  /-- R243 `heap.rm` -/
  | heapRm (x : Operand)
  /-- R143 `admit` -/
  | admitHeap (x : Operand) (y : Operand)
  /-- R327 `rld` -/
  | rld (d : Operand) (a : Operand) (b : Operand)
  /-- R328 `rst` -/
  | rst (d : Operand) (a : Operand) (b : Operand)
  /-- R329 `ratom` -/
  | ratom (d : Operand) (a : Operand) (b : Operand)
  /-- R330 `mcst` -/
  | mcst (d : Operand) (a : Operand) (b : Operand)
  /-- R274 `tclaim` -/
  | tclaim (x : Operand) (y : Operand)
  /-- R275 `trel` -/
  | trel (x : Operand)
  /-- R276 `tload` -/
  | tload (x : Operand) (h : BitVec 6)
  /-- R277 `mma` -/
  | mma (x : Operand) (y : Operand) (zc nb na : Bool) (acc : BitVec 3)
  /-- R278 `mfence` -/
  | mfence (x : Operand)
  /-- R278 `mwait` -/
  | mwait (x : Operand)
  /-- R279 `acc.zero` -/
  | accZero (x : Operand)
  /-- R279 `acc.ld` -/
  | accLd (x : Operand) (y : Operand)
  /-- R279 `acc.st` -/
  | accSt (x : Operand) (y : Operand)
  /-- R280 `acc.mv` -/
  | accMv (x : Operand) (y : Operand) (vi : BitVec 6)
  /-- R281 `tinfo` -/
  | tinfo (x : Operand) (y : Operand)
  /-- R248 `fadd` -/
  | fadd (d : Operand) (a : Operand) (b : Operand)
  /-- R248 `fsub` -/
  | fsub (d : Operand) (a : Operand) (b : Operand)
  /-- R248 `fmul` -/
  | fmul (d : Operand) (a : Operand) (b : Operand)
  /-- R248 `ffma` -/
  | ffma (d : Operand) (a : Operand) (b : Operand)
  /-- R250 `fmin` -/
  | fmin (d : Operand) (a : Operand) (b : Operand)
  /-- R250 `fmax` -/
  | fmax (d : Operand) (a : Operand) (b : Operand)
  /-- R250 `fdiv` -/
  | fdiv (d : Operand) (a : Operand) (b : Operand)
  /-- R250 `fcpsgn` -/
  | fcpsgn (d : Operand) (a : Operand) (b : Operand)
  /-- R251 `frcp` -/
  | frcp (d : Operand) (a : Operand)
  /-- R251 `frsq` -/
  | frsq (d : Operand) (a : Operand)
  /-- R251 `fsqrt` -/
  | fsqrt (d : Operand) (a : Operand)
  /-- R251 `fexp2` -/
  | fexp2 (d : Operand) (a : Operand)
  /-- R251 `flog2` -/
  | flog2 (d : Operand) (a : Operand)
  /-- R251 `fsin` -/
  | fsin (d : Operand) (a : Operand)
  /-- R251 `fcos` -/
  | fcos (d : Operand) (a : Operand)
  /-- R251 `ftanh` -/
  | ftanh (d : Operand) (a : Operand)
  /-- R252 `fcmp.eq` -/
  | fcmpEq (d : Operand) (a : Operand) (b : Operand)
  /-- R252 `fcmp.lt` -/
  | fcmpLt (d : Operand) (a : Operand) (b : Operand)
  /-- R252 `fcmp.le` -/
  | fcmpLe (d : Operand) (a : Operand) (b : Operand)
  /-- R252 `fcmp.un` -/
  | fcmpUn (d : Operand) (a : Operand) (b : Operand)
  /-- R254 `cvt.rn` -/
  | cvtRn (d : Operand) (a : Operand) (code : BitVec 8)
  /-- R254 `cvt.rz` -/
  | cvtRz (d : Operand) (a : Operand) (code : BitVec 8)
  /-- R254 `cvt.rd` -/
  | cvtRd (d : Operand) (a : Operand) (code : BitVec 8)
  /-- R254 `cvt.ru` -/
  | cvtRu (d : Operand) (a : Operand) (code : BitVec 8)
  /-- R255 `qblk` -/
  | qblk (d : Operand) (a : Operand) (b : Operand)
  /-- R256 `dqblk` -/
  | dqblk (d : Operand) (a : Operand)
  /-- R257 `qmx` -/
  | qmx (d : Operand) (a : Operand) (code : BitVec 8)
  /-- R259 `shfl` -/
  | shfl (d : Operand) (a : Operand) (b : Operand)
  /-- R259 `shfl.x` -/
  | shflX (d : Operand) (a : Operand) (b : Operand)
  /-- R259 `shfl.up` -/
  | shflUp (d : Operand) (a : Operand) (b : Operand)
  /-- R259 `shfl.dn` -/
  | shflDn (d : Operand) (a : Operand) (b : Operand)
  /-- R260 `vote.any` -/
  | voteAny (d : Operand) (a : Operand)
  /-- R260 `vote.all` -/
  | voteAll (d : Operand) (a : Operand)
  /-- R260 `ballot` -/
  | ballot (d : Operand) (a : Operand)
  /-- R260 `vote.eq` -/
  | voteEq (d : Operand) (a : Operand)
  /-- R261 `redw.add` -/
  | redwAdd (d : Operand) (a : Operand)
  /-- R261 `redw.fadd` -/
  | redwFadd (d : Operand) (a : Operand)
  /-- R261 `redw.fmax` -/
  | redwFmax (d : Operand) (a : Operand)
  /-- R261 `redw.fmin` -/
  | redwFmin (d : Operand) (a : Operand)
  /-- R262 `topk.ins` -/
  | topkIns (d : Operand) (a : Operand) (b : Operand)
  /-- R262 `topk.clr` -/
  | topkClr (d : Operand) (code : BitVec 8)
  /-- R263 `sym.q` -/
  | symQ (d : Operand) (a : Operand)
  /-- R264 `sym.wait` -/
  | symWait (a : Operand)
  /-- R264 `sym.wall` -/
  | symWall
  /-- R289 `cp` -/
  | cp (x : Operand) (h : BitVec 6)
  /-- R290 `cp.sg` -/
  | cpSg (x : Operand) (h : BitVec 6)
  /-- R292 `cp.step` -/
  | cpStep (x : Operand)
  /-- R293 `h.wait` -/
  | hWait (h : BitVec 6)
  /-- R294 `h.set` -/
  | hSet (x : Operand) (y : Operand) (h : BitVec 6)
  /-- R294 `h.set` -/
  | hSetFree (h : BitVec 6)
  /-- R295 `h.q` -/
  | hQ (x : Operand) (h : BitVec 6)
  /-- R298 `pull.req` -/
  | pullReq (x : Operand) (h : BitVec 6)
  /-- R300 `grant.cfg` -/
  | grantCfg (x : Operand) (y : Operand) (h : BitVec 6)
  /-- R307 `xfer.q` -/
  | xferQ (x : Operand) (h : BitVec 6)
  /-- R336 `smp` -/
  | smp (x : Operand) (y : Operand) (h : BitVec 6)
  /-- R338 `smp.q` -/
  | smpQ (x : Operand) (h : BitVec 6)
  /-- R369 `trap` -/
  | trapInstr (n : BitVec 12)
  /-- R370 `sret` -/
  | sret
  /-- R371 `ctl.r` -/
  | ctlR (d : Operand) (n : BitVec 12)
  /-- R371 `ctl.w` -/
  | ctlW (d : Operand) (n : BitVec 12)
  /-- R25 `ctl.w` -/
  | devid (d : Operand)
  /-- R364 `ctl.w` -/
  | fqhead (d : Operand) (p : BitVec 3)
  /-- R88 `ctl.w` -/
  | fqbase (d : Operand) (p : BitVec 3)
  /-- R372 `tlb.inv` -/
  | tlbInv (d : Operand) (k : BitVec 2) (p : BitVec 3)
  /-- R373 `fault.pop` -/
  | faultPop (d : Operand) (p : BitVec 3)
  /-- R373 `fault.pop.w` -/
  | faultPopW (d : Operand) (p : BitVec 3)
  /-- R374 `fault.done` -/
  | faultDone (d : Operand) (ans : Bool)
  /-- R375 `team.park` -/
  | teamPark (d : Operand)
  /-- R375 `team.wake` -/
  | teamWake (d : Operand)
  /-- R376 `ctx.save` -/
  | ctxSave (d : Operand) (k : Bool)
  /-- R396 `ctx.load` -/
  | ctxLoad (d : Operand) (k : Bool)
  /-- R377 `halt` -/
  | halt
  /-- R184 `dict` -/
  | dictionaryWord (hi lo : BitVec 10)
  /-- R399 `power_on` -/
  | powerOn
  /-- R401 `rom_verify` -/
  | romVerify
  /-- R402 `firmware_download` -/
  | firmwareDownload (image : List Byte)
  /-- R400 `download_retry` -/
  | downloadRetry
  /-- R400 `reset` -/
  | resetPin
  /-- R400 `power_removed` -/
  | powerRemoved
  /-- R408 `thermal_warning` -/
  | thermalWarning (sector : Nat)
  /-- R408 `thermal_trip` -/
  | thermalTrip (sector : Nat)
  /-- R403 `attestation_quote` -/
  | attestationQuote (nonce : List Byte)
  /-- R409 `management_read` -/
  | managementRead (what : MgmtItem)
  /-- R405 `energy_window` -/
  | energyWindow (measured : List Nat)
  /-- R138 `team_formation` -/
  | teamFormation (core : Nat)
  /-- R38 `ordered_release` -/
  | orderedRelease (part label : Nat)
  /-- R145 `cut_in` -/
  | cutIn (core : Nat)
  /-- R145 `cut_in_answer` -/
  | cutInAnswer (core : Nat)
  /-- R140 `team_starvation` -/
  | teamStarvation (core quarter : Nat)
  /-- R47 `splinter_starvation` -/
  | splinterStarvation (core slot : Nat)
  /-- R47 `held_lanes_retry` -/
  | heldLanesRetry (core slot : Nat)
  /-- R48 `join_fallback` -/
  | joinFallback (core slot : Nat)
  /-- R68 `symbol_resolution` -/
  | symbolResolution (core sym : Nat)
  /-- R88 `fault_record_retry` -/
  | faultRecordRetry (core : Nat)
  /-- R355 `trap_entry` -/
  | trapEntry (core slot : Nat)
  /-- R378 `uncorrectable_error` -/
  | uncorrectableError (site : ErrorSite)
  /-- R378 `soft_error` -/
  | softError (core unit : Nat)
  /-- R289 `copy_completion` -/
  | copyCompletion (sector index : Nat)
  /-- R271 `tensor_operation_completion` -/
  | tensorOperationCompletion (core index : Nat)
  /-- R301 `pull_announcement` -/
  | pullAnnouncement (ann : Announcement)
  /-- R302 `caller_grant` -/
  | callerGrant (part : Nat)
  /-- R298 `pull_token` -/
  | pullToken (tok : PullToken)
  /-- R302 `pull_beat` -/
  | pullBeat (beat : PullBeat)
  /-- R306 `pull_notice` -/
  | pullNotice (core handle : Nat) (note : PullNote)
  /-- R303 `token_expiry` -/
  | tokenExpiry (part req slot : Nat)
  /-- R305 `orphan` -/
  | orphan (part req : Nat)
  /-- R306 `abandon` -/
  | abandon (core handle : Nat)
  /-- R308 `caller_save` -/
  | callerSave (part : Nat)
  /-- R333 `sampler_job_start` -/
  | samplerJobStart (sector : Nat)
  /-- R337 `sampler_job_completion` -/
  | samplerJobCompletion (sector : Nat)
  /-- R317 `peer_request` -/
  | peerRequest (req : PeerMsg)
  /-- R327 `read_response` -/
  | readResponse (tag : Nat) (vals : List (Nat × BitVec 64))
  /-- R328 `ack` -/
  | ack (tag : Nat) (olds : List (Nat × BitVec 64))
  /-- R318 `nack` -/
  | nack (msg : NackMsg)
  /-- R318 `peer_timeout` -/
  | peerTimeout (tag : Nat)
  /-- R321 `multicast_write` -/
  | multicastWrite (msg : McastMsg)
  /-- R332 `multicast_ack` -/
  | multicastAck (tag column : Nat) (bits : BitVec 512)
  /-- R321 `multicast_timeout` -/
  | multicastTimeout (tag : Nat)
  /-- R316 `link_control` -/
  | linkControl (link : Nat) (note : LinkNote)
  /-- R316 `link_down` -/
  | linkDown (link : Nat)
  /-- R315 `link_training` -/
  | linkTraining (train : LinkTraining)
  /-- R314 `transit_flit` -/
  | transitFlit (link : Nat) (flit : Flit)
  deriving DecidableEq, Repr

end Sys2Proof
end

