-- ==== Sys2Proof/WellFormed.lean ====
section
/-!
DEFINITION. Which instructions are well formed: the parts of R185 that are not a matter of single
fields, the hints of a group as data, and the bounds of the numbers an event carries.
-/

namespace Sys2Proof

/-- Rounding modes (R115). -/
inductive RMode where
  | rn | rz | rd | ru
  deriving DecidableEq, Repr

/-- The mode of a code (R115). -/
def RMode.ofCode : BitVec 2 → RMode
  | 0#2 => .rn | 1#2 => .rz | 2#2 => .rd | _ => .ru

/-- The fields of a modifier hint (R181). `s3 = .zero` stands for code 0xFF. -/
structure ModHint where
  s3 : Operand := .zero
  scope : Option Scope := none
  acq : Bool := false
  rel : Bool := false
  o : Bool := false
  rem : Bool := false
  sx : Bool := false
  w64 : Bool := false
  rm : RMode := .rn
  sat : Bool := false
  nsat : Bool := false
  sym : Bool := false
  deriving DecidableEq, Repr

/-- The hints of a group (R178). -/
structure Hints where
  exts : List (BitVec 24) := []
  guard : Option (Bool × Fin 16) := none
  mods : Option ModHint := none
  sched : Bool := false
  deriving DecidableEq, Repr

/-- The type codes of `cvt` (R177). -/
inductive CvtType where
  | f32 | f16 | bf16 | e4m3 | e5m2 | e2m1 | i8 | i16 | i32 | i64 | n8 | n16 | n32 | n64
  deriving DecidableEq, Repr

/-- The type of a code (R177); 0x6 and 0x7 are reserved. -/
def CvtType.ofCode : BitVec 4 → Option CvtType
  | 0x0#4 => some .f32 | 0x1#4 => some .f16 | 0x2#4 => some .bf16 | 0x3#4 => some .e4m3 | 0x4#4 => some .e5m2
  | 0x5#4 => some .e2m1 | 0x8#4 => some .i8 | 0x9#4 => some .i16 | 0xA#4 => some .i32 | 0xB#4 => some .i64
  | 0xC#4 => some .n8 | 0xD#4 => some .n16 | 0xE#4 => some .n32 | 0xF#4 => some .n64
  | _ => none

/-- Floating-point types of R177. -/
def CvtType.isFloat : CvtType → Bool
  | .f32 | .f16 | .bf16 | .e4m3 | .e5m2 | .e2m1 => true
  | _ => false

/-- The types that convert to and from integers (R177). -/
def CvtType.isWide : CvtType → Bool
  | .f32 | .f16 | .bf16 => true
  | _ => false

/-- The destination and source types of a type-pair code, for a legal pair (R177). -/
def cvtPair (code : BitVec 8) : Option (CvtType × CvtType) :=
  match CvtType.ofCode (code.extractLsb' 4 4), CvtType.ofCode (code.extractLsb' 0 4) with
  | some d, some s =>
    if (d.isFloat && s.isFloat && d != s) || (d.isWide && !s.isFloat) || (s.isWide && !d.isFloat) then some (d, s)
    else none
  | _, _ => none

/-- Control-register numbers that R364 lists. -/
def ctlListed (n : BitVec 12) : Bool :=
  let v := n.toNat
  v ≤ 0x004 || (0x100 ≤ v && v < 0x180 && v % 16 ≤ 2) || (0x180 ≤ v && v < 0x200 && v % 16 ≤ 9)
    || (0x200 ≤ v && v ≤ 0x204)

/-- The `ctl.w` numbers that are rows of their own: DEVID, FQHEAD, FQBASE. -/
def ctlOwnRow (n : BitVec 12) : Bool :=
  n == 0x204#12 || (n.extractLsb' 7 5 == 0b00011#5 && (n.extractLsb' 0 4 == 4#4 || n.extractLsb' 0 4 == 3#4))

/-- Static well-formedness: a decoded instruction that is not well formed traps ILLEGAL (R185). -/
def Instr.wf : Instr → Bool
  | .cvtRn _ _ c | .cvtRz _ _ c | .cvtRd _ _ c | .cvtRu _ _ c => (cvtPair c).isSome
  | .qmx _ _ c => c == 3#8 || c == 4#8 || c == 5#8
  | .topkClr _ k => 1 ≤ k.toNat && k.toNat ≤ 8
  | .ctlR _ n => ctlListed n
  | .ctlW _ n => ctlListed n && !ctlOwnRow n
  | .dictionaryWord hi _ => hi != 1023#10
  | .hSet x y _ => !(x == .zero && y == .zero)
  | .thermalWarning s | .thermalTrip s | .samplerJobStart s | .samplerJobCompletion s => s < 16
  | .copyCompletion s i => s < 16 && i < 64
  | .teamFormation c | .cutIn c | .cutInAnswer c | .faultRecordRetry c => c < 256
  | .teamStarvation c q => c < 256 && q < 4
  | .splinterStarvation c t | .heldLanesRetry c t | .joinFallback c t | .trapEntry c t => c < 256 && t < 32
  | .symbolResolution c s => c < 256 && s < 256
  | .tensorOperationCompletion c i => c < 256 && i < 64
  | .pullNotice c h n => c < 256 && h < 64 && n.ue.all fun u => u.port < 8
  | .abandon c h => c < 256 && h < 64
  | .pullAnnouncement a => a.part < 8 && a.sdev < 512 && a.score < 256 && a.sh < 64 && a.dcore < 256 && a.dh < 64 && a.pri < 8 &&
      a.ue.all fun u => u.port < 8
  | .pullToken k => k.core < 256 && k.handle < 64 && k.ue.all fun u => u.port < 8
  | .pullBeat b => b.part < 8 && b.ue.all fun u => u.port < 8
  | .peerRequest r => r.src < 512 && r.tag < 65536 && r.part < 8
  | .multicastWrite m => m.src < 512 && m.tag < 65536 && m.group < 256 && m.index < m.count
  | .multicastAck t c _ => t < 65536 && c < 32
  | .nack m => m.tag < 65536
  | .readResponse t _ | .ack t _ | .peerTimeout t | .multicastTimeout t => t < 65536
  | .uncorrectableError (.team c t) => c < 256 && t < 32
  | .softError c _ => c < 256
  | .callerGrant p | .callerSave p | .orphan p _ => p < 8
  | .tokenExpiry p _ k => p < 8 && k < 4
  | .linkControl l _ | .linkDown l | .transitFlit l _ => l < 48
  | .linkTraining t => t.link < 48 && t.peer < 512 && t.replaces.all fun p => p < 46
  | .orderedRelease p _ => p < 9
  | .energyWindow m => m.length == 8
  | _ => true

end Sys2Proof
end

