-- ==== Sys2Proof/Config.lean ====
section
/-!
DEFINITION. What one FV9 fixes and the spec leaves open: values with no body, so that no proof can see
them. Each is named in the assumption log.
-/

namespace Sys2Proof.Config

/-- A free choice among equals, by a counter: which free identifier, slot, place or copy is taken (log entry 3). -/
opaque pick : Nat → Nat

/-- Whether a translation that a TLB holds is used for an access, rather than a walk; by a counter and the address (R86, log
entry 6). -/
opaque useTlb : Nat → Nat → Bool

/-- Whether a line that the read cache holds answers a read; by a counter and the line (R79, R109, log entry 6). -/
opaque useLine : Nat → Nat → Bool

/-- Which entry of a full TLB or read cache gives way to a new one; by a counter and what comes (R79, R86, log entry 6). -/
opaque evict : Nat → Nat → Nat

/-- The functions that R121 bounds and does not fix, by their place in the two majors: 0 frcp, 1 frsq,
2 fexp2, 3 flog2, 4 fsin, 5 fcos, 6 ftanh, and the argument; the rounding mode has no part in them (log entry 5). -/
opaque approx : Nat → BitVec 32 → BitVec 32

/-- SHA3-512 over bytes (R401, log entry 8). -/
opaque sha3 : List Byte → BitVec 512

/-- ML-DSA-87 verification: public key, message digest, signature (R401, R315, log entry 8). -/
opaque mldsaVerify : List Byte → BitVec 512 → List Byte → Bool

/-- ML-DSA-87 signature under the device's identity key (R403, log entry 8). -/
opaque mldsaSign : BitVec 512 → List Byte

/-- The certificate of the identity key (R403, log entry 8). -/
opaque certificate : List Byte

/-- The public identity key of another device, as firmware knows it (R315, log entry 8). -/
opaque peerKey : Nat → List Byte

/-- ML-KEM-1024: an encapsulation key of this device, by a counter (R315, log entry 8). -/
opaque mlkemKey : Nat → List Byte

/-- ML-KEM-1024 encapsulation to a key, by a counter: the ciphertext and the shared secret (R315, log entry 8). -/
opaque mlkemSeal : List Byte → Nat → List Byte × List Byte

/-- ML-KEM-1024 decapsulation with the key of a counter (R315, log entry 8). -/
opaque mlkemOpen : Nat → List Byte → List Byte

/-- The payload of a flit whose layout the spec does not give, by its KIND and the numbers that its message holds (R313, log entry 4). -/
opaque payload : Nat → List Nat → List Byte

/-- AES-256-GCM decryption: key, nonce, header, ciphertext, tag; none when the tag fails (R314, log entry 8). -/
opaque gcmOpen : BitVec 256 → BitVec 96 → BitVec 128 → List Byte → BitVec 128 → Option (List Byte)

/-- AES-256-GCM encryption: key, nonce, header, plain bytes; ciphertext and tag (R314, log entry 8). -/
opaque gcmSeal : BitVec 256 → BitVec 96 → BitVec 128 → List Byte → List Byte × BitVec 128

/-- The boot flash's contents (R401, log entry 8). -/
opaque flashByte : Nat → Byte

/-- The fuse KEYHASH (R401, log entry 8). -/
opaque keyHash : BitVec 512

/-- The fuse MINSVN (R401, log entry 8). -/
opaque minSvn : Nat

/-- The trusted hash and the minimum version for the firmware, from stage one's body (R401, log entry 8). -/
opaque stageOneTrust : List Byte → BitVec 512 × Nat

/-- The values that stage one gives SYSROOT, SYSENT, TVEC and FTAG, from its body (R402, log entry 8). -/
opaque stageOneRegs : List Byte → BitVec 64 × BitVec 64 × BitVec 64 × BitVec 64

/-- The weights of the activity counters, set at manufacture, in nJ: 0 an instruction issued, 1 a copy command, 2 a tensor operation, 3 a
sampler job, 4 a pull that is sent (R406, log entry 7). -/
opaque energyWeight : Nat → Nat

/-- The VLAN identifier in stage one's body, if any (R409, log entry 8). -/
opaque stageOneVlan : List Byte → Option Nat

/-- The key that stage one agrees with the provisioning service (R409, log entry 8). -/
opaque stageOneKey : List Byte → BitVec 256

/-- The key that firmware gives the transport security sublayer of a port, from its body (R322, log entry 8). -/
opaque firmwareUeKey : List Byte → Nat → BitVec 256

/-- What the sensors of the rail and of the sectors show, by the millisecond of the sample and the sensor: 0 the rail's voltage, 1 its current,
2-17 the temperatures (R409, log entry 54). -/
opaque reading : Nat → Nat → BitVec 32

/-- Bits of a register that carry nothing and whose value the spec does not give, by a counter (log entry 9). -/
opaque idleField : Nat → BitVec 64

/-- What a byte of a line holds after an uncorrectable error, by a counter (R378, log entry 18). -/
opaque lostByte : Nat → Byte

/-- Whether a link is congested, by a counter and the link (R311, log entry 4). -/
opaque congested : Nat → Nat → Bool

/-- Whether a later link of the minimal route to a device is down, by a counter and the device (R311, log entry 4). -/
opaque farDown : Nat → Nat → Bool

/-- The entropy value of a packet over Ultra Ethernet, by its number (R322, log entry 4). -/
opaque entropy : Nat → BitVec 16

end Sys2Proof.Config
end

