-- ==== Sys2Proof/Decode.lean ====
section
/-!
DEFINITION. Decoding of instruction words (R168-R186) and of hint words (R178-R182), and the encoder
written from the same tables. A word that R185 calls illegal by its own bits decodes to none.
-/

namespace Sys2Proof

/-- The operand of a code (R51, R54); codes 0xFB to 0xFE have none (R52, R185). -/
def opOf (c : BitVec 8) : Option Operand :=
  let n := c.toNat
  if h : n < 0x80 then some (.v ⟨n, h⟩)
  else if n < 0xC0 then some (.w (Fin.ofNat 64 (n - 0x80)))
  else if n < 0xD0 then some (.p (Fin.ofNat 16 (n - 0xC0)))
  else if n < 0xD8 then some (.a (Fin.ofNat 8 (n - 0xD0)))
  else if n < 0xE0 then some (.j (Fin.ofNat 8 (n - 0xD8)))
  else if n < 0xF0 then some (.t (Fin.ofNat 16 (n - 0xE0)))
  else match n with
    | 0xF0 => some .lane | 0xF1 => some .team | 0xF2 => some .core | 0xF3 => some .sector
    | 0xF4 => some .dev | 0xF5 => some .flow | 0xF6 => some .cls | 0xF7 => some .seq
    | 0xF8 => some .clock | 0xF9 => some .tslot | 0xFA => some .part | 0xFF => some .zero
    | _ => none

/-- The code of an operand (R51, R54). -/
def opCode : Operand → BitVec 8
  | .v n => BitVec.ofNat 8 n.val
  | .w n => BitVec.ofNat 8 (0x80 + n.val)
  | .p n => BitVec.ofNat 8 (0xC0 + n.val)
  | .a n => BitVec.ofNat 8 (0xD0 + n.val)
  | .j n => BitVec.ofNat 8 (0xD8 + n.val)
  | .t n => BitVec.ofNat 8 (0xE0 + n.val)
  | .lane => 0xF0 | .team => 0xF1 | .core => 0xF2 | .sector => 0xF3 | .dev => 0xF4 | .flow => 0xF5
  | .cls => 0xF6 | .seq => 0xF7 | .clock => 0xF8 | .tslot => 0xF9 | .part => 0xFA | .zero => 0xFF

/-- The scope of a code (R171). -/
def scopeOf : BitVec 3 → Option Scope
  | 0#3 => some .team | 1#3 => some .core | 2#3 => some .sector | 3#3 => some .dev | 4#3 => some .sys
  | _ => none

/-! The fields of the formats (R168). -/

def fD (w : BitVec 32) : BitVec 8 := w.extractLsb' 18 8
def fS1 (w : BitVec 32) : BitVec 8 := w.extractLsb' 10 8
def fS2 (w : BitVec 32) : BitVec 8 := w.extractLsb' 2 8
def fFN (w : BitVec 32) : BitVec 2 := w.extractLsb' 0 2
def fImm10 (w : BitVec 32) : BitVec 10 := w.extractLsb' 0 10
def fAmt (w : BitVec 32) : BitVec 6 := w.extractLsb' 0 6
def fHi4 (w : BitVec 32) : BitVec 4 := w.extractLsb' 6 4
def fImm18 (w : BitVec 32) : BitVec 18 := w.extractLsb' 0 18
def fOP4 (w : BitVec 32) : BitVec 4 := w.extractLsb' 22 4
def fX (w : BitVec 32) : BitVec 8 := w.extractLsb' 14 8
def fY (w : BitVec 32) : BitVec 8 := w.extractLsb' 6 8
def fZ6 (w : BitVec 32) : BitVec 6 := w.extractLsb' 0 6
def fPred (w : BitVec 32) : BitVec 4 := w.extractLsb' 22 4
def fSucc (w : BitVec 32) : BitVec 4 := w.extractLsb' 18 4
def fFScope (w : BitVec 32) : BitVec 3 := w.extractLsb' 15 3
def fFKind (w : BitVec 32) : BitVec 2 := w.extractLsb' 13 2
def fFZero (w : BitVec 32) : BitVec 13 := w.extractLsb' 0 13
def fSOP (w : BitVec 32) : BitVec 6 := w.extractLsb' 20 6
def fSD (w : BitVec 32) : BitVec 8 := w.extractLsb' 12 8
def fImm12 (w : BitVec 32) : BitVec 12 := w.extractLsb' 0 12
def fHi (w : BitVec 32) : BitVec 10 := w.extractLsb' 16 10
def fOnes (w : BitVec 32) : BitVec 6 := w.extractLsb' 10 6

/-! The formats put together (R168). -/

def packA (m : BitVec 6) (d a b : BitVec 8) (fn : BitVec 2) : BitVec 32 := m ++ d ++ a ++ b ++ fn
def packB (m : BitVec 6) (d a : BitVec 8) (i : BitVec 10) : BitVec 32 := m ++ d ++ a ++ i
def packC (m : BitVec 6) (d : BitVec 8) (i : BitVec 18) : BitVec 32 := m ++ d ++ i
def packE (m : BitVec 6) (o : BitVec 4) (x y : BitVec 8) (z : BitVec 6) : BitVec 32 := m ++ o ++ x ++ y ++ z
def packF (m : BitVec 6) (p s : BitVec 4) (c : BitVec 3) (k : BitVec 2) (z : BitVec 13) : BitVec 32 :=
  m ++ p ++ s ++ c ++ k ++ z
def packS (m o : BitVec 6) (d : BitVec 8) (i : BitVec 12) : BitVec 32 := m ++ o ++ d ++ i
def packK (m : BitVec 6) (h : BitVec 10) (o : BitVec 6) (l : BitVec 10) : BitVec 32 := m ++ h ++ o ++ l

/-! Operand fields read and unused fields tested (R169, R185). -/

def op3 (d a b : BitVec 8) (f : Operand → Operand → Operand → Instr) : Option Instr :=
  match opOf d, opOf a, opOf b with
  | some d, some a, some b => some (f d a b)
  | _, _, _ => none

def op2 (d a unused : BitVec 8) (f : Operand → Operand → Instr) : Option Instr :=
  match opOf d, opOf a with
  | some d, some a => if unused = 0xFF#8 then some (f d a) else none
  | _, _ => none

def op1 (d u1 u2 : BitVec 8) (f : Operand → Instr) : Option Instr :=
  match opOf d with
  | some d => if u1 = 0xFF#8 ∧ u2 = 0xFF#8 then some (f d) else none
  | none => none

def op0 (u1 u2 u3 : BitVec 8) (f : Instr) : Option Instr :=
  if u1 = 0xFF#8 ∧ u2 = 0xFF#8 ∧ u3 = 0xFF#8 then some f else none

def opCode2 (d a code : BitVec 8) (f : Operand → Operand → BitVec 8 → Instr) : Option Instr :=
  match opOf d, opOf a with
  | some d, some a => some (f d a code)
  | _, _ => none

def opCode1 (d unused code : BitVec 8) (f : Operand → BitVec 8 → Instr) : Option Instr :=
  match opOf d with
  | some d => if unused = 0xFF#8 then some (f d code) else none
  | none => none

def opB {n : Nat} (d a : BitVec 8) (i : BitVec n) (f : Operand → Operand → BitVec n → Instr) : Option Instr :=
  match opOf d, opOf a with
  | some d, some a => some (f d a i)
  | _, _ => none

def opJ (d : BitVec 8) (i : BitVec 18) (f : Operand → BitVec 18 → Instr) : Option Instr :=
  match opOf d with
  | some d => some (f d i)
  | none => none

def opXY (x y : BitVec 8) (f : Operand → Operand → Instr) : Option Instr :=
  match opOf x, opOf y with
  | some x, some y => some (f x y)
  | _, _ => none

def opX (x unused : BitVec 8) (f : Operand → Instr) : Option Instr :=
  match opOf x with
  | some x => if unused = 0xFF#8 then some (f x) else none
  | none => none

def opXYZ (x y : BitVec 8) (z : BitVec 6) (f : Operand → Operand → BitVec 6 → Instr) : Option Instr :=
  opXY x y fun x y => f x y z

def opXZ (x unused : BitVec 8) (z : BitVec 6) (f : Operand → BitVec 6 → Instr) : Option Instr :=
  opX x unused fun x => f x z

def opZ (u1 u2 : BitVec 8) (z : BitVec 6) (f : BitVec 6 → Instr) : Option Instr :=
  if u1 = 0xFF#8 ∧ u2 = 0xFF#8 then some (f z) else none

/-- A Z6 that the instruction does not use must be 0 (R169). -/
def zeroZ (z : BitVec 6) (r : Option Instr) : Option Instr := if z = 0#6 then r else none

/-- Major 0x01 (R172). -/
def decodeA01 (d a b : BitVec 8) : BitVec 2 → Option Instr
  | 0#2 => op3 d a b .add
  | 1#2 => op3 d a b .sub
  | 2#2 => op3 d a b .addSatI
  | 3#2 => op3 d a b .addSatN

/-- Major 0x02 (R172). -/
def decodeA02 (d a b : BitVec 8) : BitVec 2 → Option Instr
  | 0#2 => op3 d a b .mul
  | 1#2 => op3 d a b .mulhiI
  | 2#2 => op3 d a b .mulhiN
  | 3#2 => op3 d a b .mad

/-- Major 0x03 (R172). -/
def decodeA03 (d a b : BitVec 8) : BitVec 2 → Option Instr
  | 0#2 => op3 d a b .divI
  | 1#2 => op3 d a b .divN
  | 2#2 => op3 d a b .remI
  | 3#2 => op3 d a b .remN

/-- Major 0x04 (R172). -/
def decodeA04 (d a b : BitVec 8) : BitVec 2 → Option Instr
  | 0#2 => op3 d a b .andOp
  | 1#2 => op3 d a b .orOp
  | 2#2 => op3 d a b .xorOp
  | 3#2 => op3 d a b .andn

/-- Major 0x05 (R172). -/
def decodeA05 (d a b : BitVec 8) : BitVec 2 → Option Instr
  | 0#2 => op3 d a b .shl
  | 1#2 => op3 d a b .shr
  | 2#2 => op3 d a b .sar
  | 3#2 => op3 d a b .rotl

/-- Major 0x06 (R172). -/
def decodeA06 (d a b : BitVec 8) : BitVec 2 → Option Instr
  | 0#2 => op2 d a b .clz
  | 1#2 => op2 d a b .popc
  | 2#2 => op2 d a b .brev
  | 3#2 => op2 d a b .ffs

/-- Major 0x07 (R172). -/
def decodeA07 (d a b : BitVec 8) : BitVec 2 → Option Instr
  | 0#2 => op3 d a b .minI
  | 1#2 => op3 d a b .maxI
  | 2#2 => op3 d a b .minN
  | 3#2 => op3 d a b .maxN

/-- Major 0x08 (R172). -/
def decodeA08 (d a b : BitVec 8) : BitVec 2 → Option Instr
  | 0#2 => op3 d a b .bfxI
  | 1#2 => op3 d a b .bfxN
  | 2#2 => op3 d a b .bfi
  | 3#2 => op3 d a b .lea

/-- Major 0x13 (R172). -/
def decodeA13 (d a b : BitVec 8) : BitVec 2 → Option Instr
  | 0#2 => op2 d a b .mov
  | 1#2 => op3 d a b .cmov
  | 2#2 => op2 d a b .p2v
  | 3#2 => op2 d a b .v2p

/-- Major 0x14 (R172). -/
def decodeA14 (d a b : BitVec 8) : BitVec 2 → Option Instr
  | 0#2 => op3 d a b .cmpEq
  | 1#2 => op3 d a b .cmpNe
  | 2#2 => op3 d a b .cmpLtI
  | 3#2 => op3 d a b .cmpLeI

/-- Major 0x15 (R172). -/
def decodeA15 (d a b : BitVec 8) : BitVec 2 → Option Instr
  | 0#2 => op3 d a b .cmpLtN
  | 1#2 => op3 d a b .cmpLeN
  | 2#2 => op3 d a b .tst
  | 3#2 => op3 d a b .tstz

/-- Major 0x16 (R172). -/
def decodeA16 (d a b : BitVec 8) : BitVec 2 → Option Instr
  | 0#2 => op3 d a b .pand
  | 1#2 => op3 d a b .por
  | 2#2 => op3 d a b .pxor
  | 3#2 => op3 d a b .pandn

/-- Major 0x17 (R172). -/
def decodeA17 (d a b : BitVec 8) : BitVec 2 → Option Instr
  | 0#2 => op1 d a b .pset
  | 1#2 => op1 d a b .pclr
  | 2#2 => op2 d a b .pfirst
  | 3#2 => op2 d a b .pcnt

/-- Major 0x1a (R172). -/
def decodeA1A (d a b : BitVec 8) : BitVec 2 → Option Instr
  | 0#2 => op1 a d b .brx
  | 1#2 => op1 a d b .ret
  | 2#2 => op2 d a b .callx
  | 3#2 => none

/-- Major 0x1c (R172). -/
def decodeA1C (d a b : BitVec 8) : BitVec 2 → Option Instr
  | 0#2 => op2 d a b .joinSet
  | 1#2 => op2 d a b .joinAdd
  | 2#2 => op1 d a b .joinClr
  | 3#2 => op2 d a b .joinRem

/-- Major 0x1d (R172). -/
def decodeA1D (d a b : BitVec 8) : BitVec 2 → Option Instr
  | 0#2 => op0 d a b .exitLanes
  | 1#2 => op0 d a b .refill
  | 2#2 => op0 d a b .yield
  | 3#2 => op0 d a b .nop

/-- Major 0x20 (R172). -/
def decodeA20 (d a b : BitVec 8) : BitVec 2 → Option Instr
  | 0#2 => op3 d a b .ldB
  | 1#2 => op3 d a b .ldH
  | 2#2 => op3 d a b .ldW
  | 3#2 => op3 d a b .ldD

/-- Major 0x21 (R172). -/
def decodeA21 (d a b : BitVec 8) : BitVec 2 → Option Instr
  | 0#2 => op3 d a b .stB
  | 1#2 => op3 d a b .stH
  | 2#2 => op3 d a b .stW
  | 3#2 => op3 d a b .stD

/-- Major 0x22 (R172). -/
def decodeA22 (d a b : BitVec 8) : BitVec 2 → Option Instr
  | 0#2 => op2 a b d .pref
  | 1#2 => op2 a b d .zeroLine
  | 2#2 => op2 d a b .gaddr
  | 3#2 => op2 d a b .space

/-- Major 0x23 (R172). -/
def decodeA23 (d a b : BitVec 8) : BitVec 2 → Option Instr
  | 0#2 => op3 d a b .alloc
  | 1#2 => op1 a d b .freeMem
  | 2#2 => op3 d a b .allocZ
  | 3#2 => none

/-- Major 0x24 (R172). -/
def decodeA24 (d a b : BitVec 8) : BitVec 2 → Option Instr
  | 0#2 => op3 d a b .atomAdd
  | 1#2 => op3 d a b .atomAddSatN
  | 2#2 => op3 d a b .atomFadd
  | 3#2 => op3 d a b .atomXchg

/-- Major 0x25 (R172). -/
def decodeA25 (d a b : BitVec 8) : BitVec 2 → Option Instr
  | 0#2 => op3 d a b .atomMinI
  | 1#2 => op3 d a b .atomMaxI
  | 2#2 => op3 d a b .atomMinN
  | 3#2 => op3 d a b .atomMaxN

/-- Major 0x26 (R172). -/
def decodeA26 (d a b : BitVec 8) : BitVec 2 → Option Instr
  | 0#2 => op3 d a b .atomAnd
  | 1#2 => op3 d a b .atomOr
  | 2#2 => op3 d a b .atomXor
  | 3#2 => op3 d a b .atomCas

/-- Major 0x29 (R172). -/
def decodeA29 (d a b : BitVec 8) : BitVec 2 → Option Instr
  | 0#2 => op2 d a b .sput
  | 1#2 => op2 d a b .sgetC
  | 2#2 => op2 d a b .sget
  | 3#2 => op2 d a b .sq

/-- Major 0x2a (R172). -/
def decodeA2A (d a b : BitVec 8) : BitVec 2 → Option Instr
  | 0#2 => op0 d a b .flowRel
  | 1#2 => op2 a b d .flowSet
  | 2#2 => op2 d a b .flowQ
  | 3#2 => none

/-- Major 0x2c (R172). -/
def decodeA2C (d a b : BitVec 8) : BitVec 2 → Option Instr
  | 0#2 => op3 d a b .rld
  | 1#2 => op3 d a b .rst
  | 2#2 => op3 d a b .ratom
  | 3#2 => op3 d a b .mcst

/-- Major 0x30 (R172). -/
def decodeA30 (d a b : BitVec 8) : BitVec 2 → Option Instr
  | 0#2 => op3 d a b .fadd
  | 1#2 => op3 d a b .fsub
  | 2#2 => op3 d a b .fmul
  | 3#2 => op3 d a b .ffma

/-- Major 0x31 (R172). -/
def decodeA31 (d a b : BitVec 8) : BitVec 2 → Option Instr
  | 0#2 => op3 d a b .fmin
  | 1#2 => op3 d a b .fmax
  | 2#2 => op3 d a b .fdiv
  | 3#2 => op3 d a b .fcpsgn

/-- Major 0x32 (R172). -/
def decodeA32 (d a b : BitVec 8) : BitVec 2 → Option Instr
  | 0#2 => op2 d a b .frcp
  | 1#2 => op2 d a b .frsq
  | 2#2 => op2 d a b .fsqrt
  | 3#2 => op2 d a b .fexp2

/-- Major 0x33 (R172). -/
def decodeA33 (d a b : BitVec 8) : BitVec 2 → Option Instr
  | 0#2 => op2 d a b .flog2
  | 1#2 => op2 d a b .fsin
  | 2#2 => op2 d a b .fcos
  | 3#2 => op2 d a b .ftanh

/-- Major 0x34 (R172). -/
def decodeA34 (d a b : BitVec 8) : BitVec 2 → Option Instr
  | 0#2 => op3 d a b .fcmpEq
  | 1#2 => op3 d a b .fcmpLt
  | 2#2 => op3 d a b .fcmpLe
  | 3#2 => op3 d a b .fcmpUn

/-- Major 0x35 (R172). -/
def decodeA35 (d a b : BitVec 8) : BitVec 2 → Option Instr
  | 0#2 => opCode2 d a b .cvtRn
  | 1#2 => opCode2 d a b .cvtRz
  | 2#2 => opCode2 d a b .cvtRd
  | 3#2 => opCode2 d a b .cvtRu

/-- Major 0x36 (R172). -/
def decodeA36 (d a b : BitVec 8) : BitVec 2 → Option Instr
  | 0#2 => op3 d a b .qblk
  | 1#2 => op2 d a b .dqblk
  | 2#2 => opCode2 d a b .qmx
  | 3#2 => none

/-- Major 0x37 (R172). -/
def decodeA37 (d a b : BitVec 8) : BitVec 2 → Option Instr
  | 0#2 => op3 d a b .shfl
  | 1#2 => op3 d a b .shflX
  | 2#2 => op3 d a b .shflUp
  | 3#2 => op3 d a b .shflDn

/-- Major 0x38 (R172). -/
def decodeA38 (d a b : BitVec 8) : BitVec 2 → Option Instr
  | 0#2 => op2 d a b .voteAny
  | 1#2 => op2 d a b .voteAll
  | 2#2 => op2 d a b .ballot
  | 3#2 => op2 d a b .voteEq

/-- Major 0x39 (R172). -/
def decodeA39 (d a b : BitVec 8) : BitVec 2 → Option Instr
  | 0#2 => op2 d a b .redwAdd
  | 1#2 => op2 d a b .redwFadd
  | 2#2 => op2 d a b .redwFmax
  | 3#2 => op2 d a b .redwFmin

/-- Major 0x3a (R172). -/
def decodeA3A (d a b : BitVec 8) : BitVec 2 → Option Instr
  | 0#2 => op3 d a b .topkIns
  | 1#2 => opCode1 d a b .topkClr
  | 2#2 => none
  | 3#2 => none

/-- Major 0x3b (R172). -/
def decodeA3B (d a b : BitVec 8) : BitVec 2 → Option Instr
  | 0#2 => op2 d a b .symQ
  | 1#2 => op1 a d b .symWait
  | 2#2 => op0 d a b .symWall
  | 3#2 => none

/-- Major 0x28 (R173). -/
def decodeE28 (x y : BitVec 8) (z : BitVec 6) : BitVec 4 → Option Instr
  | 0#4 => opXZ x y z .barInit
  | 1#4 => opXZ x y z .barInitForce
  | 2#4 => opXYZ x y z .barArr
  | 3#4 => opZ x y z .barWait
  | 4#4 => opZ x y z .barInv
  | 5#4 => opXZ x y z .barQ
  | _ => none

/-- Major 0x2b (R173). -/
def decodeE2B (x y : BitVec 8) (z : BitVec 6) : BitVec 4 → Option Instr
  | 0#4 => zeroZ z (opXY x y .enq)
  | 1#4 => zeroZ z (opXY x y .enqW)
  | 2#4 => zeroZ z (opXY x y .cntSet)
  | 3#4 => zeroZ z (opXY x y .cntAdd)
  | 4#4 => zeroZ z (opXY x y .cntDec)
  | 5#4 => zeroZ z (opXY x y .cntQ)
  | 6#4 => zeroZ z (opXY x y .heapIns)
  | 7#4 => zeroZ z (opX x y .heapRm)
  | 8#4 => zeroZ z (opXY x y .admitHeap)
  | _ => none

/-- Major 0x2d (R173). -/
def decodeE2D (x y : BitVec 8) (z : BitVec 6) : BitVec 4 → Option Instr
  | 0#4 => zeroZ z (opXY x y .tclaim)
  | 1#4 => zeroZ z (opX x y .trel)
  | 2#4 => opXZ x y z .tload
  | 3#4 => opXY x y fun x y => .mma x y (z.getLsbD 5) (z.getLsbD 4) (z.getLsbD 3) (z.extractLsb' 0 3)
  | 4#4 => zeroZ z (opX x y .mfence)
  | 5#4 => zeroZ z (opX x y .mwait)
  | 6#4 => zeroZ z (opX x y .accZero)
  | 7#4 => zeroZ z (opXY x y .accLd)
  | 8#4 => zeroZ z (opXY x y .accSt)
  | 9#4 => opXYZ x y z .accMv
  | 10#4 => zeroZ z (opXY x y .tinfo)
  | _ => none

/-- Major 0x3c (R173). -/
def decodeE3C (x y : BitVec 8) (z : BitVec 6) : BitVec 4 → Option Instr
  | 0#4 => opXZ x y z .cp
  | 1#4 => opXZ x y z .cpSg
  | 2#4 => zeroZ z (opX x y .cpStep)
  | 3#4 => opZ x y z .hWait
  | 4#4 => if x = 0xFF#8 ∧ y = 0xFF#8 then some (.hSetFree z) else opXYZ x y z .hSet
  | 5#4 => opXZ x y z .hQ
  | 6#4 => opXZ x y z .pullReq
  | 7#4 => opXYZ x y z .grantCfg
  | 8#4 => opXZ x y z .xferQ
  | 9#4 => opXYZ x y z .smp
  | 10#4 => opXZ x y z .smpQ
  | _ => none

/-- Major 0x27 (R175): KIND and bits [12:0] must be zero. -/
def decodeFence (pred succ : BitVec 4) (scope : BitVec 3) (kind : BitVec 2) (z : BitVec 13) : Option Instr :=
  match scopeOf scope with
  | some sc => if kind = 0#2 ∧ z = 0#13 then some (.fence pred succ sc) else none
  | none => none

/-- A `ctl.w` word: the writes of DEVID, FQHEAD and FQBASE are rows of their own (R25, R88, R364). -/
def decodeCtlW (d : Operand) (n : BitVec 12) : Instr :=
  if n = 0x204#12 then .devid d
  else if n.extractLsb' 7 5 = 0b00011#5 ∧ n.extractLsb' 0 4 = 4#4 then .fqhead d (n.extractLsb' 4 3)
  else if n.extractLsb' 7 5 = 0b00011#5 ∧ n.extractLsb' 0 4 = 3#4 then .fqbase d (n.extractLsb' 4 3)
  else .ctlW d n

/-- Major 0x3D (R174, R368). -/
def decodeS (d : BitVec 8) (n : BitVec 12) (sop : BitVec 6) : Option Instr :=
  match sop.toNat with
  | 0 => if d = 0xFF#8 then some (.trapInstr n) else none
  | 1 => if d = 0xFF#8 ∧ n = 0#12 then some .sret else none
  | 2 => (opOf d).map fun d => .ctlR d n
  | 3 => (opOf d).map fun d => decodeCtlW d n
  | 4 => if n.extractLsb' 5 7 = 0#7 then (opOf d).map fun d => .tlbInv d (n.extractLsb' 0 2) (n.extractLsb' 2 3) else none
  | 5 =>
    if n.extractLsb' 3 9 = 0#9 then (opOf d).map fun d => .faultPop d (n.extractLsb' 0 3)
    else if n.extractLsb' 3 9 = 1#9 then (opOf d).map fun d => .faultPopW d (n.extractLsb' 0 3)
    else none
  | 6 => if n.extractLsb' 1 11 = 0#11 then (opOf d).map fun d => .faultDone d (n.getLsbD 0) else none
  | 7 => if n = 0#12 then (opOf d).map fun d => .teamPark d else none
  | 8 => if n = 0#12 then (opOf d).map fun d => .teamWake d else none
  | 9 => if n.extractLsb' 1 11 = 0#11 then (opOf d).map fun d => .ctxSave d (n.getLsbD 0) else none
  | 10 => if n.extractLsb' 1 11 = 0#11 then (opOf d).map fun d => .ctxLoad d (n.getLsbD 0) else none
  | 11 => if d = 0xFF#8 ∧ n = 0#12 then some .halt else none
  | _ => none

/-- The instruction that a 32-bit word names (R168-R185), or none where the word is illegal by its own bits. -/
def decodeWord (w : BitVec 32) : Option Instr :=
  match (w.extractLsb' 26 6).toNat with
  | 0x01 => decodeA01 (fD w) (fS1 w) (fS2 w) (fFN w)
  | 0x02 => decodeA02 (fD w) (fS1 w) (fS2 w) (fFN w)
  | 0x03 => decodeA03 (fD w) (fS1 w) (fS2 w) (fFN w)
  | 0x04 => decodeA04 (fD w) (fS1 w) (fS2 w) (fFN w)
  | 0x05 => decodeA05 (fD w) (fS1 w) (fS2 w) (fFN w)
  | 0x06 => decodeA06 (fD w) (fS1 w) (fS2 w) (fFN w)
  | 0x07 => decodeA07 (fD w) (fS1 w) (fS2 w) (fFN w)
  | 0x08 => decodeA08 (fD w) (fS1 w) (fS2 w) (fFN w)
  | 0x13 => decodeA13 (fD w) (fS1 w) (fS2 w) (fFN w)
  | 0x14 => decodeA14 (fD w) (fS1 w) (fS2 w) (fFN w)
  | 0x15 => decodeA15 (fD w) (fS1 w) (fS2 w) (fFN w)
  | 0x16 => decodeA16 (fD w) (fS1 w) (fS2 w) (fFN w)
  | 0x17 => decodeA17 (fD w) (fS1 w) (fS2 w) (fFN w)
  | 0x1a => decodeA1A (fD w) (fS1 w) (fS2 w) (fFN w)
  | 0x1c => decodeA1C (fD w) (fS1 w) (fS2 w) (fFN w)
  | 0x1d => decodeA1D (fD w) (fS1 w) (fS2 w) (fFN w)
  | 0x20 => decodeA20 (fD w) (fS1 w) (fS2 w) (fFN w)
  | 0x21 => decodeA21 (fD w) (fS1 w) (fS2 w) (fFN w)
  | 0x22 => decodeA22 (fD w) (fS1 w) (fS2 w) (fFN w)
  | 0x23 => decodeA23 (fD w) (fS1 w) (fS2 w) (fFN w)
  | 0x24 => decodeA24 (fD w) (fS1 w) (fS2 w) (fFN w)
  | 0x25 => decodeA25 (fD w) (fS1 w) (fS2 w) (fFN w)
  | 0x26 => decodeA26 (fD w) (fS1 w) (fS2 w) (fFN w)
  | 0x28 => decodeE28 (fX w) (fY w) (fZ6 w) (fOP4 w)
  | 0x29 => decodeA29 (fD w) (fS1 w) (fS2 w) (fFN w)
  | 0x2a => decodeA2A (fD w) (fS1 w) (fS2 w) (fFN w)
  | 0x2b => decodeE2B (fX w) (fY w) (fZ6 w) (fOP4 w)
  | 0x2c => decodeA2C (fD w) (fS1 w) (fS2 w) (fFN w)
  | 0x2d => decodeE2D (fX w) (fY w) (fZ6 w) (fOP4 w)
  | 0x30 => decodeA30 (fD w) (fS1 w) (fS2 w) (fFN w)
  | 0x31 => decodeA31 (fD w) (fS1 w) (fS2 w) (fFN w)
  | 0x32 => decodeA32 (fD w) (fS1 w) (fS2 w) (fFN w)
  | 0x33 => decodeA33 (fD w) (fS1 w) (fS2 w) (fFN w)
  | 0x34 => decodeA34 (fD w) (fS1 w) (fS2 w) (fFN w)
  | 0x35 => decodeA35 (fD w) (fS1 w) (fS2 w) (fFN w)
  | 0x36 => decodeA36 (fD w) (fS1 w) (fS2 w) (fFN w)
  | 0x37 => decodeA37 (fD w) (fS1 w) (fS2 w) (fFN w)
  | 0x38 => decodeA38 (fD w) (fS1 w) (fS2 w) (fFN w)
  | 0x39 => decodeA39 (fD w) (fS1 w) (fS2 w) (fFN w)
  | 0x3a => decodeA3A (fD w) (fS1 w) (fS2 w) (fFN w)
  | 0x3b => decodeA3B (fD w) (fS1 w) (fS2 w) (fFN w)
  | 0x3c => decodeE3C (fX w) (fY w) (fZ6 w) (fOP4 w)
  | 0x09 => opB (fD w) (fS1 w) (fImm10 w) .addi
  | 0x0a => opB (fD w) (fS1 w) (fImm10 w) .muli
  | 0x0b => opB (fD w) (fS1 w) (fImm10 w) .andi
  | 0x0c => opB (fD w) (fS1 w) (fImm10 w) .ori
  | 0x0d => opB (fD w) (fS1 w) (fImm10 w) .xori
  | 0x0e => if fHi4 w = 0#4 then opB (fD w) (fS1 w) (fAmt w) .shli else none
  | 0x0f => if fHi4 w = 0#4 then opB (fD w) (fS1 w) (fAmt w) .shri else none
  | 0x10 => if fHi4 w = 0#4 then opB (fD w) (fS1 w) (fAmt w) .sari else none
  | 0x18 => opJ (fD w) (fImm18 w) .br
  | 0x19 => opJ (fD w) (fImm18 w) .call
  | 0x1b => opJ (fD w) (fImm18 w) .joinArr
  | 0x11 => opJ (fD w) (fImm18 w) .movi
  | 0x12 => opJ (fD w) (fImm18 w) fun d i => .movk d (i.extractLsb' 16 2) (i.extractLsb' 0 16)
  | 0x27 => decodeFence (fPred w) (fSucc w) (fFScope w) (fFKind w) (fFZero w)
  | 0x3D => decodeS (fSD w) (fImm12 w) (fSOP w)
  | 0x3F => if fOnes w = 0x3F#6 then some (.dictionaryWord (fHi w) (fImm10 w)) else none
  | _ => none

/-- The word of an instruction, from the same tables (R168-R183); an event has no word. -/
def encode : Instr → Option (BitVec 32)
  | .add d a b => some (packA 0x01 (opCode d) (opCode a) (opCode b) 0)
  | .sub d a b => some (packA 0x01 (opCode d) (opCode a) (opCode b) 1)
  | .addSatI d a b => some (packA 0x01 (opCode d) (opCode a) (opCode b) 2)
  | .addSatN d a b => some (packA 0x01 (opCode d) (opCode a) (opCode b) 3)
  | .mul d a b => some (packA 0x02 (opCode d) (opCode a) (opCode b) 0)
  | .mulhiI d a b => some (packA 0x02 (opCode d) (opCode a) (opCode b) 1)
  | .mulhiN d a b => some (packA 0x02 (opCode d) (opCode a) (opCode b) 2)
  | .mad d a b => some (packA 0x02 (opCode d) (opCode a) (opCode b) 3)
  | .divI d a b => some (packA 0x03 (opCode d) (opCode a) (opCode b) 0)
  | .divN d a b => some (packA 0x03 (opCode d) (opCode a) (opCode b) 1)
  | .remI d a b => some (packA 0x03 (opCode d) (opCode a) (opCode b) 2)
  | .remN d a b => some (packA 0x03 (opCode d) (opCode a) (opCode b) 3)
  | .andOp d a b => some (packA 0x04 (opCode d) (opCode a) (opCode b) 0)
  | .orOp d a b => some (packA 0x04 (opCode d) (opCode a) (opCode b) 1)
  | .xorOp d a b => some (packA 0x04 (opCode d) (opCode a) (opCode b) 2)
  | .andn d a b => some (packA 0x04 (opCode d) (opCode a) (opCode b) 3)
  | .shl d a b => some (packA 0x05 (opCode d) (opCode a) (opCode b) 0)
  | .shr d a b => some (packA 0x05 (opCode d) (opCode a) (opCode b) 1)
  | .sar d a b => some (packA 0x05 (opCode d) (opCode a) (opCode b) 2)
  | .rotl d a b => some (packA 0x05 (opCode d) (opCode a) (opCode b) 3)
  | .clz d a => some (packA 0x06 (opCode d) (opCode a) 0xFF#8 0)
  | .popc d a => some (packA 0x06 (opCode d) (opCode a) 0xFF#8 1)
  | .brev d a => some (packA 0x06 (opCode d) (opCode a) 0xFF#8 2)
  | .ffs d a => some (packA 0x06 (opCode d) (opCode a) 0xFF#8 3)
  | .minI d a b => some (packA 0x07 (opCode d) (opCode a) (opCode b) 0)
  | .maxI d a b => some (packA 0x07 (opCode d) (opCode a) (opCode b) 1)
  | .minN d a b => some (packA 0x07 (opCode d) (opCode a) (opCode b) 2)
  | .maxN d a b => some (packA 0x07 (opCode d) (opCode a) (opCode b) 3)
  | .bfxI d a b => some (packA 0x08 (opCode d) (opCode a) (opCode b) 0)
  | .bfxN d a b => some (packA 0x08 (opCode d) (opCode a) (opCode b) 1)
  | .bfi d a b => some (packA 0x08 (opCode d) (opCode a) (opCode b) 2)
  | .lea d a b => some (packA 0x08 (opCode d) (opCode a) (opCode b) 3)
  | .addi d a imm => some (packB 0x09 (opCode d) (opCode a) imm)
  | .muli d a imm => some (packB 0x0a (opCode d) (opCode a) imm)
  | .andi d a imm => some (packB 0x0b (opCode d) (opCode a) imm)
  | .ori d a imm => some (packB 0x0c (opCode d) (opCode a) imm)
  | .xori d a imm => some (packB 0x0d (opCode d) (opCode a) imm)
  | .shli d a amt => some (packB 0x0e (opCode d) (opCode a) (0#4 ++ amt))
  | .shri d a amt => some (packB 0x0f (opCode d) (opCode a) (0#4 ++ amt))
  | .sari d a amt => some (packB 0x10 (opCode d) (opCode a) (0#4 ++ amt))
  | .movi d imm => some (packC 0x11 (opCode d) imm)
  | .movk d sel imm => some (packC 0x12 (opCode d) (sel ++ imm))
  | .mov d a => some (packA 0x13 (opCode d) (opCode a) 0xFF#8 0)
  | .cmov d a b => some (packA 0x13 (opCode d) (opCode a) (opCode b) 1)
  | .p2v d a => some (packA 0x13 (opCode d) (opCode a) 0xFF#8 2)
  | .v2p d a => some (packA 0x13 (opCode d) (opCode a) 0xFF#8 3)
  | .cmpEq d a b => some (packA 0x14 (opCode d) (opCode a) (opCode b) 0)
  | .cmpNe d a b => some (packA 0x14 (opCode d) (opCode a) (opCode b) 1)
  | .cmpLtI d a b => some (packA 0x14 (opCode d) (opCode a) (opCode b) 2)
  | .cmpLeI d a b => some (packA 0x14 (opCode d) (opCode a) (opCode b) 3)
  | .cmpLtN d a b => some (packA 0x15 (opCode d) (opCode a) (opCode b) 0)
  | .cmpLeN d a b => some (packA 0x15 (opCode d) (opCode a) (opCode b) 1)
  | .tst d a b => some (packA 0x15 (opCode d) (opCode a) (opCode b) 2)
  | .tstz d a b => some (packA 0x15 (opCode d) (opCode a) (opCode b) 3)
  | .pand d a b => some (packA 0x16 (opCode d) (opCode a) (opCode b) 0)
  | .por d a b => some (packA 0x16 (opCode d) (opCode a) (opCode b) 1)
  | .pxor d a b => some (packA 0x16 (opCode d) (opCode a) (opCode b) 2)
  | .pandn d a b => some (packA 0x16 (opCode d) (opCode a) (opCode b) 3)
  | .pset d => some (packA 0x17 (opCode d) 0xFF#8 0xFF#8 0)
  | .pclr d => some (packA 0x17 (opCode d) 0xFF#8 0xFF#8 1)
  | .pfirst d a => some (packA 0x17 (opCode d) (opCode a) 0xFF#8 2)
  | .pcnt d a => some (packA 0x17 (opCode d) (opCode a) 0xFF#8 3)
  | .br cond off => some (packC 0x18 (opCode cond) off)
  | .call cond off => some (packC 0x19 (opCode cond) off)
  | .brx a => some (packA 0x1a 0xFF#8 (opCode a) 0xFF#8 0)
  | .ret a => some (packA 0x1a 0xFF#8 (opCode a) 0xFF#8 1)
  | .callx d a => some (packA 0x1a (opCode d) (opCode a) 0xFF#8 2)
  | .joinArr cond off => some (packC 0x1b (opCode cond) off)
  | .joinSet d a => some (packA 0x1c (opCode d) (opCode a) 0xFF#8 0)
  | .joinAdd d a => some (packA 0x1c (opCode d) (opCode a) 0xFF#8 1)
  | .joinClr d => some (packA 0x1c (opCode d) 0xFF#8 0xFF#8 2)
  | .joinRem d a => some (packA 0x1c (opCode d) (opCode a) 0xFF#8 3)
  | .exitLanes => some (packA 0x1d 0xFF#8 0xFF#8 0xFF#8 0)
  | .refill => some (packA 0x1d 0xFF#8 0xFF#8 0xFF#8 1)
  | .yield => some (packA 0x1d 0xFF#8 0xFF#8 0xFF#8 2)
  | .nop => some (packA 0x1d 0xFF#8 0xFF#8 0xFF#8 3)
  | .ldB d a b => some (packA 0x20 (opCode d) (opCode a) (opCode b) 0)
  | .ldH d a b => some (packA 0x20 (opCode d) (opCode a) (opCode b) 1)
  | .ldW d a b => some (packA 0x20 (opCode d) (opCode a) (opCode b) 2)
  | .ldD d a b => some (packA 0x20 (opCode d) (opCode a) (opCode b) 3)
  | .stB d a b => some (packA 0x21 (opCode d) (opCode a) (opCode b) 0)
  | .stH d a b => some (packA 0x21 (opCode d) (opCode a) (opCode b) 1)
  | .stW d a b => some (packA 0x21 (opCode d) (opCode a) (opCode b) 2)
  | .stD d a b => some (packA 0x21 (opCode d) (opCode a) (opCode b) 3)
  | .pref a b => some (packA 0x22 0xFF#8 (opCode a) (opCode b) 0)
  | .zeroLine a b => some (packA 0x22 0xFF#8 (opCode a) (opCode b) 1)
  | .gaddr d a => some (packA 0x22 (opCode d) (opCode a) 0xFF#8 2)
  | .space d a => some (packA 0x22 (opCode d) (opCode a) 0xFF#8 3)
  | .alloc d a b => some (packA 0x23 (opCode d) (opCode a) (opCode b) 0)
  | .freeMem a => some (packA 0x23 0xFF#8 (opCode a) 0xFF#8 1)
  | .allocZ d a b => some (packA 0x23 (opCode d) (opCode a) (opCode b) 2)
  | .atomAdd d a b => some (packA 0x24 (opCode d) (opCode a) (opCode b) 0)
  | .atomAddSatN d a b => some (packA 0x24 (opCode d) (opCode a) (opCode b) 1)
  | .atomFadd d a b => some (packA 0x24 (opCode d) (opCode a) (opCode b) 2)
  | .atomXchg d a b => some (packA 0x24 (opCode d) (opCode a) (opCode b) 3)
  | .atomMinI d a b => some (packA 0x25 (opCode d) (opCode a) (opCode b) 0)
  | .atomMaxI d a b => some (packA 0x25 (opCode d) (opCode a) (opCode b) 1)
  | .atomMinN d a b => some (packA 0x25 (opCode d) (opCode a) (opCode b) 2)
  | .atomMaxN d a b => some (packA 0x25 (opCode d) (opCode a) (opCode b) 3)
  | .atomAnd d a b => some (packA 0x26 (opCode d) (opCode a) (opCode b) 0)
  | .atomOr d a b => some (packA 0x26 (opCode d) (opCode a) (opCode b) 1)
  | .atomXor d a b => some (packA 0x26 (opCode d) (opCode a) (opCode b) 2)
  | .atomCas d a b => some (packA 0x26 (opCode d) (opCode a) (opCode b) 3)
  | .fence pred succ scope => some (packF 0x27 pred succ scope.code 0 0)
  | .barInit x idx => some (packE 0x28 0 (opCode x) 0xFF#8 idx)
  | .barInitForce x idx => some (packE 0x28 1 (opCode x) 0xFF#8 idx)
  | .barArr x y idx => some (packE 0x28 2 (opCode x) (opCode y) idx)
  | .barWait idx => some (packE 0x28 3 0xFF#8 0xFF#8 idx)
  | .barInv idx => some (packE 0x28 4 0xFF#8 0xFF#8 idx)
  | .barQ x idx => some (packE 0x28 5 (opCode x) 0xFF#8 idx)
  | .sput d a => some (packA 0x29 (opCode d) (opCode a) 0xFF#8 0)
  | .sgetC d a => some (packA 0x29 (opCode d) (opCode a) 0xFF#8 1)
  | .sget d a => some (packA 0x29 (opCode d) (opCode a) 0xFF#8 2)
  | .sq d a => some (packA 0x29 (opCode d) (opCode a) 0xFF#8 3)
  | .flowRel => some (packA 0x2a 0xFF#8 0xFF#8 0xFF#8 0)
  | .flowSet a b => some (packA 0x2a 0xFF#8 (opCode a) (opCode b) 1)
  | .flowQ d a => some (packA 0x2a (opCode d) (opCode a) 0xFF#8 2)
  | .enq x y => some (packE 0x2b 0 (opCode x) (opCode y) 0)
  | .enqW x y => some (packE 0x2b 1 (opCode x) (opCode y) 0)
  | .cntSet x y => some (packE 0x2b 2 (opCode x) (opCode y) 0)
  | .cntAdd x y => some (packE 0x2b 3 (opCode x) (opCode y) 0)
  | .cntDec x y => some (packE 0x2b 4 (opCode x) (opCode y) 0)
  | .cntQ x y => some (packE 0x2b 5 (opCode x) (opCode y) 0)
  | .heapIns x y => some (packE 0x2b 6 (opCode x) (opCode y) 0)
  | .heapRm x => some (packE 0x2b 7 (opCode x) 0xFF#8 0)
  | .admitHeap x y => some (packE 0x2b 8 (opCode x) (opCode y) 0)
  | .rld d a b => some (packA 0x2c (opCode d) (opCode a) (opCode b) 0)
  | .rst d a b => some (packA 0x2c (opCode d) (opCode a) (opCode b) 1)
  | .ratom d a b => some (packA 0x2c (opCode d) (opCode a) (opCode b) 2)
  | .mcst d a b => some (packA 0x2c (opCode d) (opCode a) (opCode b) 3)
  | .tclaim x y => some (packE 0x2d 0 (opCode x) (opCode y) 0)
  | .trel x => some (packE 0x2d 1 (opCode x) 0xFF#8 0)
  | .tload x h => some (packE 0x2d 2 (opCode x) 0xFF#8 h)
  | .mma x y zc nb na acc => some (packE 0x2d 3 (opCode x) (opCode y) (BitVec.ofBool zc ++ BitVec.ofBool nb ++ BitVec.ofBool na ++ acc))
  | .mfence x => some (packE 0x2d 4 (opCode x) 0xFF#8 0)
  | .mwait x => some (packE 0x2d 5 (opCode x) 0xFF#8 0)
  | .accZero x => some (packE 0x2d 6 (opCode x) 0xFF#8 0)
  | .accLd x y => some (packE 0x2d 7 (opCode x) (opCode y) 0)
  | .accSt x y => some (packE 0x2d 8 (opCode x) (opCode y) 0)
  | .accMv x y vi => some (packE 0x2d 9 (opCode x) (opCode y) vi)
  | .tinfo x y => some (packE 0x2d 10 (opCode x) (opCode y) 0)
  | .fadd d a b => some (packA 0x30 (opCode d) (opCode a) (opCode b) 0)
  | .fsub d a b => some (packA 0x30 (opCode d) (opCode a) (opCode b) 1)
  | .fmul d a b => some (packA 0x30 (opCode d) (opCode a) (opCode b) 2)
  | .ffma d a b => some (packA 0x30 (opCode d) (opCode a) (opCode b) 3)
  | .fmin d a b => some (packA 0x31 (opCode d) (opCode a) (opCode b) 0)
  | .fmax d a b => some (packA 0x31 (opCode d) (opCode a) (opCode b) 1)
  | .fdiv d a b => some (packA 0x31 (opCode d) (opCode a) (opCode b) 2)
  | .fcpsgn d a b => some (packA 0x31 (opCode d) (opCode a) (opCode b) 3)
  | .frcp d a => some (packA 0x32 (opCode d) (opCode a) 0xFF#8 0)
  | .frsq d a => some (packA 0x32 (opCode d) (opCode a) 0xFF#8 1)
  | .fsqrt d a => some (packA 0x32 (opCode d) (opCode a) 0xFF#8 2)
  | .fexp2 d a => some (packA 0x32 (opCode d) (opCode a) 0xFF#8 3)
  | .flog2 d a => some (packA 0x33 (opCode d) (opCode a) 0xFF#8 0)
  | .fsin d a => some (packA 0x33 (opCode d) (opCode a) 0xFF#8 1)
  | .fcos d a => some (packA 0x33 (opCode d) (opCode a) 0xFF#8 2)
  | .ftanh d a => some (packA 0x33 (opCode d) (opCode a) 0xFF#8 3)
  | .fcmpEq d a b => some (packA 0x34 (opCode d) (opCode a) (opCode b) 0)
  | .fcmpLt d a b => some (packA 0x34 (opCode d) (opCode a) (opCode b) 1)
  | .fcmpLe d a b => some (packA 0x34 (opCode d) (opCode a) (opCode b) 2)
  | .fcmpUn d a b => some (packA 0x34 (opCode d) (opCode a) (opCode b) 3)
  | .cvtRn d a code => some (packA 0x35 (opCode d) (opCode a) code 0)
  | .cvtRz d a code => some (packA 0x35 (opCode d) (opCode a) code 1)
  | .cvtRd d a code => some (packA 0x35 (opCode d) (opCode a) code 2)
  | .cvtRu d a code => some (packA 0x35 (opCode d) (opCode a) code 3)
  | .qblk d a b => some (packA 0x36 (opCode d) (opCode a) (opCode b) 0)
  | .dqblk d a => some (packA 0x36 (opCode d) (opCode a) 0xFF#8 1)
  | .qmx d a code => some (packA 0x36 (opCode d) (opCode a) code 2)
  | .shfl d a b => some (packA 0x37 (opCode d) (opCode a) (opCode b) 0)
  | .shflX d a b => some (packA 0x37 (opCode d) (opCode a) (opCode b) 1)
  | .shflUp d a b => some (packA 0x37 (opCode d) (opCode a) (opCode b) 2)
  | .shflDn d a b => some (packA 0x37 (opCode d) (opCode a) (opCode b) 3)
  | .voteAny d a => some (packA 0x38 (opCode d) (opCode a) 0xFF#8 0)
  | .voteAll d a => some (packA 0x38 (opCode d) (opCode a) 0xFF#8 1)
  | .ballot d a => some (packA 0x38 (opCode d) (opCode a) 0xFF#8 2)
  | .voteEq d a => some (packA 0x38 (opCode d) (opCode a) 0xFF#8 3)
  | .redwAdd d a => some (packA 0x39 (opCode d) (opCode a) 0xFF#8 0)
  | .redwFadd d a => some (packA 0x39 (opCode d) (opCode a) 0xFF#8 1)
  | .redwFmax d a => some (packA 0x39 (opCode d) (opCode a) 0xFF#8 2)
  | .redwFmin d a => some (packA 0x39 (opCode d) (opCode a) 0xFF#8 3)
  | .topkIns d a b => some (packA 0x3a (opCode d) (opCode a) (opCode b) 0)
  | .topkClr d code => some (packA 0x3a (opCode d) 0xFF#8 code 1)
  | .symQ d a => some (packA 0x3b (opCode d) (opCode a) 0xFF#8 0)
  | .symWait a => some (packA 0x3b 0xFF#8 (opCode a) 0xFF#8 1)
  | .symWall => some (packA 0x3b 0xFF#8 0xFF#8 0xFF#8 2)
  | .cp x h => some (packE 0x3c 0 (opCode x) 0xFF#8 h)
  | .cpSg x h => some (packE 0x3c 1 (opCode x) 0xFF#8 h)
  | .cpStep x => some (packE 0x3c 2 (opCode x) 0xFF#8 0)
  | .hWait h => some (packE 0x3c 3 0xFF#8 0xFF#8 h)
  | .hSet x y h => some (packE 0x3c 4 (opCode x) (opCode y) h)
  | .hSetFree h => some (packE 0x3c 4 0xFF#8 0xFF#8 h)
  | .hQ x h => some (packE 0x3c 5 (opCode x) 0xFF#8 h)
  | .pullReq x h => some (packE 0x3c 6 (opCode x) 0xFF#8 h)
  | .grantCfg x y h => some (packE 0x3c 7 (opCode x) (opCode y) h)
  | .xferQ x h => some (packE 0x3c 8 (opCode x) 0xFF#8 h)
  | .smp x y h => some (packE 0x3c 9 (opCode x) (opCode y) h)
  | .smpQ x h => some (packE 0x3c 10 (opCode x) 0xFF#8 h)
  | .trapInstr n => some (packS 0x3D 0 0xFF#8 n)
  | .sret => some (packS 0x3D 1 0xFF#8 0)
  | .ctlR d n => some (packS 0x3D 2 (opCode d) n)
  | .ctlW d n => some (packS 0x3D 3 (opCode d) n)
  | .devid d => some (packS 0x3D 3 (opCode d) 0x204#12)
  | .fqhead d p => some (packS 0x3D 3 (opCode d) (0b00011#5 ++ p ++ 0x4#4))
  | .fqbase d p => some (packS 0x3D 3 (opCode d) (0b00011#5 ++ p ++ 0x3#4))
  | .tlbInv d k p => some (packS 0x3D 4 (opCode d) (0#7 ++ p ++ k))
  | .faultPop d p => some (packS 0x3D 5 (opCode d) (0#9 ++ p))
  | .faultPopW d p => some (packS 0x3D 5 (opCode d) (1#9 ++ p))
  | .faultDone d ans => some (packS 0x3D 6 (opCode d) (0#11 ++ BitVec.ofBool ans))
  | .teamPark d => some (packS 0x3D 7 (opCode d) 0)
  | .teamWake d => some (packS 0x3D 8 (opCode d) 0)
  | .ctxSave d k => some (packS 0x3D 9 (opCode d) (0#11 ++ BitVec.ofBool k))
  | .ctxLoad d k => some (packS 0x3D 10 (opCode d) (0#11 ++ BitVec.ofBool k))
  | .halt => some (packS 0x3D 11 0xFF#8 0)
  | .dictionaryWord hi lo => some (packK 0x3F hi 0x3F lo)
  | .powerOn => none
  | .romVerify => none
  | .firmwareDownload _ => none
  | .downloadRetry => none
  | .resetPin => none
  | .powerRemoved => none
  | .thermalWarning _ => none
  | .thermalTrip _ => none
  | .attestationQuote _ => none
  | .managementRead _ => none
  | .energyWindow _ => none
  | .teamFormation _ => none
  | .orderedRelease _ _ => none
  | .cutIn _ => none
  | .cutInAnswer _ => none
  | .teamStarvation _ _ => none
  | .splinterStarvation _ _ => none
  | .heldLanesRetry _ _ => none
  | .joinFallback _ _ => none
  | .symbolResolution _ _ => none
  | .faultRecordRetry _ => none
  | .trapEntry _ _ => none
  | .uncorrectableError _ => none
  | .softError _ _ => none
  | .copyCompletion _ _ => none
  | .tensorOperationCompletion _ _ => none
  | .pullAnnouncement _ => none
  | .callerGrant _ => none
  | .pullToken _ => none
  | .pullBeat _ => none
  | .pullNotice _ _ _ => none
  | .tokenExpiry _ _ _ => none
  | .orphan _ _ => none
  | .abandon _ _ => none
  | .callerSave _ => none
  | .samplerJobStart _ => none
  | .samplerJobCompletion _ => none
  | .peerRequest _ => none
  | .readResponse _ _ => none
  | .ack _ _ => none
  | .nack _ => none
  | .peerTimeout _ => none
  | .multicastWrite _ => none
  | .multicastAck _ _ _ => none
  | .multicastTimeout _ => none
  | .linkControl _ _ => none
  | .linkDown _ => none
  | .linkTraining _ => none
  | .transitFlit _ _ => none

/-! Hint words (R178-R182). -/

/-- One hint word (major 0x3E): extension, guard, modifier or scheduling hint. -/
inductive HintWord where
  | ext (payload : BitVec 24)
  | guard (inv : Bool) (p : Fin 16)
  | mods (m : ModHint)
  | sched
  deriving DecidableEq, Repr

/-- The modifier hint of a payload (R181), refused where a bit or a code is reserved. -/
def modHintOf (x : BitVec 24) : Option ModHint :=
  match opOf (x.extractLsb' 16 8), scopeOf (x.extractLsb' 12 3) with
  | some s3, some sc =>
    let scv := x.getLsbD 15
    let sat := x.getLsbD 2
    let nsat := x.getLsbD 1
    if x.getLsbD 7 ∨ (sat ∧ nsat) ∨ (!scv ∧ sc ≠ .team) then none
    else some
      { s3 := s3, scope := if scv then some sc else none
        acq := x.getLsbD 10, rel := x.getLsbD 11, o := x.getLsbD 9, rem := x.getLsbD 8
        sx := x.getLsbD 6, w64 := x.getLsbD 5, rm := RMode.ofCode (x.extractLsb' 3 2)
        sat := sat, nsat := nsat, sym := x.getLsbD 0 }
  | _, _ => none

/-- The code of a scope (R171). -/
def scopeCode : Scope → BitVec 3
  | .team => 0 | .core => 1 | .sector => 2 | .dev => 3 | .sys => 4

/-- The code of a rounding mode (R181). -/
def rmCode : RMode → BitVec 2
  | .rn => 0 | .rz => 1 | .rd => 2 | .ru => 3

/-- The payload of a modifier hint (R181). -/
def modPayload (m : ModHint) : BitVec 24 :=
  let b (v : Bool) : BitVec 1 := BitVec.ofBool v
  opCode m.s3 ++ b m.scope.isSome ++ (match m.scope with
    | some c => scopeCode c
    | none => 0#3) ++ b m.rel ++ b m.acq ++ b m.o ++ b m.rem ++ 0#1 ++ b m.sx ++ b m.w64 ++ rmCode m.rm ++ b m.sat ++ b m.nsat ++ b m.sym

/-- A scheduling hint's payload is one of the forms of R182. -/
def schedOk (x : BitVec 24) : Bool :=
  let form := (x.extractLsb' 20 4).toNat
  (form == 0 && x.extractLsb' 0 20 == 0#20) || (form == 1 && x.extractLsb' 8 12 == 0#12)
    || (form == 2 && x.extractLsb' 18 2 == 0#2)

/-- Whether a word is a hint word (major 0x3E). -/
def isHint (w : BitVec 32) : Bool := w.extractLsb' 26 6 == 0x3E#6

/-- A hint word read (R179-R182), or none where it is illegal. -/
def hintOf (w : BitVec 32) : Option HintWord :=
  let x := w.extractLsb' 0 24
  match (w.extractLsb' 24 2).toNat with
  | 0 => some (.ext x)
  | 1 => if x.extractLsb' 5 19 = 0#19 then some (.guard (x.getLsbD 4) (Fin.ofNat 16 (x.extractLsb' 0 4).toNat)) else none
  | 2 => (modHintOf x).map .mods
  | _ => if schedOk x then some .sched else none

/-- A hint added to its group: at most two extensions, one modifier hint, one guard, one scheduling hint (R178). DESIGN CHOICE: the device may act
on a scheduling hint or not (R182); the model ignores what it asks for (log entry 62). -/
def Hints.add (h : Hints) : HintWord → Option Hints
  | .ext p => if h.exts.length < 2 then some { h with exts := h.exts ++ [p] } else none
  | .guard inv p => match h.guard with
    | none => some { h with guard := some (inv, p) }
    | some _ => none
  | .mods m => match h.mods with
    | none => some { h with mods := some m }
    | some _ => none
  | .sched => if h.sched then none else some { h with sched := true }

/-- What a group of words reads as. -/
inductive GroupRead where
  /-- The hints, the last word's instruction and the number of words. -/
  | group (h : Hints) (i : Instr) (len : Nat)
  /-- An illegal word or group, at its word number `at` (R185). -/
  | illegal (at_ : Nat)
  /-- The words end inside the group. -/
  | short
  deriving DecidableEq, Repr

/-- Read the hints and the instruction of a group from its words (R178, R183: a hint before a dictionary word is illegal). -/
def readGroup (h : Hints) (len : Nat) : List (BitVec 32) → GroupRead
  | [] => .short
  | w :: ws =>
    if isHint w then
      match hintOf w with
      | none => .illegal len
      | some x => match h.add x with
        | none => .illegal len
        | some h' => readGroup h' (len + 1) ws
    else match decodeWord w with
      | none => .illegal len
      | some (.dictionaryWord hi lo) => if len = 0 then .group h (.dictionaryWord hi lo) 1 else .illegal len
      | some i => .group h i (len + 1)

/-- Words from bytes, little-endian (R3). -/
def wordsOfBytes : List Byte → List (BitVec 32)
  | b0 :: b1 :: b2 :: b3 :: rest => (b3 ++ b2 ++ b1 ++ b0 : BitVec 32) :: wordsOfBytes rest
  | _ => []

/-- The bytes of a word, little-endian (R3). -/
def bytesOfWord (w : BitVec 32) : List Byte :=
  [w.extractLsb' 0 8, w.extractLsb' 8 8, w.extractLsb' 16 8, w.extractLsb' 24 8]

/-- Decoding, total on any bytes. -/
def decodeBytes (bs : List Byte) : GroupRead := readGroup {} 0 (wordsOfBytes bs)

/-- The instruction that the decoder reads from one instruction of the opcode table's bits. -/
def decodeTableWord (nbits w : Nat) : Option Instr :=
  if nbits = 32 then
    match decodeBytes (bytesOfWord (BitVec.ofNat 32 w)) with
    | .group _ i _ => some i
    | _ => none
  else none

end Sys2Proof
end

