-- ==== Sys2Proof/Machine/State.lean ====
section
/-!
DEFINITION. The state of one FV9 as plain data: device, partitions, sectors, cores, teams and engines,
with the model's own agenda of turns, and the state right after reset.
-/

namespace Sys2Proof.Machine

/-- Why a step stops with a fault. -/
inductive Fault where
  /-- Raised by a meaning that is run while no team stands at issue; safe: no rule of the spec runs an
  instruction without a team, and no step does (log entry 11). -/
  | noIssue
  deriving DecidableEq, Repr

/-- Why a step is refused. -/
inductive Refusal where
  /-- An instruction without a meaning in this model; no arm of exec answers with it; safe. -/
  | notModelled (mnemonic : String)
  deriving DecidableEq, Repr

/-- The origin of a poisoned value (R378), with the owner tag of memory poison (R379). -/
inductive Origin where
  | addr
  | mem (tag : Nat)
  deriving DecidableEq, Repr

/-- STATE of a register's tag (R56). -/
inductive RegState where
  | perLane | uniform | symbolic
  deriving DecidableEq, Repr

/-- A vector register with its tag (R56). A symbolic register keeps its offsets in `lanes` (R64); `alone` are the lanes that `refill`
packed since its symbol was made, on which the form is its offset alone (R58). -/
structure VReg where
  st : RegState := .uniform
  uni : W32 := 0
  lanes : SMap W32 := []
  scale : W32 := 0
  sym : Nat := 0
  half : Bool := false
  flt : Bool := false
  alone : Mask := 0
  pois : SMap Origin := []
  deriving DecidableEq, Repr

/-- A uniform register with its tag (R56); `sym = none` is known. -/
structure UReg where
  val : W64 := 0
  sym : Option Nat := none
  scale : W64 := 0
  half : Bool := false
  flt : Bool := false
  pois : Option Origin := none
  deriving DecidableEq, Repr

/-- What an access does (R219, R220, R224, R228, R241, R243, R288, R327-R330), or the marker it is (R69). A record is
a read of `n` bytes that its splinter waits for; a probe is a range of `n` bytes that must translate for stores. -/
inductive AccessOp where
  | load (n : Nat) (sx : Bool)
  | store (n : Nat)
  | zeroLine
  | atom (op : AtomOp) (n : Nat)
  | record (n : Nat)
  | probe (n : Nat)
  | rload (sx : Bool)
  | rstore
  | ratom (sat : Bool) (n : Nat)
  | mcst
  | fence (pred succ : BitVec 4)
  deriving DecidableEq, Repr

/-- An operand of an access as a form over a symbol, scale × X + offset (R64), or known. A uniform operand keeps its
offset and its poison at key 0 and takes X at the symbol's lowest lane; `alone` as of a register. -/
structure Form where
  sym : Option Nat := none
  scale : W64 := 0
  uni : Bool := false
  off : SMap W64 := []
  flt : Bool := false
  half : Bool := false
  alone : Mask := 0
  pois : SMap Origin := []
  deriving DecidableEq, Repr

/-- A deferred, parked or remote access, with the fields of R392. `hold` gives the position that each lane of a held `.o` store belongs to
(R221), `stalled` that it has found no room in the ordered-store buffer (R42); `spread` the active lanes of an access that is performed once (R215); `after` the lanes that had recorded their release (R38, R106);
`dataHi` and `s3Hi` hold the upper register of a pair whose two registers are forms of their own (R220, R229); `part` is the partition
of the access at issue (R358); `seat` numbers the accesses that one instruction makes for itself; `direct` tells that the values go to the splinter that waits for them, for a shared destination or a record (R62, R241). -/
structure Access where
  pc : W64 := 0
  word : BitVec 32 := 0
  mods : BitVec 24 := 0xFF0000
  ext : W64 := 0
  op : AccessOp := .load 4 false
  lanes : Mask := 0
  spread : Mask := 0
  done : Mask := 0
  base : Form := {}
  peers : Option Form := none
  idx : Form := {}
  data : Form := {}
  dataHi : Option Form := none
  s3 : Form := {}
  s3Hi : Option Form := none
  rsym : Option Nat := none
  part : Nat := 0
  p15 : Bool := false
  direct : Bool := false
  seat : Nat := 0
  acq : Bool := false
  rel : Bool := false
  scope : Scope := .dev
  hold : SMap Nat := []
  stalled : Bool := false
  after : Mask := 0
  sys : Bool := false
  order : Nat := 0
  deriving DecidableEq, Repr

/-- Where a symbol's value comes from (R391). -/
inductive SymSource where
  | access
  | handle (h : Nat)
  deriving DecidableEq, Repr

/-- An entry of a core's symbol table (R63, R391). A symbol made for a uniform destination has one element, which stands at its
lowest lane and is read on every lane (R64). -/
structure Symbol where
  slot : Nat := 0
  sys : Bool := false
  lanes : Mask := 0
  arrived : Mask := 0
  vals : SMap W64 := []
  pois : SMap Origin := []
  w64 : Bool := false
  uni : Bool := false
  src : SymSource := .access
  deriving DecidableEq, Repr

/-- A parked access in the fault buffer (R87), with the lanes that wait for an answer. -/
structure Parked where
  slot : Nat := 0
  acc : Access := {}
  deriving DecidableEq, Repr

/-- Trap causes (R353). -/
inductive Cause where
  | soft | illegal | priv | opclass | align | range | poison | handle | item | barrier | tensor | xfer
  | sample | arith | fetch | xlate
  deriving DecidableEq, Repr

/-- Causes of a failed translation (R89). -/
inductive FaultCause where
  | notMapped | noWrite | noExec | privileged | malformed | unmappable | align | tablePoison
  deriving DecidableEq, Repr

/-- Kinds of an access in a fault record (R89). -/
inductive AccessKind where
  | load | store | atomic | fetch | engineRead | engineWrite
  deriving DecidableEq, Repr

/-- A trap condition: one being taken, with the length of its group, or one pending (R354, R365, R388). -/
structure Condition where
  cause : Cause := .soft
  code : Nat := 0
  deferred : Bool := false
  eaddr : W64 := 0
  eiaddr : W64 := 0
  lanes : Mask := 0
  glen : Nat := 0
  order : Nat := 0
  deriving DecidableEq, Repr

/-- A fault record before it is written (R88); `told` tells that report 0x0010 has been raised for it. -/
structure FaultRecord where
  addr : W64 := 0
  pc : W64 := 0
  lmask : W32 := 0
  core : Nat := 0
  fbi : Nat := 0
  word : Nat := 0
  tslot : Nat := 0
  part : Nat := 0
  kind : AccessKind := .load
  cause : FaultCause := .notMapped
  size : Nat := 0
  info : Bool := false
  fgen : Nat := 0
  lk : Bool := false
  told : Bool := false
  deriving DecidableEq, Repr

/-- Why a splinter stands waiting at issue (R384). -/
inductive Wait where
  /-- A wait that is over when the instruction can go on. -/
  | issue
  /-- `bar.wait` on a core barrier (R234). -/
  | bar (idx : Nat)
  /-- The barrier completed or broke; `last` is LAST (R233, R234). -/
  | barDone (last : Bool)
  /-- `flow.set` waiting for the token (R43). -/
  | token
  /-- The token came (R43). -/
  | tokenDone
  /-- A parked read or probe of the instruction itself (R241, R243, R288). -/
  | records
  /-- A wait that stalls the whole team: for room in a flow's window, for a resident flow to leave, or for room in the ordered-store buffer (R35,
  R41, R42). -/
  | team
  deriving DecidableEq, Repr

/-- The status of a splinter (R47, R48, R389). -/
inductive SplinterState where
  | able
  | held (token : Bool)
  | joinWait (j : Nat) (label : W64)
  | waiting (r : Wait)
  | fetchHeld (addr : W64)
  deriving DecidableEq, Repr

/-- A splinter (R44, R47, R389); `armed` is the dictionary entry about to issue, and whether another follows it (R184), `did` the lanes on which the
instruction at `pc` has already been performed (R384), `reads` and `readBad` the records it has read so far (R241, R288), `wrote` the lanes whose values come from an
atomic (R384), `due` that it takes precedence (R47). -/
structure Splinter where
  pc : W64 := 0
  half : Bool := false
  mask : Mask := 0
  did : Mask := 0
  st : SplinterState := .able
  idle : Nat := 0
  armed : Option (BitVec 32 × Bool) := none
  reads : SMap (List Byte) := []
  readBad : SMap Origin := []
  wrote : Mask := 0
  due : Bool := false
  deriving DecidableEq, Repr

/-- An item packed in a team (R390): its flow is one of partition `part` (8: of a system item, R360), `pos` its position in it (0: none); the
accesses of its lanes whose order numbers lie below `since` are those of items that held the lanes before a `refill` (R46). -/
structure Item where
  part : Nat := 0
  pos : Nat := 0
  flow : Nat := 0
  seq : Nat := 0
  entry : Nat := 0
  lane0 : Nat := 0
  width : Nat := 0
  cls : Nat := 0
  tok : Bool := false
  wtok : Bool := false
  relSys : Bool := false
  ended : Bool := false
  since : Nat := 0
  deriving DecidableEq, Repr

/-- An item record (R26), without its reserved fields. -/
structure ItemRecord where
  args : List W32 := []
  cnt : Nat := 0
  loc : Nat := 0
  pv : Bool := false
  part : Nat := 0
  entry : Nat := 0
  width : Nat := 0
  cls : Nat := 0
  cv : Bool := false
  lv : Bool := false
  flow : Nat := 0
  deriving DecidableEq, Repr

/-- An enqueued item: its record, its partition (8: a system item, R360), its position (0: none) and its sequence number. -/
structure QItem where
  record : ItemRecord := {}
  part : Nat := 0
  pos : Nat := 0
  seq : Nat := 0
  deriving DecidableEq, Repr

/-- An entry record (R134). -/
structure EntryRecord where
  code : W64 := 0
  dict : W64 := 0
  plan : W64 := 0
  barl : W64 := 0
  energy : Nat := 0
  v : Bool := false
  wm : Nat := 0
  rg : Nat := 0
  wg : Nat := 0
  privUnits : Nat := 0
  tmax : Nat := 0
  slots : Nat := 0
  sv : Bool := false
  sg : Nat := 0
  sb : Nat := 0
  sn : Nat := 0
  reservedZero : Bool := true
  deriving DecidableEq, Repr

/-- A claim of operand slots held by a tile register (R265-R269). -/
structure Claim where
  record : W64 := 0
  first : Nat := 0
  pair : Bool := false
  reserved : Bool := false
  bytes : SMap Byte := []
  pois : Option Origin := none
  deriving DecidableEq, Repr

/-- A physical accumulator (R270): words by index, poison mark. -/
structure Accumulator where
  words : SMap W32 := []
  pois : Option Origin := none
  deriving DecidableEq, Repr

/-- The context of a team in system mode (R356, R364, R365). -/
structure SysCtx where
  formed : Bool := false
  pc : W64 := 0
  half : Bool := false
  armed : Option (BitVec 32 × Bool) := none
  wait : Option Wait := none
  reads : SMap (List Byte) := []
  readBad : SMap Origin := []
  regs : SMap UReg := []
  preds : BitVec 16 := 0
  p15pend : Nat := 0
  epc : W64 := 0
  estat : W64 := 0
  eaddr : W64 := 0
  eiaddr : W64 := 0
  actp : Nat := 0
  spl : Nat := 0
  deriving DecidableEq, Repr

/-- A resident team. `saver` names the team whose `ctx.save` has stopped it (R385). `able` is the time since when it has been able to issue, as the cycles found it, and
`due` tells that it is to be taken first (R140); `dead` that its partition was terminated while it was in
system mode (R382). -/
structure Team where
  part : Nat := 0
  entryIdx : Nat := 0
  entry : EntryRecord := {}
  age : Nat := 0
  quarter : Nat := 0
  parked : Bool := false
  saver : Option Nat := none
  dead : Bool := false
  vregs : SMap VReg := []
  uregs : SMap UReg := []
  preds : SMap Mask := []
  p15pend : Nat := 0
  joins : SMap Mask := []
  tiles : SMap Claim := []
  accs : SMap Nat := []
  splinters : List Splinter := []
  items : List Item := []
  released : Mask := 0
  queue : List Access := []
  pend : List Condition := []
  trap : Option Condition := none
  trapSpl : Nat := 0
  barGen : SMap Bool := []
  batch : BitVec 32 := 0
  batchPois : SMap Origin := []
  batchFlags : SMap (BitVec 8) := []
  stage : BitVec 32 := 0
  privBase : W64 := 0
  reserve : List (Nat × Bool) := []
  sys : Option SysCtx := none
  lastIssue : W64 := 0
  able : Option W64 := none
  due : Bool := false
  orderCtr : Nat := 0
  deriving DecidableEq, Repr

/-- The private block of a team formed for a system item: its addresses go through the tables whose root is SYSROOT (R75). -/
structure Block where
  first : Nat := 0
  len : Nat := 0
  deriving DecidableEq, Repr

/-- Who accesses memory: the core, the partition of the tables, whether in system mode, the block of a team formed for a system item,
and the private window of a lane: where lane 0's memory lies and P (R75, R358). -/
structure Who where
  core : Nat
  part : Nat
  sys : Bool := false
  block : Block := {}
  privAt : Nat := 0
  priv : Nat := 0
  deriving DecidableEq, Repr

/-- Handle states (R91). -/
inductive HandleState where
  | free | filling | full | draining
  deriving DecidableEq, Repr

/-- A stalled engine access (R87), the pages answered POISON or found unmappable (R374), by their 128 KiB frames. -/
structure Stall where
  waiting : Bool := false
  addr : Nat := 0
  badPages : List Nat := []
  deriving DecidableEq, Repr

/-- The sender's side of a `pull.req` (R297, R298, R306): where it goes, the time of the last sign of life, the ranges that are
still to be sent (the first is the prefix, with the announcement), and the stall of its reads; `base` is what the handle's BASE converts to. -/
structure Sending where
  base : W64 := 0
  slot : Nat := 0
  pc : W64 := 0
  path : Nat := 0
  ddev : Nat := 0
  dcore : Nat := 0
  dh : Nat := 0
  pri : Nat := 0
  off : Nat := 0
  since : W64 := 0
  announced : Bool := false
  prefixed : Nat := 0
  todo : List (Nat × Nat) := []
  stall : Stall := {}
  sysMode : Bool := false
  block : Block := {}
  deriving DecidableEq, Repr

/-- A handle (R91), with the state of its post and of its last pull (R300, R307), and the port by which a message came over Ultra Ethernet; `job` tells that a sampler job took it last (R338);
`block` is that of the team that posted it (R75). -/
structure Handle where
  base : W64 := 0
  len : W32 := 0
  part : Nat := 0
  alloc : Bool := false
  scope : Scope := .team
  err : Nat := 0
  lv : Bool := false
  lock : Nat := 0
  st : HandleState := .free
  posted : Bool := false
  job : Bool := false
  count : Nat := 0
  got : Nat := 0
  ueSeen : Bool := false
  uePort : Nat := 0
  sst : Nat := 0
  block : Block := {}
  sending : Sending := {}
  deriving DecidableEq, Repr

/-- A range-lock entry (R94). -/
structure Lock where
  base : W64 := 0
  len : Nat := 0
  handle : Nat := 0
  hv : Bool := false
  dst : Bool := false
  part : Nat := 0
  deriving DecidableEq, Repr

/-- A copy command in its sector's queue (R286-R292): the private block of its lane; of a chain, the element that comes next, how
many have come, and the error met. `free` tells that a team formed for a system item issued it, which no quota counts (R360). -/
structure CopyCmd where
  core : Nat := 0
  slot : Nat := 0
  part : Nat := 0
  pc : W64 := 0
  handle : Nat := 0
  sg : Bool := false
  src : W64 := 0
  dst : W64 := 0
  len : Nat := 0
  slen : Nat := 0
  first : W64 := 0
  pred : W64 := 0
  srcLock : Option Nat := none
  sh : Option Nat := none
  bar : Option (Nat × Nat × Nat × Nat × Bool) := none
  sysMode : Bool := false
  free : Bool := false
  privAt : Nat := 0
  priv : Nat := 0
  block : Block := {}
  next : W64 := 0
  count : Nat := 0
  err : Nat := 0
  stall : Stall := {}
  deriving DecidableEq, Repr

/-- A request for an accumulator (R270): the team, the name, and the instruction that waits. -/
structure AccRequest where
  slot : Nat := 0
  name : Nat := 0
  pc : W64 := 0
  deriving DecidableEq, Repr

/-- What a tensor operation does (R271-R279). -/
inductive TensorKind where
  | tload (tile h : Nat)
  | mma (acc ta tb : Nat) (zc nb na : Bool)
  | zero (acc : Nat)
  | ld (acc : Nat) (addr : W64) (lock : Nat)
  | st (acc : Nat) (addr : W64) (lock : Nat)
  deriving DecidableEq, Repr

/-- A tensor operation in its core's queue (R271), of the batch that the next `mfence` of its team closes (R272). -/
structure TensorOp where
  slot : Nat := 0
  part : Nat := 0
  pc : W64 := 0
  word : BitVec 32 := 0
  batch : BitVec 32 := 0
  kind : TensorKind := .zero 0
  stall : Stall := {}
  deriving DecidableEq, Repr

/-- What a job that has run leaves: STATUS, TOKEN, the state, the stack depth, a stack entry to write, and the scope of the release (R337, R349,
R350). -/
structure JobResult where
  status : Nat
  token : Nat
  state : Nat := 0
  sp : Nat := 0
  push : Option (Nat × Nat) := none
  scope : Scope := .core
  err : Nat := 0
  /-- Bytes 0-63 of the record as it was read; none where no byte of it is written. -/
  raw : Option Nat := none
  /-- Whether STATE and SP are written besides TOKEN and STATUS. -/
  whole : Bool := false
  deriving DecidableEq, Repr

/-- A sampler job (R333, R336), with the private block of its lane; `free` tells that a team formed for a system item issued it, which is charged
to no partition (R360), `done` what it has come to where its record's page keeps it from being written (R337); `away` is the number of the save by which the team of a registered job is out
(R384). -/
structure SamplerJob where
  core : Nat := 0
  slot : Nat := 0
  lane : Nat := 0
  part : Nat := 0
  pc : W64 := 0
  h : Nat := 0
  lh : Nat := 0
  record : W64 := 0
  sym : Option Nat := none
  sysMode : Bool := false
  free : Bool := false
  privAt : Nat := 0
  priv : Nat := 0
  block : Block := {}
  done : Option JobResult := none
  away : Option Nat := none
  running : Bool := false
  stall : Stall := {}
  deriving DecidableEq, Repr

/-- An entry of the ordered-store buffer (R40, R393): its position, the partition whose tables translated it, and the instruction and lane of
the last store that it holds. -/
structure OsEntry where
  part : Nat := 0
  pos : Nat := 0
  view : Nat := 0
  pc : W64 := 0
  lane : Nat := 0
  flow : Nat := 0
  seq : Nat := 0
  line : Nat := 0
  mask : BitVec 64 := 0
  data : SMap Byte := []
  deriving DecidableEq, Repr

/-- What a shared register held before a cycle in which a team wrote it (R61). -/
structure Prior where
  clock : W64 := 0
  slot : Nat := 0
  reg : VReg := {}
  full : Bool := false
  deriving DecidableEq, Repr

/-- A live share group (R59, R60). `prior` keeps, of each register that a team has written, the clock of the write, the team's slot, and
what the register and its full/empty bit held before the first write of that cycle (R61). -/
structure ShareGroup where
  part : Nat := 0
  first : Nat := 0
  count : Nat := 0
  wm : Nat := 0
  regs : SMap VReg := []
  full : SMap Bool := []
  prior : SMap Prior := []
  members : Nat := 0
  deriving DecidableEq, Repr

/-- A hardware barrier (R146, R233). -/
structure Barrier where
  exp : W32 := 0
  arr : W32 := 0
  gen : Bool := false
  last : Bool := false
  owned : Bool := false
  entry : Nat := 0
  part : Nat := 0
  deriving DecidableEq, Repr

/-- A Cut-in under way (R145). -/
structure CutIn where
  victim : Nat := 0
  items : List QItem := []
  deriving DecidableEq, Repr

/-- One core (R15). -/
structure Core where
  /-- Teams by slot, 0-31. A key of 32 k + slot, k > 0, keeps the accesses of an ended team that still wait (R211). -/
  teams : SMap Team := []
  syms : SMap Symbol := []
  fbuf : SMap Parked := []
  fgen : SMap Nat := []
  heldRecs : List FaultRecord := []
  handles : SMap Handle := []
  locks : SMap Lock := []
  osb : List OsEntry := []
  groups : SMap ShareGroup := []
  bars : SMap Barrier := []
  accs : SMap Accumulator := []
  /-- The teams that wait for an accumulator, in order of request (R270). -/
  accReqs : List AccRequest := []
  tq : List TensorOp := []
  items : List QItem := []
  /-- The LFSR's value xor its seed, so that the reset value is zero on every core (R145). -/
  lfsrX : BitVec 16 := 0
  cutIn : Option CutIn := none
  /-- When the answer to the last Cut-in came (R145). -/
  cutAt : Option W64 := none
  last : SMap Nat := []
  flags : SMap (BitVec 8) := []
  arithen : SMap (BitVec 8) := []
  quota : SMap W64 := []
  /-- The lines of the read cache, each with its partition and its number: of a physical line, or of an address in a peer window (R79). -/
  cache : List (Nat × Nat × List Byte) := []
  deriving DecidableEq, Repr

/-- One sector's shared resources (R17). -/
structure Sector where
  bars : SMap Barrier := []
  copies : List CopyCmd := []
  jobs : List SamplerJob := []
  /-- Jobs whose handles and ranges are registered and that wait for room in the queue (R336, step 5). -/
  offered : List SamplerJob := []
  hot : Bool := false
  deriving DecidableEq, Repr

/-- A token slot of a pull request (R302): OUT and HOLE keep what has arrived as offset and length pairs, OUT the time from
which it expires (R303). -/
inductive TokenSlot where
  | free
  | out (token : Nat) (seen : List (Nat × Nat)) (since : W64)
  | hole (token : Nat) (seen : List (Nat × Nat))
  deriving DecidableEq, Repr

/-- A beat or prefix that stalls at an unmapped page (R304): its offset within the message. -/
structure StalledBeat where
  off : Nat := 0
  data : List Byte := []
  status : BeatStatus := .ok
  deriving DecidableEq, Repr

/-- A request in the Caller's list (R302, R309). Its orphan clock is what `orph` has counted, in cycles, and what has passed since
`since` while a slot is OUT or HOLE (R305); `inArea` tells that its entry stands in a saved area (R308). -/
structure PullEntry where
  id : Nat := 0
  off : Nat := 0
  len : Nat := 0
  gnext : Nat := 0
  slots : List TokenSlot := [.free, .free, .free, .free]
  orph : Nat := 0
  since : W64 := 0
  stalled : List StalledBeat := []
  stall : Stall := {}
  sdev : Nat := 0
  score : Nat := 0
  sh : Nat := 0
  ue : Bool := false
  path : Nat := 0
  pri : Nat := 0
  dcore : Nat := 0
  dh : Nat := 0
  pfxl : Nat := 0
  inLevel : Bool := true
  inArea : Bool := false
  deriving DecidableEq, Repr

/-- A live allocation (R82, R83): pool 0 or 1 near, 2 bulk; the core of pools 0 and 1. -/
structure Allocation where
  base : Nat := 0
  len : Nat := 0
  pool : Nat := 0
  core : Nat := 0
  deriving DecidableEq, Repr

/-- One partition's registers, table values, Caller list and pools. -/
structure Partition where
  root : W64 := 0
  peerroot : W64 := 0
  entryt : W64 := 0
  fqbase : W64 := 0
  fqhead : BitVec 13 := 0
  fqtail : BitVec 13 := 0
  caller : W64 := 0x0000004000000010
  tokbud : W64 := 0
  ept : W64 := 0
  arrt : W64 := 0
  en : Bool := false
  ebudget : Nat := 0
  heapq : Nat := 0
  cntbase : Nat := 0
  cntlen : Nat := 0
  cpmax : Nat := 0
  energyLeft : Int := 0
  energyTotal : Nat := 0
  /-- The activity counted in the current window (R406). -/
  issues : Nat := 0
  copyWork : Nat := 0
  tensorWork : Nat := 0
  samplerWork : Nat := 0
  pullWork : Nat := 0
  preempted : Bool := false
  saver : Option Nat := none
  callerSaved : Bool := false
  requests : List PullEntry := []
  savedRequests : List PullEntry := []
  nearRuns : SMap (List (Nat × Nat)) := []
  anyRuns : SMap (List (Nat × Nat)) := []
  bulkRuns : List (Nat × Nat) := []
  privRuns : SMap (List (Nat × Nat)) := []
  live : List Allocation := []
  deriving DecidableEq, Repr

/-- A dependency counter (R141). -/
structure Counter where
  count : W32 := 0
  sat : Bool := false
  und : Bool := false
  deriving DecidableEq, Repr

/-- A heap entry (R142). -/
structure HeapEntry where
  deadline : BitVec 48 := 0
  cost : BitVec 16 := 0
  part : Nat := 0
  flow : Nat := 0
  deriving DecidableEq, Repr

/-- An outstanding ordered position (R35-R38, R43), by its number: the core and team it is on, the lanes of its item, whether it is a
placeholder, whether its release point is reached, the order numbers between which an access of its item must come to precede it or fall in it
(from `first` on, those before `since` whatever they had released, and those before `limit`),
whether its release has sys scope (R237), whether its item has exited (R39); while its team is saved after that
point, the number of the save, and whether accesses that were saved with it keep the release waiting (R386); whether its release has begun, and
awaits the answers of peers to its held stores. -/
structure Position where
  id : Nat := 0
  seq : Nat := 0
  core : Option Nat := none
  slot : Nat := 0
  lanes : Mask := 0
  placed : Bool := false
  recorded : Bool := false
  first : Nat := 0
  since : Nat := 0
  limit : Nat := 0
  sysScope : Bool := false
  gone : Bool := false
  out : Option Nat := none
  barred : Bool := false
  sent : Bool := false
  deriving DecidableEq, Repr

/-- A waiter for a flow's token (R37, R43): a queued item, or an item of a resident team. -/
structure Waiter where
  seq : Nat := 0
  queued : Option QItem := none
  core : Nat := 0
  slot : Nat := 0
  deriving DecidableEq, Repr

/-- A flow record (R33) with the state of its outstanding positions and waiters; `parkedAtomic` counts its atomic items that neither
wait for the token yet nor hold it (R34). -/
structure FlowRecord where
  part : Nat := 0
  label : Nat := 0
  nexta : W32 := 0
  nextr : W32 := 0
  tok : Bool := false
  holder : W32 := 0
  spl : Bool := false
  positions : List Position := []
  waiters : List Waiter := []
  parkedAtomic : Nat := 0
  used : Nat := 0
  deriving DecidableEq, Repr

/-- A team that has been saved (R384-R386): the number of the save, the partition, the area, and what the layout of an area has no field for (log
entry 33): the team itself, its parked accesses and held stores, the marks of its accumulators, and its tensor operations. Accesses name the
symbols by their numbers in the area. -/
structure Ticket where
  num : Nat := 0
  part : Nat := 0
  image : List Byte := []
  team : Team := {}
  parked : List Access := []
  stores : List OsEntry := []
  marks : SMap Origin := []
  ops : List TensorOp := []
  deriving DecidableEq, Repr

/-- A multicast group (R320). -/
structure McastGroup where
  mlist : W64 := 0
  nm : Nat := 0
  part : Nat := 0
  v : Bool := false
  deriving DecidableEq, Repr

/-- A transaction in flight to peers (R313, R326-R332): lanes of an access at one peer; a multicast, with the columns whose
ack is awaited; or a copy that this router relays for a multicast of another device, named by its source and tag. `first` and `size`
give the part of each lane's bytes that goes to this peer (R78); `lines` the cache lines that it asks for or writes, `fill` that its
answer may still reach the read cache (R79), `got` the lines that other peers have brought its lanes, and `lost` the lanes that another
peer has refused. `release` is the position of which it performs held stores, 0 for none (R39). -/
structure Transaction where
  tag : Nat := 0
  core : Nat := 0
  slot : Nat := 0
  peer : Nat := 0
  acc : Access := {}
  lanes : List Nat := []
  columns : List Nat := []
  ack : BitVec 512 := 0
  nm : Nat := 0
  relay : Option (Nat × Nat) := none
  since : W64 := 0
  first : Nat := 0
  size : Nat := 0
  lines : List Nat := []
  fill : Bool := false
  got : SMap (List Byte) := []
  lost : List Nat := []
  release : Nat := 0
  deriving DecidableEq, Repr

/-- A Pytus link (R11, R313-R316): `port` is the port that it serves (R310), `keying` the number of the own key while its keys are being set
up; a spare that is not bound serves none. -/
structure Link where
  up : Bool := false
  keying : Option Nat := none
  peer : Nat := 0
  port : Option Nat := none
  epoch : BitVec 17 := 0
  txKey : BitVec 256 := 0
  rxKey : BitVec 256 := 0
  rxLid : BitVec 32 := 0
  tx : Nat := 0
  rx : Nat := 0
  unacked : List (Nat × Flit) := []
  fails : Nat := 0
  deriving DecidableEq, Repr

/-- Where a cached translation stands (R86, R317): a core's first level, a sector's second, the peer unit. -/
inductive TlbPlace where
  | core (c : Nat)
  | sector (s : Nat)
  | peer
  deriving DecidableEq, Repr

/-- A cached translation: space 0-7 a partition, 8 the system region; page base and size; frame and bits. -/
structure TlbEntry where
  place : TlbPlace := .peer
  space : Nat := 0
  base : Nat := 0
  size : Nat := 0
  frame : Nat := 0
  w : Bool := false
  x : Bool := false
  s : Bool := false
  deriving DecidableEq, Repr

/-- Power states (R400). -/
inductive Power where
  | off | rom | stage1 | run | halted
  deriving DecidableEq, Repr

/-- An entry of the attestation log (R403). -/
structure LogEntry where
  digest : BitVec 512 := 0
  svn : Nat := 0
  kind : Nat := 0
  clock : W64 := 0
  deriving DecidableEq, Repr

/-- An error report (R407). -/
structure Report where
  time : W64 := 0
  info : W64 := 0
  detail : W32 := 0
  core : Nat := 0
  part : Nat := 0
  pv : Bool := false
  sev : Nat := 0
  code : Nat := 0
  deriving DecidableEq, Repr

/-- An Ultra Ethernet port (R10, R12): whether it has been brought up, and the ECN marks counted there (R322). -/
structure Port where
  up : Bool := false
  ecn : Nat := 0
  deriving DecidableEq, Repr

/-- What the device sends to the fabric and to Ultra Ethernet; `ue` is the port of a message that leaves over Ultra Ethernet, to an endpoint
`dev` of the partition. A message over the fabric is followed by the flits that carry it, one over Ultra Ethernet by its packets under the
transport security sublayer (R322). -/
inductive OutMsg where
  | announce (dev : Nat) (ue : Option Nat) (a : Announcement)
  | token (dev part : Nat) (ue : Option Nat) (t : PullToken)
  | beat (dev part : Nat) (ue : Option Nat) (dcore dh score sh off : Nat) (data : List Byte) (status : BeatStatus)
  | notice (dev part : Nat) (ue : Option Nat) (core handle : Nat) (delivered : Bool)
  | request (dev : Nat) (m : PeerMsg)
  | values (dev part tag : Nat) (vals : List (Nat × BitVec 64))
  | ack (dev part tag : Nat) (olds : List (Nat × BitVec 64))
  | nack (dev part tag : Nat) (at_ : List Nat)
  | mcast (dev part : Nat) (m : McastMsg)
  | mcastAck (dev part tag column : Nat) (bits : BitVec 512)
  | flit (link : Nat) (f : Flit)
  | linkControl (link : Nat) (note : LinkNote)
  | uePacket (port counter : Nat) (entropy : BitVec 16) (cipher : List Byte) (tag : BitVec 128)
  | training (link : Nat) (encKey signature cipher : List Byte)
  deriving DecidableEq, Repr

/-- What the sensors showed when they were last sampled: the rail and the temperatures, the sectors whose sensor has warned, and the links that
were up (R408, R409). -/
structure SensorSample where
  readings : List (BitVec 32) := []
  hot : List Bool := []
  linksUp : List Bool := []
  deriving DecidableEq, Repr

/-- What the management unit answers (R403, R409). -/
inductive MgmtOut where
  | quote (signature : List Byte)
  | certificate (bytes : List Byte)
  | reports (rs : List Report)
  | partitionTable (bytes : List Byte)
  | sensors (sample : SensorSample)
  deriving DecidableEq, Repr

/-- An answer as it leaves: on a VLAN, signed, and encrypted under the unit's key with a counter (R403, R409). -/
structure MgmtAnswer where
  vlan : Nat
  what : MgmtOut
  signature : List Byte
  counter : Nat
  cipher : List Byte
  tag : BitVec 128
  deriving DecidableEq, Repr

/-- What activity counters count: instructions that a core issues, and the commands of its engines (R406). -/
inductive Activity where
  | issue | copy | tensor | sampler | pull
  deriving DecidableEq, Repr

/-- Whose turn it is (log entry 1): a quarter issues, an event happens, the oldest message of the device to itself arrives, or cycles
pass. -/
inductive Turn where
  | issue (core quarter : Nat)
  | event (i : Instr)
  | arrive
  | tick (cycles : Nat)
  deriving DecidableEq, Repr

/-- The team and the group at issue (the model's own, log entry 1). -/
structure Issue where
  valid : Bool := false
  core : Nat := 0
  slot : Nat := 0
  spl : Nat := 0
  hints : Hints := {}
  len : Nat := 1
  word : BitVec 32 := 0
  dictLo : Option Bool := none
  dictPair : Bool := false
  deriving DecidableEq, Repr

/-- The state of one FV9. -/
structure State where
  mem : List Host.Cell := []
  poisoned : List Nat := []
  clock : W64 := 0
  power : Power := .rom
  /-- The delay before the next download, in seconds, and since when it runs (R400). -/
  retry : Nat := 0
  retryAt : Option W64 := none
  /-- The energy window that was opened last (R405). -/
  window : Option Nat := none
  fwLoad : Nat := 0
  fwLen : Nat := 0
  stageBody : List Byte := []
  attLog : List LogEntry := []
  reports : List Report := []
  softErrors : Nat := 0
  sysroot : W64 := 0
  sysent : W64 := 0
  tvec : W64 := 0
  ftag : W64 := 0
  devid : BitVec 9 := 0
  cores : SMap Core := []
  sectors : SMap Sector := []
  devBars : SMap Barrier := []
  parts : SMap Partition := []
  counters : SMap Counter := []
  parkedItems : SMap (List QItem) := []
  /-- Items offered by the device itself that wait for room in their flow's window (R35). -/
  offers : List QItem := []
  heap : List HeapEntry := []
  flows : List FlowRecord := []
  /-- Accesses to flow records so far: it numbers positions, and tells which record was used last (R34). -/
  flowClock : Nat := 0
  /-- The teams that are out and whose positions are still to be released (R386). -/
  tickets : List Ticket := []
  groups : SMap McastGroup := []
  txs : List Transaction := []
  tagCtr : Nat := 0
  out : List OutMsg := []
  /-- Pull messages of the device to itself that have not arrived yet, oldest first (R297). -/
  toSelf : List OutMsg := []
  mgmt : List MgmtAnswer := []
  /-- The VLAN on which the management unit answers, its key, and the answers so far (R409). -/
  vlan : Nat := 4000
  mgmtKey : BitVec 256 := 0
  mgmtSent : Nat := 0
  /-- What the sensors showed at the start of the last millisecond (R409). -/
  sampled : SensorSample := {}
  links : SMap Link := []
  /-- The columns and rows of the fabric domain, as firmware gave them at link training (R310). -/
  cols : Nat := 0
  rows : Nat := 0
  /-- The Ultra Ethernet ports, 0-7 (R9, R12). -/
  ports : SMap Port := []
  /-- The keys of the ports' transport security sublayer, as firmware sets them, and the packets sealed so far (R322). -/
  ueKeys : List (BitVec 256) := []
  ueSent : Nat := 0
  /-- Flits of multicast writes that have arrived for this device as a member and wait for the others of their `mcst` (R332). -/
  mcasts : List McastMsg := []
  tlb : List TlbEntry := []
  /-- The owner tags of the poison that walks of the device itself have read, which is consumed at the end of the turn (R410, log entry 12). -/
  walked : List Nat := []
  /-- Loads under way (R376): the target and the team that executes `ctx.load`. -/
  loads : List (Nat × Nat) := []
  agenda : List Turn := []
  cur : Issue := {}
  fresh : Nat := 0
  deriving DecidableEq, Repr

/-- The machine right after reset (R399, R400): RESET_N has risen, the ROM runs, memory reads zero and
no team is resident. Every field is at the value the spec gives, or at the value log entry 9 names. -/
def State.reset : State := {}

end Sys2Proof.Machine
end

