-- ==== Sys2Proof/Machine/Sparse.lean ====
section
/-!
DEFINITION. Operations on sparse tables: reading, writing and removing an entry, and the canonical form.
-/

namespace Sys2Proof.SMap

variable {α : Type}

/-- The entry at a key. -/
def at? : SMap α → Nat → Option α
  | [], _ => none
  | (j, v) :: r, k => if j = k then some v else at? r k

/-- The entry at a key, or what an absent key reads as. -/
def atD (m : SMap α) (k : Nat) (d : α) : α := (m.at? k).getD d

/-- An entry written. -/
def put : SMap α → Nat → α → SMap α
  | [], k, v => [(k, v)]
  | (j, w) :: r, k, v => if k < j then (k, v) :: (j, w) :: r else if k = j then (k, v) :: r else (j, w) :: put r k v

/-- An entry removed. -/
def del (m : SMap α) (k : Nat) : SMap α := m.filter fun e => e.1 != k

/-- A value written over a table whose absent keys read `d`. -/
def store [DecidableEq α] (d : α) (m : SMap α) (k : Nat) (v : α) : SMap α :=
  if v = d then m.del k else m.put k v

/-- Every key above a bound and strictly rising, no entry equal to `d`. -/
def canonFrom [DecidableEq α] (d : α) : Nat → SMap α → Bool
  | _, [] => true
  | lo, (k, v) :: r => decide (lo ≤ k) && decide (v ≠ d) && canonFrom d (k + 1) r

/-- The canonical form of a table whose absent keys read `d`. -/
def canon [DecidableEq α] (d : α) (m : SMap α) : Bool := canonFrom d 0 m

end Sys2Proof.SMap

namespace Sys2Proof.Machine

/-- The lowest key below a bound that a table does not hold. -/
def freeKeys {α : Type} (m : SMap α) (lo hi : Nat) : List Nat :=
  (List.range' lo (hi - lo)).filter fun k => (m.at? k).isNone

/-- One of a list, by a free choice (log entry 3). -/
def choose (n : Nat) : List Nat → Option Nat
  | [] => none
  | a :: r => some ((a :: r).getD (Config.pick n % (r.length + 1)) a)

end Sys2Proof.Machine
end

