-- ==== Sys2Proof/Machine/Bits.lean ====
section
/-!
DEFINITION. Helpers on lane masks, bytes and words: lanes of a mask in ascending order (R7), little-endian
bytes (R3), and the bit counts of R196.
-/

namespace Sys2Proof.Machine

/-- The lanes of a mask from `l` upwards. -/
def lanesFrom : Nat → Nat → Nat → List Nat
  | 0, _, _ => []
  | f + 1, l, m => if m = 0 then [] else if m % 2 = 1 then l :: lanesFrom f (l + 1) (m / 2) else lanesFrom f (l + 1) (m / 2)

/-- The lanes of a mask in ascending order (R7). -/
def lanesOf (m : Mask) : List Nat := lanesFrom 1024 0 m.toNat

/-- The mask of one lane. -/
def laneBit (l : Nat) : Mask := 1#1024 <<< l

/-- The mask of a list of lanes. -/
def maskOf (ls : List Nat) : Mask := ls.foldl (fun m l => m ||| laneBit l) 0

/-- The lanes `lo` to `lo + n − 1`. -/
def laneRange (lo n : Nat) : Mask := BitVec.ofNat 1024 (2 ^ n - 1) <<< lo

/-- The lanes of a mask where a condition holds. -/
def maskWhere (m : Mask) (p : Nat → Bool) : Mask := maskOf ((lanesOf m).filter p)

/-- The lowest lane of a mask. -/
def lowLane (m : Mask) : Nat := (lanesOf m).headD 0

/-- The number of lanes of a mask. -/
def laneCount (m : Mask) : Nat := (lanesOf m).length

/-- Mask word `w` (R44). -/
def maskWord (m : Mask) (w : Nat) : W32 := m.extractLsb' (32 * w) 32

/-- The non-empty mask words of a mask, ascending (R44). -/
def wordsOfMask (m : Mask) : List Nat := (List.range 32).filter fun w => maskWord m w != 0

/-- Lanes of a mask word. -/
def wordMask (w : Nat) (x : W32) : Mask := x.setWidth 1024 <<< (32 * w)

/-- The value of bytes, least significant first (R3). -/
def leNat : List Byte → Nat
  | [] => 0
  | b :: bs => b.toNat + 256 * leNat bs

/-- The `n` low bytes of a value, least significant first (R3). -/
def leBytes : Nat → Nat → List Byte
  | 0, _ => []
  | n + 1, v => BitVec.ofNat 8 (v % 256) :: leBytes n (v / 256)

/-- `n` bytes from a base key of a byte table. -/
def bytesAt (m : SMap Byte) (a : Nat) : Nat → List Byte
  | 0 => []
  | n + 1 => m.atD a 0 :: bytesAt m (a + 1) n

/-- Bytes stored from a base key of a byte table. -/
def storeBytes (m : SMap Byte) (a : Nat) : List Byte → SMap Byte
  | [] => m
  | b :: bs => storeBytes (m.store 0 a b) (a + 1) bs

/-- Bits `[lo + n − 1 : lo]` of a number. -/
def bits (v lo n : Nat) : Nat := v / 2 ^ lo % 2 ^ n

/-- The sign extension of the `n` low bits of a value to 64 bits. -/
def sext64 (n : Nat) (v : W64) : W64 :=
  if n = 8 then (v.setWidth 8).signExtend 64 else if n = 16 then (v.setWidth 16).signExtend 64
  else if n = 32 then (v.setWidth 32).signExtend 64 else v

/-- The number of one bits below `n` (R196). -/
def popNat : Nat → Nat → Nat
  | 0, _ => 0
  | n + 1, v => v % 2 + popNat n (v / 2)

/-- The index of the least significant one bit, or none (R196). -/
def ffsNat : Nat → Nat → Nat → Option Nat
  | 0, _, _ => none
  | n + 1, i, v => if v % 2 = 1 then some i else ffsNat n (i + 1) (v / 2)

/-- The leading zero bits of a value of `w` bits (R196). -/
def clzNat (w v : Nat) : Nat := if v = 0 then w else w - 1 - v.log2

/-- The number of bits of a value. -/
def bitLen (v : Nat) : Nat := if v = 0 then 0 else v.log2 + 1

/-- Round up to a multiple. -/
def roundUp (v n : Nat) : Nat := (v + n - 1) / n * n

/-- A list with the entry at an index replaced. -/
def setAt {α : Type} : List α → Nat → α → List α
  | [], _, _ => []
  | _ :: r, 0, v => v :: r
  | a :: r, n + 1, v => a :: setAt r n v

/-- A list with a function applied at an index. -/
def modAt {α : Type} (f : α → α) : List α → Nat → List α
  | [], _ => []
  | a :: r, 0 => f a :: r
  | a :: r, n + 1 => a :: modAt f r n

/-- A list without the entry at an index. -/
def dropAt {α : Type} : List α → Nat → List α
  | [], _ => []
  | _ :: r, 0 => r
  | a :: r, n + 1 => a :: dropAt r n

/-- The index of the first entry that satisfies a condition. -/
def indexOf? {α : Type} (p : α → Bool) : List α → Option Nat
  | [] => none
  | a :: r => if p a then some 0 else (indexOf? p r).map (· + 1)

/-- Insertion into a list sorted by a strict order, after equal entries. -/
def insertBy {α : Type} (lt : α → α → Bool) (x : α) : List α → List α
  | [] => [x]
  | a :: r => if lt x a then x :: a :: r else a :: insertBy lt x r

/-- A list sorted by a strict order, stable. -/
def sortBy {α : Type} (lt : α → α → Bool) (xs : List α) : List α := xs.foldr (insertBy fun a b => !lt b a) []

/-- The entry that is least in a strict order, the first of equals. -/
def leastBy {α : Type} (lt : α → α → Bool) : List α → Option α
  | [] => none
  | a :: r => match leastBy lt r with
    | none => some a
    | some b => if lt b a then some b else some a

end Sys2Proof.Machine
end

