-- ==== Sys2Proof/Machine/Float.lean ====
section
/-!
DEFINITION. The floating-point formats (R112-R114), exact values, rounding (R115-R119), and the vector
functions of R121. A finite value is a sign, a magnitude and a power of two; every rounding acts on exact values.
-/

namespace Sys2Proof.Machine

/-- A set of arithmetic flags in the layout of FLAGS (R366). -/
abbrev FlagSet := BitVec 8

namespace Flag
def inv : FlagSet := 0x01
def dz : FlagSet := 0x02
def ofl : FlagSet := 0x04
def ufl : FlagSet := 0x08
def inx : FlagSet := 0x10
def ovf : FlagSet := 0x20
def isat : FlagSet := 0x40
def allocerr : FlagSet := 0x80
end Flag

/-- A value of a format: NaN, an infinity, or (−1)^neg × m × 2^e. -/
inductive FVal where
  | nan
  | inf (neg : Bool)
  | fin (neg : Bool) (m : Nat) (e : Int)
  deriving DecidableEq, Repr

/-- A signed format (R112, R113): fraction bits, exponent bits, bias, whether it has infinities and NaNs as in IEEE 754,
the code of its largest finite magnitude and its canonical NaN (R117). -/
structure Fmt where
  fb : Nat
  eb : Nat
  bias : Nat
  ieee : Bool
  maxCode : Nat
  cnan : Nat
  deriving DecidableEq, Repr

def Fmt.f32 : Fmt := ⟨23, 8, 127, true, 0x7F7FFFFF, 0x7FC00000⟩
def Fmt.f16 : Fmt := ⟨10, 5, 15, true, 0x7BFF, 0x7E00⟩
def Fmt.bf16 : Fmt := ⟨7, 8, 127, true, 0x7F7F, 0x7FC0⟩
def Fmt.e4m3 : Fmt := ⟨3, 4, 7, false, 0x7E, 0x7F⟩
def Fmt.e5m2 : Fmt := ⟨2, 5, 15, true, 0x7B, 0x7E⟩
def Fmt.e2m1 : Fmt := ⟨1, 2, 1, false, 0x7, 0x0⟩

/-- The exponent of the last place of the subnormals. -/
def Fmt.emin (f : Fmt) : Int := 1 - (f.bias : Int) - f.fb

/-- Bits of the format. -/
def Fmt.width (f : Fmt) : Nat := 1 + f.eb + f.fb

/-- A code read as a value (R113). -/
def Fmt.decode (f : Fmt) (x : Nat) : FVal :=
  let neg := bits x (f.fb + f.eb) 1 == 1
  let e := bits x f.fb f.eb
  let m := bits x 0 f.fb
  if f.ieee && e == 2 ^ f.eb - 1 then (if m = 0 then .inf neg else .nan)
  else if !f.ieee && f.fb == 3 && e == 15 && m == 7 then .nan
  else if e = 0 then .fin neg m f.emin
  else .fin neg (2 ^ f.fb + m) (f.emin + e - 1)

/-- The sign bit of a code. -/
def Fmt.signed (f : Fmt) (neg : Bool) (mag : Nat) : Nat := if neg then 2 ^ (f.fb + f.eb) + mag else mag

/-- The code of an infinity. -/
def Fmt.infCode (f : Fmt) (neg : Bool) : Nat := f.signed neg ((2 ^ f.eb - 1) * 2 ^ f.fb)

/-- m × 2^e rounded to a multiple of 2^t, in units of 2^t, and whether the rounding changed the value (R115). -/
def roundAt (mode : RMode) (neg : Bool) (m : Nat) (e t : Int) : Nat × Bool :=
  if t ≤ e then (m * 2 ^ (e - t).toNat, false)
  else
    let d := (t - e).toNat
    let q := m / 2 ^ d
    let r := m % 2 ^ d
    let half := 2 ^ (d - 1)
    let up := match mode with
      | .rn => half < r || (r == half && q % 2 == 1)
      | .rz => false
      | .rd => neg && r != 0
      | .ru => !neg && r != 0
    (if up then q + 1 else q, r != 0)

/-- A magnitude on the format's grid with no upper bound on its exponent (R119): its code, which may pass the largest
finite code, whether it is inexact, and whether it is tiny after rounding (R118). -/
def Fmt.grid (f : Fmt) (mode : RMode) (neg : Bool) (m : Nat) (e : Int) : Nat × Bool × Bool :=
  if m = 0 then (0, false, false)
  else
    let free := e + bitLen m - (f.fb + 1)
    let t := max free f.emin
    let (q, inexact) := roundAt mode neg m e t
    let tiny := free < f.emin && !((roundAt mode neg m e free).1 == 2 ^ (f.fb + 1) && free + 1 == f.emin)
    let (q, t) := if q = 2 ^ (f.fb + 1) then (2 ^ f.fb, t + 1) else (q, t)
    let code := if q < 2 ^ f.fb then q else (t - f.emin + 1).toNat * 2 ^ f.fb + (q - 2 ^ f.fb)
    (code, inexact, tiny)

/-- The flags of an inexact result, with underflow where it is tiny (R120). -/
def inexactFlags (inexact tiny : Bool) : FlagSet :=
  if inexact then (if tiny then Flag.inx ||| Flag.ufl else Flag.inx) else 0

/-- A finite value rounded into an IEEE format, with overflow for the mode (R116, ROUND). -/
def Fmt.roundFin (f : Fmt) (mode : RMode) (neg : Bool) (m : Nat) (e : Int) : Nat × FlagSet :=
  let (code, inexact, tiny) := f.grid mode neg m e
  if f.maxCode < code then
    let toInf := match mode with
      | .rn => true
      | .rz => false
      | .rd => neg
      | .ru => !neg
    (if toInf then f.infCode neg else f.signed neg f.maxCode, Flag.ofl ||| Flag.inx)
  else (f.signed neg code, inexactFlags inexact tiny)

/-- `ROUND(x, T, m)` (R116). A NaN gives the canonical NaN. -/
def Fmt.round (f : Fmt) (mode : RMode) : FVal → Nat × FlagSet
  | .nan => (f.cnan, 0)
  | .inf neg => (f.infCode neg, 0)
  | .fin neg m e => f.roundFin mode neg m e

/-- `NARROW(x, T, m, ns)` (R116, R119). -/
def Fmt.narrow (f : Fmt) (mode : RMode) (ns : Bool) : FVal → Nat × FlagSet
  | .nan => (f.cnan, Flag.inv)
  | .inf neg =>
    if ns && f.fb == 3 then (f.cnan, 0)
    else if ns && f.fb == 2 then (f.infCode neg, 0)
    else (f.signed neg f.maxCode, 0)
  | .fin neg m e =>
    let (code, inexact, tiny) := f.grid mode neg m e
    if f.maxCode < code then
      if ns && f.fb != 1 then (f.cnan, Flag.ofl) else (f.signed neg f.maxCode, Flag.ofl ||| Flag.inx)
    else (f.signed neg code, inexactFlags inexact tiny)

/-- A signed mantissa at an exponent. -/
def sgn (neg : Bool) (m : Nat) : Int := if neg then -(m : Int) else m

/-- The exact sum of two finite values: mantissa and exponent. -/
def dyAdd (a : Int) (ea : Int) (b : Int) (eb : Int) : Int × Int :=
  if ea ≤ eb then (a + b * 2 ^ (eb - ea).toNat, ea) else (a * 2 ^ (ea - eb).toNat + b, eb)

/-- The exact sum of two values with the sign of an exact zero (R117); the flag tells an invalid sum. -/
def fvAdd (mode : RMode) : FVal → FVal → FVal × FlagSet
  | .nan, _ | _, .nan => (.nan, 0)
  | .inf a, .inf b => if a == b then (.inf a, 0) else (.nan, Flag.inv)
  | .inf a, _ => (.inf a, 0)
  | _, .inf b => (.inf b, 0)
  | .fin na ma ea, .fin nb mb eb =>
    let (s, e) := dyAdd (sgn na ma) ea (sgn nb mb) eb
    if s = 0 then (.fin (if ma = 0 && mb = 0 && na == nb then na else mode == .rd) 0 e, 0)
    else (.fin (s < 0) s.natAbs e, 0)

/-- The exact product of two values. -/
def fvMul : FVal → FVal → FVal × FlagSet
  | .nan, _ | _, .nan => (.nan, 0)
  | .inf a, .inf b => (.inf (a != b), 0)
  | .inf a, .fin b m _ => if m = 0 then (.nan, Flag.inv) else (.inf (a != b), 0)
  | .fin a m _, .inf b => if m = 0 then (.nan, Flag.inv) else (.inf (a != b), 0)
  | .fin a m e, .fin b n g => (.fin (a != b) (m * n) (e + g), 0)

/-- The opposite of a value. -/
def FVal.opp : FVal → FVal
  | .nan => .nan
  | .inf n => .inf !n
  | .fin n m e => .fin (!n) m e

/-- A quotient of magnitudes with every lower bit gathered in its last bit, enough for any rounding of this file. -/
def divSticky (m : Nat) (e : Int) (n : Nat) (g : Int) : Nat × Int :=
  let k := 160 + bitLen n
  let q := m * 2 ^ k / n
  (2 * q + (if m * 2 ^ k % n = 0 then 0 else 1), e - g - k - 1)

/-- The integer square root by bits. -/
def sqrtFrom : Nat → Nat → Nat → Nat
  | 0, _, r => r
  | k + 1, n, r => let c := r + 2 ^ k; sqrtFrom k n (if c * c ≤ n then c else r)

/-- A square root of a magnitude with every lower bit gathered in its last bit. -/
def sqrtSticky (m : Nat) (e : Int) : Nat × Int :=
  let odd := e % 2 != 0
  let n := (if odd then 2 * m else m) * 2 ^ 160
  let g := (if odd then e - 1 else e) - 160
  let r := sqrtFrom (bitLen n / 2 + 1) n 0
  (2 * r + (if r * r = n then 0 else 1), g / 2 - 1)

/-- An FP32 operand read. -/
def f32 (x : W32) : FVal := Fmt.f32.decode x.toNat

/-- `CNAN` (R116). -/
def CNAN : W32 := 0x7FC00000

/-- A value rounded to FP32 with its flags. -/
def to32 (mode : RMode) (r : FVal × FlagSet) : W32 × FlagSet :=
  let (c, fl) := Fmt.f32.round mode r.1
  (BitVec.ofNat 32 c, r.2 ||| fl)

/-- `RNE32(x)` (R116). -/
def rne32 (x : FVal) : W32 := BitVec.ofNat 32 (Fmt.f32.round .rn x).1

/-- `fadd` on one lane (R248). -/
def fpAdd (mode : RMode) (a b : W32) : W32 × FlagSet := to32 mode (fvAdd mode (f32 a) (f32 b))

/-- `fsub` on one lane (R248). -/
def fpSub (mode : RMode) (a b : W32) : W32 × FlagSet := to32 mode (fvAdd mode (f32 a) (f32 b).opp)

/-- `fmul` on one lane (R248). -/
def fpMul (mode : RMode) (a b : W32) : W32 × FlagSet := to32 mode (fvMul (f32 a) (f32 b))

/-- `ffma` on one lane (R248): the product's invalid case holds whatever the addend. -/
def fpFma (mode : RMode) (a b c : W32) : W32 × FlagSet :=
  let p := fvMul (f32 a) (f32 b)
  let s := fvAdd mode p.1 (f32 c)
  to32 mode (s.1, p.2 ||| s.2)

/-- `fdiv` on one lane (R250). -/
def fpDiv (mode : RMode) (a b : W32) : W32 × FlagSet :=
  match f32 a, f32 b with
  | .nan, _ | _, .nan => (CNAN, 0)
  | .inf _, .inf _ => (CNAN, Flag.inv)
  | .inf x, .fin y _ _ => to32 mode (.inf (x != y), 0)
  | .fin x _ _, .inf y => to32 mode (.fin (x != y) 0 0, 0)
  | .fin x m e, .fin y n g =>
    if n = 0 then (if m = 0 then (CNAN, Flag.inv) else to32 mode (.inf (x != y), Flag.dz))
    else if m = 0 then to32 mode (.fin (x != y) 0 0, 0)
    else let (q, t) := divSticky m e n g; to32 mode (.fin (x != y) q t, 0)

/-- `fsqrt` on one lane (R251). -/
def fpSqrt (mode : RMode) (a : W32) : W32 × FlagSet :=
  match f32 a with
  | .nan => (CNAN, 0)
  | .inf neg => if neg then (CNAN, Flag.inv) else to32 mode (.inf false, 0)
  | .fin neg m e =>
    if m = 0 then (a, 0) else if neg then (CNAN, Flag.inv)
    else let (r, t) := sqrtSticky m e; to32 mode (.fin false r t, 0)

/-- Whether an FP32 code is a NaN. -/
def isNaN32 (x : W32) : Bool := f32 x == .nan

/-- A total order of FP32 codes that are no NaN, with −0 below +0 (R250). -/
def totalKey (x : W32) : Int := if x.msb then -((x.toNat - 2 ^ 31 : Nat) : Int) - 1 else x.toNat

/-- An order of FP32 codes that are no NaN, with −0 equal to +0 (R252). -/
def valueKey (x : W32) : Int := if x.msb then -((x.toNat - 2 ^ 31 : Nat) : Int) else x.toNat

/-- `fmin` on one lane (R250). -/
def fpMin (a b : W32) : W32 :=
  if isNaN32 a then (if isNaN32 b then CNAN else b) else if isNaN32 b then a
  else if totalKey b < totalKey a then b else a

/-- `fmax` on one lane (R250). -/
def fpMax (a b : W32) : W32 :=
  if isNaN32 a then (if isNaN32 b then CNAN else b) else if isNaN32 b then a
  else if totalKey a < totalKey b then b else a

/-- `fcpsgn` on one lane (R250). -/
def fpCpsgn (a b : W32) : W32 := if isNaN32 a then CNAN else (a &&& 0x7FFFFFFF#32) ||| (b &&& 0x80000000#32)

/-- The compares of R252. -/
def fpEq (a b : W32) : Bool := !isNaN32 a && !isNaN32 b && valueKey a == valueKey b
def fpLt (a b : W32) : Bool := !isNaN32 a && !isNaN32 b && decide (valueKey a < valueKey b)
def fpLe (a b : W32) : Bool := !isNaN32 a && !isNaN32 b && decide (valueKey a ≤ valueKey b)
def fpUn (a b : W32) : Bool := isNaN32 a || isNaN32 b

/-! The functions whose results R121 bounds. A candidate of `Config.approx` is taken where it meets the bound, and the
centre of the bound, rounded, where it does not (log entry 5). Centres are fixed-point numbers of 192 fraction bits. -/

/-- Fraction bits of a centre. -/
def fx : Nat := 192

/-- 2^192 × ln 2, rounded down. -/
def ln2Fx : Nat := 4350955369971217654477563090224794165364344896676135745069

/-- 2^192 × π, rounded down. -/
def piFx : Nat := 19720096697726538562396133364228268891463450865190089732560

/-- e^y − 1 from a term on, for a fixed-point y, by its series. -/
def expSeries (y : Int) : Nat → Nat → Int → Int
  | 0, _, _ => 0
  | n + 1, k, term => term + expSeries y n (k + 1) (term * y / 2 ^ fx / (k + 1))

/-- e^y for a fixed-point y from −1 to 1. -/
def expFx (y : Int) : Int := 2 ^ fx + expSeries y 50 1 y

/-- A finite value in fixed point, rounded down. -/
def toFx (neg : Bool) (m : Nat) (e : Int) : Int :=
  let k := e + fx
  let v : Int := if 0 ≤ k then (m : Int) * 2 ^ k.toNat else ((m / 2 ^ (-k).toNat : Nat) : Int)
  if neg then -v else v

/-- Binary digits of log2 of a fixed-point number from 1 to 2, most significant first. -/
def log2Bits : Nat → Nat → Nat → Nat
  | 0, _, acc => acc
  | n + 1, v, acc =>
    let s := v * v / 2 ^ fx
    if 2 ^ (fx + 1) ≤ s then log2Bits n (s / 2) (2 * acc + 1) else log2Bits n s (2 * acc)

/-- The sum of an alternating series of sine or cosine from a term on. -/
def trigSeries (y2 : Int) : Nat → Nat → Int → Int
  | 0, _, _ => 0
  | n + 1, k, term => term + trigSeries y2 n (k + 2) (-(term * y2 / 2 ^ fx) / ((k + 1) * (k + 2)))

/-- The sine of a fixed-point number. -/
def sinFx (y : Int) : Int := trigSeries (y * y / 2 ^ fx) 40 1 y

/-- A finite value reduced to −π to π, in fixed point. -/
def reduceFx (neg : Bool) (m : Nat) (e : Int) : Int :=
  let y := toFx neg m e
  let n := (y + piFx) / (2 * piFx)
  y - n * (2 * piFx)

/-- Whether a finite candidate lies within a distance of a centre, all in units of 2^t. -/
def closeTo (c : W32) (centre : Int) (t : Int) (dist : Int) : Bool :=
  match f32 c with
  | .fin neg m e =>
    if t ≤ e then decide (((sgn neg m * 2 ^ (e - t).toNat) - centre).natAbs ≤ dist.natAbs)
    else decide ((sgn neg m - centre * 2 ^ (t - e).toNat).natAbs ≤ (dist * 2 ^ (t - e).toNat).natAbs)
  | _ => false

/-- The ulp of an exact result of a magnitude at an exponent, as a power of two (R121). No two values enclose an exact power of two strictly:
there the ulp is the larger one, above it (DESIGN CHOICE, log entry 5). -/
def ulpExp (m : Nat) (e : Int) : Int := max (e + bitLen m - 24) (-149)

/-- The function numbers of `Config.approx`. -/
inductive Fn where
  | rcp | rsq | exp2 | log2 | sin | cos | tanh
  deriving DecidableEq, Repr

def Fn.num : Fn → Nat
  | .rcp => 0 | .rsq => 1 | .exp2 => 2 | .log2 => 3 | .sin => 4 | .cos => 5 | .tanh => 6

/-- A candidate within `k` ulp of m × 2^e, or m × 2^e rounded. A result beyond the largest finite value lies between
that value and infinity. -/
def nearUlp (fn : Fn) (x : W32) (k : Nat) (neg : Bool) (m : Nat) (e : Int) : W32 :=
  let c := Config.approx fn.num x
  let dist : Int := if ulpExp m e ≤ e then k else k * 2 ^ (ulpExp m e - e).toNat
  let beyond := decide ((Fmt.f32.maxCode : Nat) < (Fmt.f32.grid .rz neg m e).1)
  let inf := BitVec.ofNat 32 (Fmt.f32.infCode neg)
  if closeTo c (sgn neg m) e dist || (beyond && c == inf) then c
  else if beyond then BitVec.ofNat 32 (Fmt.f32.signed neg Fmt.f32.maxCode)
  else rne32 (.fin neg m e)

/-- A candidate within 2^-22 of a fixed-point centre, or the centre rounded. -/
def nearAbs (fn : Fn) (x : W32) (centre : Int) : W32 :=
  let c := Config.approx fn.num x
  if closeTo c centre (-(fx : Int)) (2 ^ (fx - 22)) then c else rne32 (.fin (centre < 0) centre.natAbs (-(fx : Int)))

/-- `frcp` on one lane (R121, R251). -/
def fpRcp (x : W32) : W32 × FlagSet :=
  match f32 x with
  | .nan => (CNAN, 0)
  | .inf neg => (BitVec.ofNat 32 (Fmt.f32.signed neg 0), 0)
  | .fin neg m e =>
    if m = 0 then (BitVec.ofNat 32 (Fmt.f32.infCode neg), Flag.dz)
    else let (q, t) := divSticky 1 0 m e; (nearUlp .rcp x 1 neg q t, 0)

/-- `frsq` on one lane (R121, R251). -/
def fpRsq (x : W32) : W32 × FlagSet :=
  match f32 x with
  | .nan => (CNAN, 0)
  | .inf neg => if neg then (CNAN, Flag.inv) else (0, 0)
  | .fin neg m e =>
    if m = 0 then (BitVec.ofNat 32 (Fmt.f32.infCode neg), Flag.dz)
    else if neg then (CNAN, Flag.inv)
    else
      let (q, t) := divSticky 1 0 m e
      let (r, g) := sqrtSticky q t
      (nearUlp .rsq x 1 false r g, 0)

/-- The whole part of a value with no fraction, or none. -/
def wholePart (neg : Bool) (m : Nat) (e : Int) : Option Int :=
  if 0 ≤ e then some (sgn neg (m * 2 ^ e.toNat))
  else if m % 2 ^ (-e).toNat = 0 then some (sgn neg (m / 2 ^ (-e).toNat)) else none

/-- `fexp2` on one lane (R121, R251). Of a tiny argument the exact result lies strictly between 1 and its neighbour: a number beside 1 stands
for it, so that the bound is that of its side. -/
def fpExp2 (x : W32) : W32 × FlagSet :=
  let flags (finite : Bool) (r : W32) : W32 × FlagSet :=
    (r, if !finite then 0 else if r == 0x7F800000#32 then Flag.ofl
        else if r.toNat < 0x00800000 then Flag.ufl else 0)
  let nonNeg (c : W32) : W32 := if c.msb then 0 else c
  match f32 x with
  | .nan => (CNAN, 0)
  | .inf neg => (if neg then 0 else 0x7F800000, 0)
  | .fin neg m e =>
    let y := if 10 < e then (if neg then -(2 ^ 10) else 2 ^ 10) * 2 ^ fx else toFx neg m e
    if 128 * 2 ^ fx ≤ y then flags true 0x7F800000
    else match wholePart neg m e with
      | some n =>
        if -149 ≤ n then flags true (rne32 (.fin false 1 n))
        else flags true (nonNeg (nearUlp .exp2 x 2 false 1 (max n (-1000))))
      | none =>
        if e + bitLen m ≤ -100 then flags true (nearUlp .exp2 x 2 false (if neg then 2 ^ 200 - 1 else 2 ^ 200 + 1) (-200))
        else
        let y := max y (-(1000 * 2 ^ fx))
        let n := y / 2 ^ fx
        let f := y - n * 2 ^ fx
        flags true (nonNeg (nearUlp .exp2 x 2 false (expFx (f * ln2Fx / 2 ^ fx)).natAbs (n - fx)))

/-- `flog2` on one lane (R121, R251). -/
def fpLog2 (x : W32) : W32 × FlagSet :=
  match f32 x with
  | .nan => (CNAN, 0)
  | .inf neg => if neg then (CNAN, Flag.inv) else (0x7F800000, 0)
  | .fin neg m e =>
    if m = 0 then (0xFF800000, Flag.dz)
    else if neg then (CNAN, Flag.inv)
    else
      let b := bitLen m
      let n : Int := e + b - 1
      if m = 2 ^ (b - 1) then (rne32 (.fin (n < 0) n.natAbs 0), 0)
      else
        let digits := log2Bits 120 (m * 2 ^ (fx + 1 - b)) 0
        let c : Int := n * 2 ^ 120 + digits
        if (-1 ≤ n && n < 1) then (nearAbs .log2 x (c * 2 ^ (fx - 120)), 0)
        else (nearUlp .log2 x 2 (c < 0) c.natAbs (-120), 0)

/-- `fsin` and `fcos` on one lane (R121, R251); the cosine of a tiny argument lies just below 1. -/
def fpTrig (cos : Bool) (x : W32) : W32 × FlagSet :=
  let fn := if cos then Fn.cos else Fn.sin
  match f32 x with
  | .nan => (CNAN, 0)
  | .inf _ => (CNAN, Flag.inv)
  | .fin neg m e =>
    if valueKey (x &&& 0x7FFFFFFF#32) ≤ valueKey 0x47800000#32 then
      let y := reduceFx neg m e
      let turned := y + piFx / 2
      let centre := if !cos then sinFx y
        else if m = 0 then 2 ^ fx
        else if e + bitLen m ≤ -60 then 2 ^ fx - 1
        else sinFx (turned - (if piFx < turned then 2 * piFx else 0))
      (nearAbs fn x centre, 0)
    else
      let c := Config.approx fn.num x
      (if fpLe (c &&& 0x7FFFFFFF#32) 0x3F800000#32 then c else 0, 0)

/-- `ftanh` on one lane (R121, R251). Of a tiny argument the exact result lies just below it in magnitude: a number there stands for it. -/
def fpTanh (x : W32) : W32 × FlagSet :=
  let one (neg : Bool) : W32 := if neg then 0xBF800000 else 0x3F800000
  let atMostOne (neg : Bool) (c : W32) : W32 :=
    if valueKey (c &&& 0x7FFFFFFF#32) ≤ valueKey 0x3F800000#32 then c else one neg
  match f32 x with
  | .nan => (CNAN, 0)
  | .inf neg => (one neg, 0)
  | .fin neg m e =>
    if m = 0 then (x, 0)
    else if e + bitLen m ≤ -40 then (nearUlp .tanh x 2 neg (m * 2 ^ 80 - 1) (e - 80), 0)
    else if 7 < e + bitLen m then (atMostOne neg (nearUlp .tanh x 2 neg (2 ^ 200 - 1) (-200)), 0)
    else
      let y := toFx false m e
      let n := y * 2 * 2 ^ fx / ln2Fx / 2 ^ fx
      let r := y * 2 - n * ln2Fx
      let p := (expFx r).natAbs * 2 ^ n.toNat
      let (q, t) := divSticky (p - 2 ^ fx) 0 (p + 2 ^ fx) 0
      (atMostOne neg (nearUlp .tanh x 2 neg q t), 0)

/-! The scale formats (R114). -/

/-- A UE3M5 code as magnitude and exponent, or none for its NaN. -/
def ue3m5 (c : Nat) : Option (Nat × Int) :=
  if c = 0xFF then none else if c / 32 = 0 then some (c, -7) else some (32 + c % 32, (c / 32 : Nat) - 8)

/-- Whether 6 × value(c) reaches a magnitude (R255). -/
def scaleReaches (c m : Nat) (e : Int) : Bool :=
  match ue3m5 c with
  | none => false
  | some (n, g) =>
    let (d, _) := dyAdd (6 * n) g (-(m : Int)) e
    decide (0 ≤ d)

/-- The smallest UE3M5 code of a range that reaches a magnitude, or 0xFE (R255). -/
def smallestScale (m : Nat) (e : Int) : Nat → Nat → Nat
  | 0, _ => 0xFE
  | n + 1, c => if scaleReaches c m e then c else smallestScale m e n (c + 1)

end Sys2Proof.Machine
end

