-- ==== Sys2Proof/Machine/Get.lean ====
section
/-!
DEFINITION. Access to the parts of the state: cores, teams, splinters, partitions, sectors and their tables, each
read with what an absent entry holds and written in one place.
-/

namespace Sys2Proof.Machine

/-- Core `c` (R13, R15). -/
def State.core (s : State) (c : Nat) : Core := s.cores.atD c {}

/-- Core `c` written. -/
def State.setCore (s : State) (c : Nat) (k : Core) : State := { s with cores := s.cores.put c k }

/-- A function applied to core `c`. -/
def State.onCore (s : State) (c : Nat) (f : Core → Core) : State := s.setCore c (f (s.core c))

/-- Sector `n` (R17). -/
def State.sector (s : State) (n : Nat) : Sector := s.sectors.atD n {}

/-- A function applied to sector `n`. -/
def State.onSector (s : State) (n : Nat) (f : Sector → Sector) : State :=
  { s with sectors := s.sectors.put n (f (s.sector n)) }

/-- Partition `p`. -/
def State.part (s : State) (p : Nat) : Partition := s.parts.atD p {}

/-- A function applied to partition `p`. -/
def State.onPart (s : State) (p : Nat) (f : Partition → Partition) : State :=
  { s with parts := s.parts.put p (f (s.part p)) }

/-- The team in a slot of a core. -/
def State.team? (s : State) (c t : Nat) : Option Team := (s.core c).teams.at? t

/-- The team in a slot written. -/
def State.setTeam (s : State) (c t : Nat) (x : Team) : State :=
  s.onCore c fun k => { k with teams := k.teams.put t x }

/-- A function applied to the team in a slot, where there is one. -/
def State.onTeam (s : State) (c t : Nat) (f : Team → Team) : State :=
  match s.team? c t with
  | none => s
  | some x => s.setTeam c t (f x)

/-- A slot freed. -/
def State.dropTeam (s : State) (c t : Nat) : State :=
  s.onCore c fun k => { k with teams := k.teams.del t }

/-- The slot number of no team: of what is left of a team that is over, or that has been saved and is out. -/
def noSlot : Nat := 8192

/-- Whether a position of a flow is that of a team. -/
def Position.on (q : Position) (c t : Nat) : Bool := q.core == some c && q.slot == t

/-- A team that is over forgotten: its slot is free, and its positions wait for no access of a later team there (R38). -/
def State.closeTeam (s : State) (c t : Nat) : State :=
  { s.dropTeam c t with flows := s.flows.map fun f =>
      { f with positions := f.positions.map fun q => if q.on c t then { q with slot := noSlot } else q } }

/-- A function applied to a team's splinter. -/
def State.onSplinter (s : State) (c t n : Nat) (f : Splinter → Splinter) : State :=
  s.onTeam c t fun x => { x with splinters := modAt f x.splinters n }

/-- A handle of a core (R91). -/
def State.handle (s : State) (c h : Nat) : Handle := (s.core c).handles.atD h {}

/-- A handle written. -/
def State.setHandle (s : State) (c h : Nat) (x : Handle) : State :=
  s.onCore c fun k => { k with handles := k.handles.put h x }

/-- A function applied to a handle. -/
def State.onHandle (s : State) (c h : Nat) (f : Handle → Handle) : State := s.setHandle c h (f (s.handle c h))

/-- An activity counted for a partition (R406). -/
def State.counted (s : State) (p : Nat) (k : Activity) : State :=
  s.onPart p fun q => match k with
    | .issue => { q with issues := q.issues + 1 }
    | .copy => { q with copyWork := q.copyWork + 1 }
    | .tensor => { q with tensorWork := q.tensorWork + 1 }
    | .sampler => { q with samplerWork := q.samplerWork + 1 }
    | .pull => { q with pullWork := q.pullWork + 1 }

/-- A dependency counter (R141). -/
def State.counter (s : State) (n : Nat) : Counter := s.counters.atD n {}

/-- The sector of a core (R13). -/
def sectorOf (c : Nat) : Nat := c / 16

/-- The team width W (R44). -/
def EntryRecord.width (e : EntryRecord) : Nat := 32 * (e.wm + 1)

/-- `regs=` (R134). -/
def EntryRecord.regs (e : EntryRecord) : Nat := 8 * (e.rg + 1)

/-- `wregs=` (R134). -/
def EntryRecord.wregs (e : EntryRecord) : Nat := 8 * (e.wg + 1)

/-- The private size P (R134, R75). -/
def EntryRecord.priv (e : EntryRecord) : Nat := 256 * e.privUnits

def Team.width (x : Team) : Nat := x.entry.width

/-- Lanes of an item's width code (R27). -/
def widthLanes (w : Nat) : Nat := if w = 0 then 1 else if w = 1 then 32 else if w = 2 then 256 else 1024

/-- The lanes that an item was packed into. -/
def Item.mask (i : Item) : Mask := laneRange i.lane0 (widthLanes i.width)

/-- Whether a splinter takes one of the sixteen places (R47: held lanes do not). -/
def Splinter.counts (p : Splinter) : Bool :=
  match p.st with
  | .held _ => false
  | _ => true

/-- The lanes that are live in the team. -/
def Team.live (x : Team) : Mask := x.splinters.foldl (fun m p => m ||| p.mask) 0

/-- The lanes of items that were packed after an access of some order number was issued (R46). -/
def Team.packedAfter (x : Team) (n : Nat) : Mask :=
  (x.items.filter fun i => !i.ended && decide (n < i.since)).foldl (fun m i => m ||| i.mask) 0

/-- The number of splinters (R47). -/
def Team.splinterCount (x : Team) : Nat := (x.splinters.filter Splinter.counts).length

/-- The item of a lane. -/
def Team.itemOf (x : Team) (l : Nat) : Option (Nat × Item) :=
  match indexOf? (fun (i : Item) => !i.ended && i.mask.getLsbD l) x.items with
  | none => none
  | some n => (x.items[n]?).map fun i => (n, i)

/-- Whether the team runs in system mode (R356). -/
def Team.inSys (x : Team) : Bool := x.sys.isSome

/-- Whether the team was formed for a system item (R360). -/
def Team.formed (x : Team) : Bool := match x.sys with
  | some y => y.formed
  | none => false

/-- The partition whose scheduling state and flags an instruction of the team acts on (R361, R367). -/
def Team.actPart (x : Team) : Nat := match x.sys with
  | some y => y.actp
  | none => x.part

/-- Cycles of 1 µs and of 1 ms (R19). -/
def cyclesPerUs : Nat := 1900
def cyclesPerMs : Nat := 1900000

/-- The clock has advanced by some cycles since a time. -/
def State.elapsed (s : State) (since : W64) (n : Nat) : Bool := decide (n ≤ (s.clock - since).toNat)

/-- The device of a request's sender; a sender of the device itself stays so when DEVID changes (R25, R297). -/
def PullEntry.sender (r : PullEntry) (own : Nat) : Nat := if r.path = 0 then own else r.sdev

/-- A value for the model's free choices, and the next state of their counter (log entry 3). -/
def State.draw (s : State) : Nat × State := (s.fresh, { s with fresh := s.fresh + 1 })

end Sys2Proof.Machine
end

