-- ==== Sys2Proof/Machine/Packets.lean ====
section
/-!
DEFINITION. What leaves the device: Pytus links with their ports (R11, R310), routes (R311), flits with their headers (R313), encryption
and retry buffers (R314, R316), and messages over the fabric, over Ultra Ethernet and to the device itself.
-/

namespace Sys2Proof.Machine

/-! Links and ports (R11, R310). -/

/-- A device's column and row (R25). -/
def devCol (d : Nat) : Nat := d % 32
def devRow (d : Nat) : Nat := d / 32

/-- A link of the device. -/
def State.link (s : State) (n : Nat) : Link := s.links.atD n {}

/-- A link written. -/
def State.setLink (s : State) (n : Nat) (l : Link) : State := { s with links := s.links.put n l }

/-- The port that joins a device to another of its row or of its column, in a domain of some columns and rows (R310). -/
def portTo (cols rows own dst : Nat) : Nat :=
  if devRow own = devRow dst then (devCol dst + cols - devCol own - 1) % cols
  else 31 + (devRow dst + rows - devRow own - 1) % rows

/-- The link that serves a port: one that is up, else a spare bound to it, else the link of its number (R11, R310). -/
def State.linkFor (s : State) (port : Nat) : Nat :=
  match s.links.find? fun e => e.2.port == some port && e.2.up with
  | some e => e.1
  | none => port

/-- Whether a link carries flits: it is up, its keys are not being set up, and its counter stays below 2^48 (R315). -/
def Link.usable (l : Link) : Bool := l.up && l.keying.isNone && decide (l.tx < 2 ^ 48)

/-! Flits (R313, R314). -/

/-- The identifier of a link and direction: transmitting device, link number, key epoch (R314). -/
def lidOf (dev link : Nat) (epoch : BitVec 17) : BitVec 32 := BitVec.ofNat 9 dev ++ BitVec.ofNat 6 link ++ epoch

/-- The nonce of a flit (R314). -/
def nonceOf (lid : BitVec 32) (counter : Nat) : BitVec 96 := lid ++ BitVec.ofNat 64 counter

/-- A packet before it is cut into flits: the fields of its header and its payload (R313). -/
structure Packet where
  kind : Nat
  part : Nat := 0
  dst : Nat
  addr : Nat := 0
  tag : Nat := 0
  mgrp : Nat := 0
  payload : List Byte

/-- The header of a flit (R313). -/
def headerOf (k : Packet) (src len : Nat) (det : Bool) : BitVec 128 :=
  BitVec.ofNat 128 (k.addr % 2 ^ 44 * 2 ^ 84 + k.tag % 65536 * 2 ^ 68 + k.mgrp % 256 * 2 ^ 60 + len * 2 ^ 52 + k.kind * 2 ^ 48 +
    k.part % 8 * 2 ^ 45 + src * 2 ^ 36 + k.dst * 2 ^ 27 + (if det then 2 ^ 24 else 0))

/-- A payload cut at the most bytes that one flit or packet carries; at least one (R313, R322). -/
def cutPayload (most : Nat) : Nat → List Byte → List (List Byte)
  | 0, bs => [bs.take most]
  | f + 1, bs => if bs.length ≤ most then [bs] else bs.take most :: cutPayload most f (bs.drop most)

/-- The flits of a packet, plain (R313). -/
def Packet.flits (k : Packet) (src : Nat) (det : Bool) : List Flit :=
  (cutPayload 224 (k.payload.length / 224) k.payload).map fun bs => { header := headerOf k src bs.length det, payload := bs, gcm := 0, counter := 0 }

/-- The beats that a flit takes (R313). -/
def flitBeats (f : Flit) : Nat := (f.payload.length + 32 + 63) / 64

/-- A flit, its payload plain, put on a link under the next counter value (R314). -/
def State.emit (s : State) (n : Nat) (f : Flit) : State :=
  let l := s.link n
  let (c, g) := Config.gcmSeal l.txKey (nonceOf (lidOf s.devid.toNat (l.port.getD n) l.epoch) l.tx) f.header f.payload
  { (s.setLink n { l with tx := l.tx + 1 }) with
    out := s.out ++ [.flit n { header := f.header, payload := c, gcm := g, counter := l.tx }] }

/-- A flit sent on a link that carries flits, and kept in the retry buffer; on any other it waits there (R314, R316). -/
def State.transmit (s : State) (n : Nat) (f : Flit) : State :=
  let l := s.link n
  let s := s.setLink n { l with unacked := l.unacked ++ [(l.tx, f)] }
  if l.usable then s.emit n f else s

/-! Routes (R311). -/

/-- The columns through which a packet may detour: neither its own nor the last, and with a link that carries flits (R311). -/
def State.detours (s : State) (dst : Nat) : List Nat :=
  let own := s.devid.toNat
  (List.range s.cols).filter fun c => c != devCol own && c != devCol dst &&
    (s.link (s.linkFor (portTo s.cols s.rows own (32 * devRow own + c)))).usable

/-- The first port of a packet's route, and whether it is a detour: where the first link of the minimal route is congested or down, or a
later one is down (R311, log entry 4). None where the destination lies outside the domain. -/
def State.route (s : State) (dst : Nat) (mayDetour : Bool) : Option (Nat × Bool) :=
  let own := s.devid.toNat
  if s.cols ≤ devCol dst || s.rows ≤ devRow dst || dst = own then none
  else
    let first := if devCol own = devCol dst then dst else 32 * devRow own + devCol dst
    let port := portTo s.cols s.rows own first
    let bad := !(s.link (s.linkFor port)).usable || Config.congested s.fresh (s.linkFor port) || (first != dst && Config.farDown s.fresh dst)
    if !(mayDetour && bad) then some (port, false)
    else match choose s.fresh (s.detours dst) with
      | none => some (port, false)
      | some c => some (portTo s.cols s.rows own (32 * devRow own + c), true)

/-- A packet cut into flits that leave by its route (R311, R313, R314). Multicast flits never detour. -/
def State.carry (s : State) (k : Packet) : State :=
  match s.route k.dst (k.kind != 6 && k.kind != 7) with
  | none => s
  | some (port, det) =>
    (k.flits s.devid.toNat det).foldl (fun s f => s.transmit (s.linkFor port) f) { s with fresh := s.fresh + 1 }

/-! Messages. -/

/-- The packet of a message (R313); none for one that is no packet. The payload of a multicast write is its words,
that of a multicast ack 64 bytes (R332); no rule lays out the others (log entry 4). MGRP of a multicast ack is zero (DEDUCED, log entry 49: R313
has it zero for kinds that bear no group, and does not say whether the ack is one). -/
def OutMsg.packet : OutMsg → Option Packet
  | .request dev m =>
    let kind := match m.kind with
      | .read => 0
      | .write => 2
      | .atomic _ => 3
    some { kind := kind, part := m.part, dst := dev, addr := (m.lanes.headD (0, 0, 0)).1, tag := m.tag
           payload := Config.payload kind (m.size :: m.lanes.flatMap fun l => [l.1, l.2.1.toNat, l.2.2.toNat]) }
  | .values dev part tag vals =>
    some { kind := 1, part := part, dst := dev, tag := tag, payload := Config.payload 1 (vals.flatMap fun v => [v.1, v.2.toNat]) }
  | .ack dev part tag olds =>
    some { kind := 4, part := part, dst := dev, tag := tag, payload := Config.payload 4 (olds.flatMap fun v => [v.1, v.2.toNat]) }
  | .nack dev part tag at_ => some { kind := 5, part := part, dst := dev, tag := tag, payload := Config.payload 5 at_ }
  | .mcast dev part m =>
    some { kind := 6, part := part, dst := dev, addr := m.addr, tag := m.tag, mgrp := m.group
           payload := (m.words.map fun w => leBytes 4 w.toNat).flatten }
  | .mcastAck dev part tag _ bits => some { kind := 7, part := part, dst := dev, tag := tag, payload := leBytes 64 bits.toNat }
  | .announce dev _ a =>
    some { kind := 8, part := a.part, dst := dev
           payload := Config.payload 8 ([a.score, a.sh, a.dcore, a.dh, a.pri, a.off, a.len] ++ a.pieces.flatMap fun e => e.2.map BitVec.toNat) }
  | .token dev part _ t => some { kind := 9, part := part, dst := dev, payload := Config.payload 9 [t.core, t.handle, t.off, t.len] }
  | .beat dev part _ dcore dh score sh off data _ =>
    some { kind := 10, part := part, dst := dev, payload := Config.payload 10 ([dcore, dh, score, sh, off] ++ data.map BitVec.toNat) }
  | .notice dev part _ core handle delivered =>
    some { kind := 11, part := part, dst := dev, payload := Config.payload 11 [core, handle, if delivered then 1 else 0] }
  | _ => none

/-- Whether a message is one of the pull protocol from a device to itself (R297): the Ultra Ethernet leads to no such message. -/
def OutMsg.toSelf (own : Nat) : OutMsg → Bool
  | .announce dev ue _ | .token dev _ ue _ | .beat dev _ ue _ _ _ _ _ _ _ | .notice dev _ ue _ _ _ => ue.isNone && dev == own
  | _ => false

/-- The port that a message leaves by, for one over Ultra Ethernet. -/
def OutMsg.port : OutMsg → Option Nat
  | .announce _ ue _ | .token _ _ ue _ | .beat _ _ ue _ _ _ _ _ _ _ | .notice _ _ ue _ _ _ => ue
  | _ => none

/-- An Ultra Ethernet port brought up (R12). -/
def State.raisePort (s : State) (n : Nat) : State := { s with ports := s.ports.put n { s.ports.atD n {} with up := true } }

/-- The most bytes of payload that a packet over Ultra Ethernet carries (R322). -/
def uePayload : Nat := 4096

/-- A packet over Ultra Ethernet sealed under its port's key, with an entropy value that spreads packets over the paths of the network (R322, log
entry 4). -/
def State.sealPacket (s : State) (n : Nat) (bs : List Byte) : State :=
  let (c, g) := Config.gcmSeal (s.ueKeys.getD n 0) (nonceOf (BitVec.ofNat 32 n) s.ueSent) 0 bs
  { s with ueSent := s.ueSent + 1, out := s.out ++ [.uePacket n s.ueSent (Config.entropy s.ueSent) c g] }

/-- A message over Ultra Ethernet cut into packets, each sealed (R322); the port that an endpoint entry names is configured by it (R12). -/
def State.overPort (s : State) (n : Nat) (k : Packet) : State :=
  (cutPayload uePayload (k.payload.length / uePayload) k.payload).foldl (fun s bs => s.sealPacket n bs) (s.raisePort n)

/-- A message sent: to the device itself, or out of the device, with the flits that carry it over the fabric or its packets over Ultra Ethernet
(log entry 4). -/
def State.send (s : State) (m : OutMsg) : State :=
  if s.power == .halted then s
  else if m.toSelf s.devid.toNat then { s with toSelf := s.toSelf ++ [m] }
  else
    let s := { s with out := s.out ++ [m] }
    match m.packet, m.port with
    | some k, some n => s.overPort n k
    | some k, none => s.carry k
    | none, _ => s

end Sys2Proof.Machine
end

