-- ==== Sys2Proof/Machine/Mem.lean ====
section
/-!
DEFINITION. Memory as programs see it: regions (R71-R77), physical memory and its poison (R73, R378, R379), page
tables, TLBs and permissions (R84-R86, R358, R410), and reads and writes of bytes through virtual addresses.
-/

namespace Sys2Proof.Machine

/-! Regions of the address space (R71). -/

def nearBase : Nat := 0x400000000
def privBase : Nat := 0x800000000
def privEnd : Nat := 0x800010000
def bulkBase : Nat := 0x0001000000000000
def bulkEnd : Nat := 0x0002000000000000
def peerBase : Nat := 0x0080000000000000
def peerEnd : Nat := 0x00A0000000000000
def sysBase : Nat := 0x00F0000000000000
def vaEnd : Nat := 0x0100000000000000
/-- Bytes of one near slice. -/
def sliceSize : Nat := 0x4000000
/-- Bytes of a peer window. -/
def windowSize : Nat := 0x100000000000

/-- The core in whose slice a near address lies (R73). -/
def sliceOf (a : Nat) : Nat := (a - nearBase) / sliceSize

/-- The regions of R71; `hole` stands for every address outside them. -/
inductive Region where
  | null | near | priv | bulk | peer | system | hole
  deriving DecidableEq, Repr

/-- The region of an address. -/
def regionOf (a : Nat) : Region :=
  if a < nearBase then .null
  else if a < privBase then .near
  else if a < privEnd then .priv
  else if a < bulkBase then .hole
  else if a < bulkEnd then .bulk
  else if a < peerBase then .hole
  else if a < peerEnd then .peer
  else if a < sysBase then .hole
  else if a < vaEnd then .system
  else .hole

/-! Physical memory (R73). -/

/-- Whether a physical address exists. -/
def paExists (pa : Nat) : Bool := pa < 0x400000000 || (0x10000000000 ≤ pa && pa < 0x28000000000)

/-- The byte at a physical address; memory reads zero until it is written (R400). -/
def State.byte (s : State) (pa : Nat) : Byte := SMap.atD s.mem pa 0

/-- Bytes from a physical address on. -/
def State.bytes (s : State) (pa n : Nat) : List Byte := bytesAt s.mem pa n

/-- A little-endian value of `n` bytes at a physical address (R3). -/
def State.word (s : State) (pa n : Nat) : Nat := leNat (s.bytes pa n)

/-- The lines that a range replaces whole (R378). -/
def wholeLines (pa n : Nat) : List Nat :=
  let first := roundUp pa 64 / 64
  List.range' first ((pa + n) / 64 - first)

/-- Bytes written at a physical address. A write of all 64 bytes of a line clears its poison (R378). -/
def State.write (s : State) (pa : Nat) (bs : List Byte) : State :=
  { s with
    mem := storeBytes s.mem pa bs
    poisoned := if s.poisoned = [] then [] else s.poisoned.filter fun l => !(wholeLines pa bs.length).contains l }

/-- The poison of lines cleared whose 64 bytes one store replaced in several parts (R378). -/
def State.clearWhole (s : State) (ps : List (Nat × Nat)) : State :=
  if s.poisoned = [] then s
  else { s with poisoned := s.poisoned.filter fun l =>
    !((List.range 64).all fun k => ps.any fun p => decide (p.1 ≤ 64 * l + k) && decide (64 * l + k < p.1 + p.2)) }

/-- Whether a range of physical addresses touches a poisoned line (R378). -/
def State.lineBad (s : State) (pa n : Nat) : Bool :=
  s.poisoned.any fun l => decide (pa < 64 * l + 64) && decide (64 * l < pa + n)

/-- The number of a physical frame (R379). -/
def frameNumber (pa : Nat) : Nat :=
  if pa < 0x10000000000 then pa / 0x20000 else 131072 + (pa - 0x10000000000) / 0x20000

/-- The owner tag of the frame of a physical address (R379); a tag no table lists is treated as tag 8 (R380, log entry 12). -/
def State.ownerTag (s : State) (pa : Nat) : Nat :=
  let n := frameNumber pa
  let b := (s.byte (s.ftag.toNat + n / 2)).toNat
  let t := if n % 2 = 0 then b % 16 else b / 16
  if t < 8 then t else 8

/-! Page tables (R84, R85). -/

/-- The levels of the radix tree: lowest address bit indexed and number of bits. -/
def levels : List (Nat × Nat) := [(43, 13), (31, 12), (26, 5), (21, 5), (17, 4)]

/-- What a walk finds. -/
inductive Walk where
  | leaf (base size frame : Nat) (w x sys : Bool)
  | fail (c : FaultCause)
  | poison (line : Nat)
  deriving DecidableEq, Repr

/-- Whether a leaf is malformed at its level (R85); `peer` leaves out the checks that tie regions to memories (R317). -/
def leafBad (peer : Bool) (va sh frame : Nat) : Bool :=
  sh == 43 || frame % 2 ^ sh != 0 || !paExists frame ||
    (!peer && regionOf va == .near &&
      !(sh ≤ 26 && frame / sliceSize == (va - nearBase) / sliceSize)) ||
    (!peer && regionOf va == .bulk && frame < 0x400000000)

/-- A walk from a table on through the levels that remain (R84, R85, R410). DESIGN CHOICE: a root or table pointer that is not aligned to the size
of its table is taken as it is, and the index is added to it; R85 names no failure for it (log entry 12). -/
def walkFrom (s : State) (peer : Bool) (va : Nat) (table : Nat) : List (Nat × Nat) → Walk
  | [] => .fail .malformed
  | (sh, n) :: rest =>
    let ea := table + 8 * (va / 2 ^ sh % 2 ^ n)
    if s.lineBad ea 8 then .poison (ea / 64)
    else
      let e := s.word ea 8
      let addr := bits e 7 41 * 128
      if e % 2 = 0 then .fail .notMapped
      else if bits e 48 16 != 0 || bits e 5 2 != 0 then .fail .malformed
      else if bits e 1 1 = 1 then
        if leafBad peer va sh addr then .fail .malformed
        else .leaf (va / 2 ^ sh * 2 ^ sh) (2 ^ sh) addr (bits e 2 1 == 1) (bits e 3 1 == 1) (bits e 4 1 == 1)
      else if rest.isEmpty || !(addr < 0x400000000) then .fail .malformed
      else walkFrom s peer va addr rest

/-- A walk of a tree whose root is at a physical address. A root outside near memory reads as malformed (log entry 12). -/
def walk (s : State) (peer : Bool) (root va : Nat) : Walk :=
  if root < 0x400000000 then walkFrom s peer va root levels else .fail .malformed

/-! TLBs (R86, R317). -/

/-- A space of translations: 0-7 the partitions, 8 the system tables; a peer tree has its own place. -/
def State.rootOf (s : State) (space : Nat) : Nat := if space = 8 then s.sysroot.toNat else (s.part space).root.toNat

/-- A cached translation of an address, in the first or the second level (R86). -/
def State.cached (s : State) (places : List TlbPlace) (space va : Nat) : Option TlbEntry :=
  s.tlb.find? fun e => places.contains e.place && e.space == space && decide (e.base ≤ va) && decide (va < e.base + e.size)

/-- A translation: the walk as memory stands, or a cached translation that differs from it, by a free choice (R86, log entry 6). -/
def State.lookup (s : State) (places : List TlbPlace) (space : Nat) (peer : Bool) (root va : Nat) : Walk :=
  let w := walk s peer root va
  match s.cached places space va with
  | none => w
  | some e =>
    let held := Walk.leaf e.base e.size e.frame e.w e.x e.s
    if w = held then w else if Config.useTlb s.fresh va then held else w

/-- The entries that a place holds: 1,024 in a core, 16,384 in a sector, 4,096 in the peer-access unit (R15, R17, R86, R317). -/
def TlbPlace.size : TlbPlace → Nat
  | .core _ => 1024
  | .sector _ => 16384
  | .peer => 4096

/-- An entry put into its place; a full place loses one, by a free choice (R86, log entry 6). -/
def addTlb (fresh : Nat) (l : List TlbEntry) (e : TlbEntry) : List TlbEntry :=
  if l.contains e then l
  else
    let l := l.filter fun o => !(o.place == e.place && o.space == e.space && o.base == e.base && o.size == e.size)
    let mine := l.filter fun o => o.place == e.place
    if mine.length < e.place.size then e :: l
    else match mine[Config.evict fresh e.base % mine.length]? with
      | some o => e :: l.erase o
      | none => e :: l

/-- A translation put into the TLBs of its places (R86). -/
def State.fillTlb (s : State) (places : List TlbPlace) (space : Nat) : Walk → State
  | .leaf base size frame w x sys =>
    { s with tlb := places.foldl (fun l p =>
        addTlb s.fresh l { place := p, space := space, base := base, size := size, frame := frame, w := w, x := x, s := sys }) s.tlb }
  | _ => s

/-- The places of the translations that a core uses (R86). -/
def corePlaces (c : Nat) : List TlbPlace := [.core c, .sector (sectorOf c)]

/-! Accesses of lanes, fetches and engines. -/

/-- The address translated for a lane's address: that of the private window through its alias; none where it is unmappable by form
(R75, R76). -/
def Who.place (w : Who) (dev lane a : Nat) : Option Nat :=
  match regionOf a with
  | .null | .hole => none
  | .near | .bulk => some a
  | .priv => if a - privBase < w.priv then some (w.privAt + lane * w.priv + (a - privBase)) else none
  | .peer => if (a - peerBase) / windowSize = dev then none else some a
  | .system => if w.sys then some a else none

/-- What becomes of one part of an access that lies within a line. -/
inductive Spot where
  | form
  | memory (pa : Nat)
  | peer (dev off : Nat)
  | fault (c : FaultCause)
  | table (tag : Nat)
  deriving DecidableEq, Repr

/-- Whether an address lies in a block. -/
def Block.has (b : Block) (va : Nat) : Bool := decide (b.first ≤ va) && decide (va < b.first + b.len)

/-- The space of an address: the system region's in system mode, and the aliases of a team formed for a system item, go through SYSROOT
(R75, R358). -/
def Who.space (w : Who) (va : Nat) : Nat := if (w.sys && regionOf va == .system) || w.block.has va then 8 else w.part

/-- The fault of a leaf for an access, if any (R89, R358). -/
def leafFault (sys : Bool) (k : AccessKind) (w x sp : Bool) : Option FaultCause :=
  if sp && !sys then some .privileged
  else match k with
    | .store | .atomic | .engineWrite => if w then none else some .noWrite
    | .fetch => if x && (sp || !sys) then none else some .noExec
    | .load | .engineRead => none

/-- What an address is while there are no tables, in STAGE1: that of physical memory. DESIGN CHOICE (log entry 10): the rules give translation through
SYSROOT and the partitions' tables alone, and stage one sets SYSROOT as it ends (R400, R402). -/
def untranslated (a : Nat) : Spot := if paExists a then .memory a else .form

/-- A part of an access translated (R76, R85, R89, R410). -/
def State.spot (s : State) (w : Who) (k : AccessKind) (lane a : Nat) : Spot :=
  if s.power == .stage1 then untranslated a
  else match w.place s.devid.toNat lane a with
  | none => .form
  | some va =>
    if regionOf va = .peer then
      (if k = .fetch then .form else .peer ((va - peerBase) / windowSize) ((va - peerBase) % windowSize))
    else
      let space := w.space va
      match s.lookup (corePlaces w.core) space false (s.rootOf space) va with
      | .fail c => .fault c
      | .poison line => .table (s.ownerTag (64 * line))
      | .leaf base _ frame wr x sp => match leafFault w.sys k wr x sp with
        | some c => .fault c
        | none => .memory (frame + (va - base))

/-- The TLBs after a part was translated. -/
def State.fillSpot (s : State) (w : Who) (lane a : Nat) : State :=
  if s.power == .stage1 then s
  else match w.place s.devid.toNat lane a with
  | none => s
  | some va =>
    if regionOf va = .peer then s
    else
      let space := w.space va
      s.fillTlb (corePlaces w.core) space (s.lookup (corePlaces w.core) space false (s.rootOf space) va)

/-- The parts of an access, one for each line it touches (R78). Addresses wrap modulo 2^64 (R55). -/
def lineParts (a n : Nat) : List (Nat × Nat) :=
  let first := 64 - a % 64
  if n ≤ first then [(a, n)] else [(a, first), ((a + first) % 2 ^ 64, n - first)]

/-- A lane's whole access translated: every part before any is performed (R78). A poisoned table line outranks a fault, since the access
is then never parked (R410); a fault outranks a part that is unmappable, since it parks the whole access (R78, log entry 13). An access
may lie in two peer windows: `cross` names the first. -/
inductive Target where
  | form
  | table (tags : List Nat)
  | fault (c : FaultCause)
  | memory (parts : List (Nat × Nat))
  | peer (dev off : Nat)
  | cross (dev off : Nat)
  deriving DecidableEq, Repr

/-- Two parts' outcomes joined. -/
def Target.join : Target → Target → Target
  | .table t, .table u => .table (t ++ u)
  | .table t, _ | _, .table t => .table t
  | .fault c, _ | _, .fault c => .fault c
  | .form, _ | _, .form => .form
  | .memory a, .memory b => .memory (a ++ b)
  | .peer d o, .peer e _ => if d = e then .peer d o else .cross d o
  | _, _ => .form

/-- One part's outcome. -/
def Spot.target (n : Nat) : Spot → Target
  | .form => .form
  | .memory pa => .memory [(pa, n)]
  | .peer d o => .peer d o
  | .fault c => .fault c
  | .table t => .table [t]

/-- Several parts' outcomes joined. -/
def State.joinParts (s : State) (w : Who) (k : AccessKind) (lane : Nat) (acc : Target) : List (Nat × Nat) → Target
  | [] => acc
  | (a, n) :: rest => s.joinParts w k lane (acc.join ((s.spot w k lane a).target n)) rest

/-- A lane's access of `n` bytes at an address translated (R75-R78). -/
def State.target (s : State) (w : Who) (k : AccessKind) (lane a n : Nat) : Target :=
  match lineParts a n with
  | [] => .form
  | (b, m) :: rest => s.joinParts w k lane ((s.spot w k lane b).target m) rest

/-- The TLBs after an access was translated. -/
def State.fillParts (s : State) (w : Who) (lane a n : Nat) : State :=
  (lineParts a n).foldl (fun s p => s.fillSpot w lane p.1) s

/-- The bytes of physical parts in order. -/
def State.readParts (s : State) : List (Nat × Nat) → List Byte
  | [] => []
  | (pa, n) :: rest => s.bytes pa n ++ s.readParts rest

/-- Bytes written over physical parts in order. -/
def State.writeParts (s : State) : List (Nat × Nat) → List Byte → State
  | [], _ => s
  | (pa, n) :: rest, bs => (s.write pa (bs.take n)).writeParts rest (bs.drop n)

/-- The owner tag of the first poisoned part, if any (R378, R379). -/
def State.badPart (s : State) : List (Nat × Nat) → Option Nat
  | [] => none
  | (pa, n) :: rest => if s.lineBad pa n then some (s.ownerTag pa) else s.badPart rest

/-! The read cache (R79, R109). -/

/-- The cached line of a partition at a physical line. -/
def Core.line? (k : Core) (p line : Nat) : Option (List Byte) :=
  (k.cache.find? fun e => e.1 == p && e.2.1 == line).map fun e => e.2.2

/-- A line dropped from the read cache. -/
def Core.dropLine (k : Core) (p line : Nat) : Core := { k with cache := k.cache.filter fun e => !(e.1 == p && e.2.1 == line) }

/-- A line of the read cache filled or replaced; a full cache, of 256 KiB, loses a line, by a free choice (R79, log entry 6). -/
def Core.setLine (k : Core) (fresh p line : Nat) (bs : List Byte) : Core :=
  let rest := (k.dropLine p line).cache
  { k with cache := (p, line, bs) :: (if rest.length < 4096 then rest else rest.eraseIdx (Config.evict fresh line % rest.length)) }

/-- Whether a line of the read cache is one of a peer window; its number is then that of its address. -/
def peerLine (line : Nat) : Bool := decide (peerBase / 64 ≤ line)

/-- The scope of an access reaches beyond its core (R109). -/
def beyondCore (sc : Scope) : Bool := sc == .sector || sc == .dev || sc == .sys

/-- A fill that is under way from a peer is kept out of the read cache, where it asks for one of some lines (R79, R109). -/
def State.stopFills (s : State) (c p : Nat) (lines : Nat → Bool) : State :=
  { s with txs := s.txs.map fun x => if x.core == c && x.acc.part == p && x.lines.any lines then { x with fill := false } else x }

/-- A partition's cached lines discarded at an acquire or a fence of a scope: none at team or core scope, those of peer windows at sys
scope only (R109). -/
def State.discardLines (s : State) (c p : Nat) (sc : Scope) : State :=
  if !beyondCore sc then s
  else
    let s := s.onCore c fun k => { k with cache := k.cache.filter fun e => e.1 != p || (sc != .sys && peerLine e.2.1) }
    if sc = .sys then s.stopFills c p fun _ => true else s

/-- Bytes of a part read by a lane of a core: near memory directly, bulk memory through the read cache, which may answer
with an earlier fill of the line, by a free choice (R79, R109, log entry 6). -/
def State.readCached (s : State) (c p : Nat) (pa n : Nat) : List Byte :=
  let now := s.bytes pa n
  if pa < 0x400000000 then now
  else match (s.core c).line? p (pa / 64) with
    | none => now
    | some l =>
      let held := (l.drop (pa % 64)).take n
      if held = now then now else if Config.useLine s.fresh (pa / 64) then held else now

/-- A line of the read cache replaced in part, where the partition holds it (R79). -/
def State.patchLine (s : State) (c p : Nat) (pa : Nat) (bs : List Byte) : State :=
  if pa < 0x400000000 then s
  else match (s.core c).line? p (pa / 64) with
    | none => s
    | some l => s.onCore c fun k =>
      k.setLine s.fresh p (pa / 64) (l.take (pa % 64) ++ bs ++ l.drop (pa % 64 + bs.length))

/-- The read cache after a lane of a core read a part of a bulk line: the line is filled, where the lane read memory (R79). -/
def State.fillLine (s : State) (c p : Nat) (pa : Nat) : State :=
  if pa < 0x400000000 || s.lineBad pa 1 then s
  else
    let line := s.bytes (pa / 64 * 64) 64
    match (s.core c).line? p (pa / 64) with
    | none => s.onCore c fun k => k.setLine s.fresh p (pa / 64) line
    | some l => if l = line || Config.useLine s.fresh (pa / 64) then s else s.onCore c fun k => k.setLine s.fresh p (pa / 64) line

/-- The cached lines of a part that the memory of a core's partition holds dropped (R82, R102). -/
def State.dropLines (s : State) (c p pa n : Nat) : State :=
  s.onCore c fun k => { k with cache := k.cache.filter fun e => e.1 != p || !(decide (64 * e.2.1 + 64 > pa) && decide (64 * e.2.1 < pa + n)) }

/-! Ranges read or written by the device and by engines. -/

/-- A range cut at the multiples of a unit that it touches. -/
def unitChunks (u : Nat) : Nat → Nat → Nat → List (Nat × Nat)
  | 0, _, _ => []
  | f + 1, a, n =>
    if n = 0 then []
    else
      let m := min n (u - a % u)
      (a, m) :: unitChunks u f (a + m) (n - m)

/-- A range cut at the lines it touches. -/
def chunksOf (a n : Nat) : List (Nat × Nat) := unitChunks 64 (n / 64 + 2) a n

/-- A range cut at the 128 KiB pages it touches. -/
def pagesOf (a n : Nat) : List (Nat × Nat) := unitChunks 0x20000 (n / 0x20000 + 2) a n

/-- The first part of a range that does not lie in mapped memory, or the physical parts of the whole range. -/
def State.rangeParts (s : State) (w : Who) (k : AccessKind) : List (Nat × Nat) → Except (Nat × Spot) (List (Nat × Nat))
  | [] => .ok []
  | (a, n) :: rest => match s.spot w k 0 a with
    | .memory pa => match s.rangeParts w k rest with
      | .ok ps => .ok ((pa, n) :: ps)
      | .error e => .error e
    | sp => .error (a, sp)

/-- The bytes of a range that the device reads for itself, none where a part does not translate or is poisoned. -/
def State.readRange (s : State) (w : Who) (a n : Nat) : Option (List Byte) :=
  match s.rangeParts w .load (chunksOf a n) with
  | .ok ps => if (s.badPart ps).isSome then none else some (s.readParts ps)
  | .error _ => none

/-- Poison that walks over a range read which the device makes by itself for a lane, kept until the end of the turn, where it is consumed (R410,
log entry 12). -/
def State.laneWalks (s : State) (w : Who) (k : AccessKind) (lane a n : Nat) : State :=
  { s with walked := (pagesOf a n).foldl (fun ts p => match s.spot w k lane p.1 with
      | .table t => if ts.contains t then ts else ts ++ [t]
      | _ => ts) s.walked }

/-- The same for the device's own reads and writes. -/
def State.walks (s : State) (w : Who) (k : AccessKind) (a n : Nat) : State := s.laneWalks w k 0 a n

/-- Whether a range lies wholly in the near region, or wholly in the bulk region (R276, R279, R298). -/
def inNearOrBulk (a n : Nat) : Bool :=
  (nearBase ≤ a && a + n ≤ privBase) || (bulkBase ≤ a && a + n ≤ bulkEnd)

/-- Whether two ranges share a byte. -/
def overlaps (a n b m : Nat) : Bool := decide (0 < n) && decide (0 < m) && decide (a < b + m) && decide (b < a + n)

end Sys2Proof.Machine
end

