-- ==== Sys2Proof/Machine/Report.lean ====
section
/-!
DEFINITION. Error reports (R407), the sticky flags of a core (R120, R366), and fault records with their queues (R88, R89).
-/

namespace Sys2Proof.Machine

/-! Error reports (R407). -/

def errHead : Nat := 0x3FF0200
def errTail : Nat := 0x3FF0204
def errDrop : Nat := 0x3FF0208
def errRing : Nat := 0x3FF8000

/-- A report as its 32-byte record. -/
def Report.encode (r : Report) : Nat :=
  r.time.toNat * 2 ^ 192 + r.info.toNat * 2 ^ 128 + r.detail.toNat * 2 ^ 96 + r.core % 256 * 2 ^ 88 +
    r.part % 8 * 2 ^ 85 + (if r.pv then 2 ^ 84 else 0) + r.sev % 4 * 2 ^ 82 + r.code

/-- The severity of a code (R407, R359; log entry 14). -/
def sevOf (code : Nat) : Nat :=
  if code = 0x0008 then 0 else if code = 0x0007 then 2
  else if code = 0x0006 || code = 0x000B || code = 0x000C then 3 else 1

/-- An error report raised: to the management plane, and to the ring unless it is full (R407); a halted device raises none (R377). -/
def State.raise (s : State) (code : Nat) (core : Nat) (part : Option Nat) (info : W64) (detail : W32) : State :=
  let r : Report :=
    { time := s.clock, info := info, detail := detail, core := core, part := part.getD 0, pv := part.isSome
      sev := sevOf code, code := code }
  let s' := { s with reports := s.reports ++ [r] }
  let head := s.word errHead 4
  let tail := s.word errTail 4
  if s.power == .halted then s
  else if (tail + 2 ^ 32 - head) % 2 ^ 32 < 1024 then
    (s'.write (errRing + 32 * (tail % 1024)) (leBytes 32 r.encode)).write errTail (leBytes 4 ((tail + 1) % 2 ^ 32))
  else s'.write errDrop (leBytes 4 ((s.word errDrop 4 + 1) % 2 ^ 32))

/-! Sticky flags (R120, R366). -/

/-- The flags of a partition on a core. -/
def State.flags (s : State) (c p : Nat) : FlagSet := (s.core c).flags.atD p 0

/-- Flags set; nothing clears them here (R120). -/
def State.setFlags (s : State) (c p : Nat) (f : FlagSet) : State :=
  if f = 0 then s else s.onCore c fun k => { k with flags := k.flags.put p (k.flags.atD p 0 ||| f) }

/-- The flags whose trap is enabled (R366). -/
def State.enabled (s : State) (c p : Nat) : FlagSet := (s.core c).arithen.atD p 0

/-! Fault records (R88, R89). -/

def AccessKind.code : AccessKind → Nat
  | .load => 0 | .store => 1 | .atomic => 2 | .fetch => 3 | .engineRead => 4 | .engineWrite => 5

def FaultCause.code : FaultCause → Nat
  | .notMapped => 0 | .noWrite => 1 | .noExec => 2 | .privileged => 3 | .malformed => 4 | .unmappable => 5
  | .align => 6 | .tablePoison => 7

/-- The SIZE code of an access size (R88). DESIGN CHOICE: the spec gives no code for what is not 1, 2, 4 or 8 bytes; such an access, and
those of engines, are recorded with 11 (log entry 15). -/
def sizeCode (n : Nat) : Nat := if n = 1 then 0 else if n = 2 then 1 else if n = 4 then 2 else 3

/-- A fault record as its 64 bytes (R88). -/
def FaultRecord.encode (r : FaultRecord) : Nat :=
  r.addr.toNat * 2 ^ 448 + r.pc.toNat * 2 ^ 384 + r.lmask.toNat * 2 ^ 352 + r.core % 256 * 2 ^ 344 +
    r.fbi % 256 * 2 ^ 336 + r.word % 32 * 2 ^ 331 + r.tslot % 32 * 2 ^ 326 + r.part % 8 * 2 ^ 323 + r.kind.code * 2 ^ 320 +
    r.cause.code * 2 ^ 316 + sizeCode r.size * 2 ^ 314 + (if r.info then 2 ^ 313 else 0) + r.fgen % 65536 * 2 ^ 297 +
    (if r.lk then 2 ^ 296 else 0)

/-- The number of records that a partition's queue holds (R364). -/
def Partition.fqCount (p : Partition) : Nat := (p.fqtail.toNat + 8192 - p.fqhead.toNat) % 8192

/-- Where the next record of a partition goes: its virtual address. -/
def Partition.fqNext (p : Partition) : Nat := p.fqbase.toNat + 64 * (p.fqtail.toNat % 4096)

/-- What became of the writing of a record. -/
inductive RecordFate where
  | written | full | noQueue
  deriving DecidableEq, Repr

/-- A record written at the tail of its partition's queue; FQTAIL advances only then (R88). The device writes it through
the partition's tables as a store in system mode would (log entry 15). -/
def State.writeRecord (s : State) (r : FaultRecord) : RecordFate × State :=
  let p := s.part r.part
  if 4096 ≤ p.fqCount then (.full, s)
  else
    let w : Who := { core := r.core, part := r.part, sys := true }
    match s.rangeParts w .store (chunksOf p.fqNext 64) with
    | .error _ => (.noQueue, s.walks w .store p.fqNext 64)
    | .ok ps => (.written, (s.writeParts ps (leBytes 64 r.encode)).onPart r.part fun p => { p with fqtail := p.fqtail + 1 })

/-- The report of a record whose queue does not translate: one for each record (R88, log entry 15). -/
def State.tellRecord (s : State) (r : FaultRecord) : State :=
  if r.told then s else s.raise 0x0010 r.core (some r.part) (BitVec.ofNat 64 (s.part r.part).fqNext) 0

/-- The held records of a core written in order, as far as their queues take them: one core's records of a partition
enter its queue in the order of their faults (R88). -/
def State.writeHeld (s : State) (c : Nat) (stuck : List Nat) (left : List FaultRecord) : List FaultRecord → State
  | [] => s.onCore c fun k => { k with heldRecs := left }
  | r :: rest =>
    if stuck.contains r.part then s.writeHeld c stuck (left ++ [r]) rest
    else match s.writeRecord r with
      | (.written, s') => s'.writeHeld c stuck left rest
      | (.full, _) => s.writeHeld c (r.part :: stuck) (left ++ [r]) rest
      | (.noQueue, s') => (s'.tellRecord r).writeHeld c (r.part :: stuck) (left ++ [{ r with told := true }]) rest

/-- The core's held records retried (R88). -/
def State.retryRecords (s : State) (c : Nat) : State := s.writeHeld c [] [] (s.core c).heldRecs

/-- A fault record queued: behind the core's held records of the same partition, else written at once. A queue that does
not translate raises a report of code 0x0010 (R88). -/
def State.queueRecord (s : State) (r : FaultRecord) : State :=
  let hold (s : State) (r : FaultRecord) : State := s.onCore r.core fun k => { k with heldRecs := k.heldRecs ++ [r] }
  if (s.core r.core).heldRecs.any (fun h => h.part == r.part) then hold s r
  else match s.writeRecord r with
    | (.written, s') => s'
    | (.full, _) => hold s r
    | (.noQueue, s') => (hold s' { r with told := true }).tellRecord r

/-- Several records queued in order. -/
def State.queueRecords (s : State) (rs : List FaultRecord) : State := rs.foldl (fun s r => s.queueRecord r) s

end Sys2Proof.Machine
end

