-- ==== Sys2Proof/Machine/Promenade.lean ====
section
/-!
DEFINITION. Items, entries and flows: item records (R26-R29), entry records (R134, R135), the Promenade's sequence
numbers, tokens and releases (R31-R43, R106), the passage from an enqueue to a queue (R136), and counters (R141).
-/

namespace Sys2Proof.Machine

/-! Records (R26, R134). -/

/-- An item record from its 64 bytes, and whether its reserved fields are zero (R26). -/
def ItemRecord.decode (v : Nat) : ItemRecord × Bool :=
  ({ args := (List.range 12).map fun k => BitVec.ofNat 32 (bits v (128 + 32 * k) 32)
     cnt := bits v 80 16, loc := bits v 72 8, pv := bits v 67 1 == 1, part := bits v 64 3, entry := bits v 48 16
     width := bits v 46 2, cls := bits v 44 2, cv := bits v 43 1 == 1, lv := bits v 42 1 == 1, flow := bits v 0 32 },
   bits v 68 4 == 0 && bits v 32 10 == 0)

/-- An entry record from its 64 bytes (R134). -/
def EntryRecord.decode (v : Nat) : EntryRecord :=
  { code := BitVec.ofNat 64 (bits v 448 64), dict := BitVec.ofNat 64 (bits v 384 64)
    plan := BitVec.ofNat 64 (bits v 320 64), barl := BitVec.ofNat 64 (bits v 256 64), energy := bits v 224 32
    v := bits v 223 1 == 1, wm := bits v 218 5, rg := bits v 214 4, wg := bits v 211 3, privUnits := bits v 202 9
    tmax := bits v 196 6, slots := bits v 190 6, sv := bits v 189 1 == 1, sg := bits v 186 3, sb := bits v 179 7
    sn := bits v 174 5, reservedZero := bits v 0 174 == 0 }

/-- A valid entry (R135). -/
def EntryRecord.valid (e : EntryRecord) : Bool :=
  e.v && e.rg != 0 && e.reservedZero && e.tmax ≤ 32 && e.slots ≤ 32 && e.privUnits ≤ 256 &&
    (!e.sv || (12 ≤ e.sb && e.sb + e.sn < e.regs))

/-- The device's own accesses to a partition's structures, or, for 8, to the system's (log entry 15). -/
def deviceWho (c p : Nat) : Who := { core := c, part := p % 8, sys := true }

/-- An entry of a partition's table, or, for 8, of the system entry table, where it is valid (R134, R135, R360). DESIGN CHOICE: a record
that does not translate, or that lies in a poisoned line, counts as no valid entry; the spec does not say what the device does then (log entry 12). -/
def State.entry? (s : State) (p idx : Nat) : Option EntryRecord :=
  let base := if p = 8 then s.sysent.toNat else (s.part p).entryt.toNat
  match s.readRange (deviceWho 0 p) (base + 64 * idx) 64 with
  | none => none
  | some bs => let e := EntryRecord.decode (leNat bs); if e.valid then some e else none

/-- The walks of the device's read of an entry record (R410). -/
def State.walkEntry (s : State) (p idx : Nat) : State :=
  let base := if p = 8 then s.sysent.toNat else (s.part p).entryt.toNat
  s.walks (deviceWho 0 p) .load (base + 64 * idx) 64

/-- An entry of an endpoint table (R323). -/
structure Endpoint where
  addr : BitVec 128 := 0
  job : BitVec 24 := 0
  pid : Nat := 0
  port : Nat := 0
  deriving DecidableEq, Repr

/-- An endpoint entry of a partition, where it is valid: V is set and its reserved bits are zero (R6, R323). The device reads its tables as it
reads a partition's other structures (log entry 15). -/
def State.endpoint? (s : State) (p idx : Nat) : Option Endpoint :=
  match s.readRange (deviceWho 0 p) ((s.part p).ept.toNat + 32 * idx) 32 with
  | none => none
  | some bs =>
    let v := leNat bs
    if idx < 512 && bits v 88 1 = 1 && bits v 0 88 = 0 then
      some { addr := BitVec.ofNat 128 (bits v 128 128), job := BitVec.ofNat 24 (bits v 104 24), pid := bits v 92 12, port := bits v 89 3 }
    else none

/-- The walks of the device's read of an endpoint entry (R410). -/
def State.walkEndpoint (s : State) (p idx : Nat) : State :=
  s.walks (deviceWho 0 p) .load ((s.part p).ept.toNat + 32 * idx) 32

/-- The port that a message to an endpoint leaves by; none over the fabric (R323). Where the entry has become invalid or cannot be read since its
transfer began, it is port 0, for which no rule gives another (DESIGN CHOICE, log entry 12). -/
def State.uePort (s : State) (p : Nat) (ue : Bool) (idx : Nat) : Option Nat :=
  if ue then some ((s.endpoint? p idx).getD {}).port else none

/-- A message sent to an endpoint of a partition, whose entry the device reads for its port, or over the fabric (R323, R410). -/
def State.sendVia (s : State) (p : Nat) (ue : Bool) (idx : Nat) (m : Option Nat → OutMsg) : State :=
  (if ue then s.walkEndpoint p idx else s).send (m (s.uePort p ue idx))

/-- The width conditions of R29. -/
def widthOk (w : Nat) (e : EntryRecord) : Bool :=
  widthLanes w ≤ e.width && (w < 2 || e.width % widthLanes w == 0)

/-- Whether a counter lies in a partition's range (R141, R404). -/
def State.ownsCounter (s : State) (p n : Nat) : Bool :=
  (s.part p).cntbase ≤ n && n < (s.part p).cntbase + (s.part p).cntlen

/-- Whether an item record is accepted for a partition, 8 for a system item (R29). `sysOffer` tells whether a team in
system mode offers it, the one offer in which PV may be 1; `useCv` is false for `enq`, which ignores CNT (R241). -/
def State.itemOk (s : State) (r : ItemRecord) (reservedZero sysOffer useCv : Bool) (p : Nat) : Bool :=
  r.cls != 3 && reservedZero && (!r.pv || (sysOffer && (s.part r.part).en)) && (r.pv || r.part == 0) &&
    (match s.entry? p r.entry with
     | none => false
     | some e => widthOk r.width e) &&
    (p == 8 || !(useCv && r.cv) || s.ownsCounter p r.cnt) && (p != 8 || r.width == 0)

/-! Flows (R31-R34). -/

/-- The home core of a flow (R31). -/
def homeOf (label : Nat) : Nat := label * 0x9E3779B9 % 2 ^ 32 / 2 ^ 24

/-- Sequence numbers compared by their difference modulo 2^32 (R32). -/
def seqBefore (a b : Nat) : Bool := let d := (b + 2 ^ 32 - a) % 2 ^ 32; 0 < d && d < 2 ^ 31

/-- Whether a record is that of a flow. -/
def FlowRecord.of (f : FlowRecord) (p label : Nat) : Bool := f.part == p && f.label == label

/-- The record of a flow; an idle flow reads the reset values (R33, R34). -/
def State.flow (s : State) (p label : Nat) : FlowRecord :=
  (s.flows.find? fun f => f.of p label).getD { part := p, label := label }

/-- Whether a flow is idle (R34). -/
def FlowRecord.idle (f : FlowRecord) : Bool :=
  f.positions.isEmpty && !f.tok && f.waiters.isEmpty && f.parkedAtomic == 0

/-- The oldest outstanding position of a flow. -/
def FlowRecord.oldest (f : FlowRecord) : Option Position :=
  leastBy (fun (a b : Position) => seqBefore a.seq b.seq) f.positions

/-- NEXTR: the oldest outstanding position, or NEXTA where none is outstanding (R33, R35-R37). -/
def FlowRecord.settle (f : FlowRecord) : FlowRecord :=
  match f.oldest with
  | none => { f with nextr := f.nexta }
  | some q => { f with nextr := BitVec.ofNat 32 q.seq }

/-- The least recently used record that a home keeps in place, where it has more than its 256 (R34). -/
def spillVictim (fs : List FlowRecord) (home : Nat) : Option FlowRecord :=
  let here := fs.filter fun f => homeOf f.label == home && !f.spl
  if here.length ≤ 256 then none else leastBy (fun (a b : FlowRecord) => a.used < b.used) here

/-- A record as its 32 bytes (R33): HV and HCORE from the oldest outstanding position, AW from the waiters. -/
def FlowRecord.encode (f : FlowRecord) : BitVec 256 :=
  let at_ := f.oldest.bind fun q => q.core
  BitVec.ofNat 256 (f.label % 2 ^ 32 + f.nexta.toNat * 2 ^ 32 + f.nextr.toNat * 2 ^ 64 + f.holder.toNat * 2 ^ 96 + f.part % 8 * 2 ^ 154 +
    (if f.spl then 2 ^ 157 else 0) + (if f.waiters.isEmpty then 0 else 2 ^ 158) + (if f.tok then 2 ^ 159 else 0) +
    at_.getD 0 % 256 * 2 ^ 160 + (if at_.isSome then 2 ^ 168 else 0))

/-- The records in a partition's flow spill area. DESIGN CHOICE: no rule says where in near memory the area stands, so that a spilled record
is kept with SPL set, and no address of memory shows it (log entry 27). -/
def State.spillArea (s : State) (p : Nat) : List (BitVec 256) :=
  (s.flows.filter fun f => f.part == p && f.spl).map FlowRecord.encode

/-- A flow's record written: NEXTR settled, freed when idle, and the least recently used record of its home spilled where
the home has too many (R34). -/
def State.setFlow (s : State) (f : FlowRecord) : State :=
  let rest := s.flows.filter fun g => !g.of f.part f.label
  let s : State := { s with flowClock := s.flowClock + 1 }
  let f := { f.settle with spl := false, used := s.flowClock }
  if f.idle then { s with flows := rest }
  else
    let fs := f :: rest
    match spillVictim fs (homeOf f.label) with
    | none => { s with flows := fs }
    | some v => { s with flows := fs.map fun g => if g.of v.part v.label then { g with spl := true } else g }

/-- A flow's record read at its home, which counts as a use of it (R34, R239). -/
def State.touchFlow (s : State) (p label : Nat) : State :=
  if s.flows.any (fun f => f.of p label) then s.setFlow (s.flow p label) else s

/-- Whether a flow has room for one more position (R35). -/
def State.flowRoom (s : State) (p label : Nat) : Bool :=
  let f := s.flow p label
  (f.nexta - f.nextr).toNat + 1 ≤ 65536

/-- The flow's next sequence number assigned (R32), with an outstanding position for an ordered item (R35-R37). An atomic item keeps
the record in use from here on (R34): until it waits for the token, `parkedAtomic` counts it. The answer is the position, 0 for none, and
the number. -/
def State.assign (s : State) (p label cls : Nat) (pos : Position) : Nat × Nat × State :=
  let f := s.flow p label
  let n := f.nexta.toNat
  let id := s.flowClock + 1
  let f := { f with nexta := f.nexta + 1 }
  (if cls = 1 then id else 0, n, s.setFlow (if cls = 1 then { f with positions := f.positions ++ [{ pos with id := id, seq := n }] }
    else if cls = 2 then { f with parkedAtomic := f.parkedAtomic + 1 } else f))

/-- An item put into an item queue (R136, step 4). -/
def State.toQueue (s : State) (q : QItem) : State :=
  s.onCore (if q.record.lv then q.record.loc else homeOf q.record.flow) fun k => { k with items := k.items ++ [q] }

/-! Tokens (R37). -/

/-- The lanes of an item that wait at `flow.set` go on: those of a waiting splinter, or those held for want of a place. -/
def grantLanes (m : Mask) (p : Splinter) : Splinter :=
  match p.st with
  | .waiting .token => if p.mask &&& m != 0 then { p with st := .waiting .tokenDone } else p
  | _ => p

/-- A team in system mode that waits at `flow.set` goes on (R43, R361). -/
def grantSys (y : SysCtx) : SysCtx := if y.wait = some .token then { y with wait := some .tokenDone } else y

/-- The token reaches an item of a resident team that waits at `flow.set` (R43, step 4). -/
def grantItem (p label seq : Nat) (x : Team) : Team :=
  match x.items.find? fun i => i.part == p && i.flow == label && i.seq == seq && i.wtok && !i.ended with
  | none => x
  | some i =>
    { x with
      items := x.items.map fun j => if j == i then { j with tok := true, wtok := false } else j
      splinters := x.splinters.map (grantLanes i.mask)
      sys := x.sys.map grantSys }

/-- The token granted to a waiter: a queued item goes to its queue, a resident item's lanes go on (R37). -/
def State.grant (s : State) (f : FlowRecord) (w : Waiter) : State :=
  let s := s.setFlow
    { f with tok := true, holder := BitVec.ofNat 32 w.seq, waiters := f.waiters.filter fun v => v.seq != w.seq }
  match w.queued with
  | some q => s.toQueue q
  | none => s.onTeam w.core w.slot (grantItem f.part f.label w.seq)

/-- The token returned: it passes to the oldest waiter, or becomes free (R37). -/
def State.returnToken (s : State) (p label : Nat) : State :=
  let f := s.flow p label
  match leastBy (fun (a b : Waiter) => seqBefore a.seq b.seq) f.waiters with
  | none => s.setFlow { f with tok := false }
  | some w => s.grant f w

/-- An atomic item that has its number waits for the token of its flow: it takes a free token at once (R37, R136). -/
def State.awaitToken (s : State) (p label : Nat) (w : Waiter) : State :=
  let f := s.flow p label
  let g := { f with parkedAtomic := f.parkedAtomic - 1, waiters := f.waiters ++ [w] }
  if f.tok then s.setFlow g else s.grant g w

/-! From an enqueue to a queue (R136). -/

/-- Steps 3 and 4: an atomic item waits for the token, any other goes to its queue. -/
def State.proceed (s : State) (q : QItem) : State :=
  if q.record.cls = 2 then s.awaitToken q.part q.record.flow { seq := q.seq, queued := some q } else s.toQueue q

/-- An item parked on its counter (R141). -/
def State.park (s : State) (q : QItem) : State :=
  { s with parkedItems := s.parkedItems.put q.record.cnt (s.parkedItems.atD q.record.cnt [] ++ [q]) }

/-- An accepted item enqueued: steps 1 to 4 of R136. -/
def State.enqueue (s : State) (r : ItemRecord) (p : Nat) : State :=
  let (pos, n, s) := s.assign p r.flow r.cls {}
  let q : QItem := { record := r, part := p, pos := pos, seq := n }
  if r.cv && (s.counter r.cnt).count != 0 then s.park q else s.proceed q

/-- An item that the device itself offers: it waits for room in its flow's window (R35); a halted device enqueues none (R377). -/
def State.offer (s : State) (r : ItemRecord) (p : Nat) : State :=
  if s.power != .halted && s.flowRoom p r.flow then s.enqueue r p else { s with offers := s.offers ++ [{ record := r, part := p }] }

/-- The waiting offers retried in order (R35). -/
def State.retryOffers (s : State) : State :=
  s.offers.foldl (fun s q => s.offer q.record q.part) { s with offers := [] }

/-! Dependency counters (R141, R242). -/

/-- A counter written; a change from a non-zero value to 0 releases the parked items together, in sequence order: they go on
with step 3 (R136, R141). -/
def State.setCounter (s : State) (n : Nat) (k : Counter) : State :=
  let old := s.counter n
  let s := { s with counters := s.counters.put n k }
  if old.count != 0 && k.count == 0 then
    let qs := s.parkedItems.atD n []
    qs.foldl State.proceed { s with parkedItems := s.parkedItems.del n }
  else s

/-- An addition clamps at 0xFFFF_FFFF and sets SAT (R141, R242). -/
def Counter.add (k : Counter) (y : Nat) : Counter :=
  let v := k.count.toNat + y
  if v < 2 ^ 32 then { k with count := BitVec.ofNat 32 v } else { k with count := 0xFFFFFFFF, sat := true }

/-- A decrement below zero leaves 0 and sets UND (R141, R242). -/
def Counter.dec (k : Counter) (y : Nat) : Counter :=
  if y ≤ k.count.toNat then { k with count := BitVec.ofNat 32 (k.count.toNat - y) } else { k with count := 0, und := true }

/-! Releases (R38, R39, R106). -/

/-- An outstanding position, with the record of its flow; none once it is released. -/
def State.position (s : State) (id : Nat) : Option (FlowRecord × Position) :=
  s.flows.findSome? fun f => (f.positions.find? fun q => q.id == id).map fun q => (f, q)

/-- A function applied to an outstanding position. -/
def State.onPosition (s : State) (id : Nat) (f : Position → Position) : State :=
  match s.position id with
  | none => s
  | some (g, _) => s.setFlow { g with positions := g.positions.map fun q => if q.id == id then f q else q }

/-- A position that leaves its flow (R38): offers may find room now (R35). -/
def State.dropPosition (s : State) (id : Nat) : State :=
  match s.position id with
  | none => s
  | some (g, _) => (s.setFlow { g with positions := g.positions.filter fun q => q.id != id }).retryOffers

/-- Whether an access is a store for the release and for trap entry (R106, R110). -/
def AccessOp.writes : AccessOp → Bool
  | .store _ | .zeroLine | .atom _ _ | .rstore | .ratom _ _ | .mcst | .probe _ => true
  | .load _ _ | .record _ | .rload _ | .fence _ _ => false

/-- The lanes of an access that still wait. -/
def Access.left (a : Access) : Mask := a.lanes &&& ~~~a.done

/-- The accesses of a team that wait: deferred, parked, or with a peer. -/
def State.waitingOf (s : State) (c t : Nat) : List Access :=
  (match s.team? c t with
   | none => []
   | some x => x.queue) ++
  ((s.core c).fbuf.filter fun e => e.2.slot == t).map (fun e => e.2.acc) ++
  (s.txs.filter fun x => x.core == c && x.slot == t && x.release == 0).map fun x => x.acc

/-- Whether an access must be performed, or have entered the buffer, before a position's release (R38, R106, R221). An access of its lanes that
came before the position was taken precedes it whatever they had released by then (R43); one of an item that held the lanes before a `refill` is
not its own. -/
def Position.awaits (q : Position) (a : Access) : Bool :=
  let own := a.left &&& ~~~(maskOf (a.hold.map fun h => h.1))
  a.op.writes && (((if a.order < q.since then own else own &&& ~~~a.after) &&& q.lanes != 0 && decide (q.first ≤ a.order) && decide (a.order < q.limit)) ||
    a.hold.any fun h => h.2 == q.id && a.left.getLsbD h.1)

/-- The accesses of a team's items that wait: those of a trap handler are none of them (R38, R356). -/
def State.itemAccesses (s : State) (c t : Nat) : List Access :=
  (s.waitingOf c t).filter fun a => !a.sys || ((s.team? c t).map Team.formed).getD false

/-- Whether a position's release can be performed: it is the oldest outstanding, its release point is reached and its
own accesses are done (R38). -/
def State.releasable (s : State) (f : FlowRecord) (q : Position) : Bool :=
  q.recorded && !q.barred && !q.sent && q.seq == f.settle.nextr.toNat &&
    (match q.core with
     | none => true
     | some c => !(s.itemAccesses c q.slot).any q.awaits)

end Sys2Proof.Machine
end

