-- ==== Sys2Proof/Machine/Pools.lean ====
section
/-!
DEFINITION. Memory pools (R81-R83), ranges set to zero, range locks (R94-R96), and hardware barriers as state (R146, R147, R233).
-/

namespace Sys2Proof.Machine

/-! Pools as lists of free runs (R81-R83). -/

/-- A run taken from a pool: `n` bytes from the start of one of the runs that fit, by a free choice (R82, log entry 3). -/
def takeRun (pick : Nat) (runs : List (Nat × Nat)) (n : Nat) : Option (Nat × List (Nat × Nat)) :=
  let fit := (List.range runs.length).filter fun i => n ≤ (runs.getD i (0, 0)).2
  match choose pick fit with
  | none => none
  | some i =>
    let r := runs.getD i (0, 0)
    some (r.1, (runs.take i ++ (if r.2 = n then [] else [(r.1 + n, r.2 - n)])) ++ runs.drop (i + 1))

/-- A run returned to a pool, joined with the runs it meets. -/
def giveRun (runs : List (Nat × Nat)) (base n : Nat) : List (Nat × Nat) :=
  match runs with
  | [] => if n = 0 then [] else [(base, n)]
  | r :: rest =>
    if n = 0 then r :: rest
    else if base + n < r.1 then (base, n) :: r :: rest
    else if base + n = r.1 then (base, n + r.2) :: rest
    else if r.1 + r.2 = base then giveRun rest r.1 (r.2 + n)
    else r :: giveRun rest base n

/-- A range of physical memory set to zero, with the poison of the lines it replaces whole (R378). -/
def State.zeroPhys (s : State) (pa n : Nat) : State :=
  { s with
    mem := s.mem.filter fun e => !(decide (pa ≤ e.1) && decide (e.1 < pa + n))
    poisoned := if s.poisoned = [] then [] else s.poisoned.filter fun l => !(wholeLines pa n).contains l }

/-- A range of virtual memory set to zero where it is mapped, with the lines of it that the core's read cache holds dropped (R75, R82, R102). -/
def State.zeroRange (s : State) (w : Who) (a n : Nat) : State :=
  (pagesOf a n).foldl (fun s p => match s.spot w .store 0 p.1 with
    | .memory pa => (s.zeroPhys pa p.2).dropLines w.core w.part pa p.2
    | _ => s) (s.walks w .store a n)

/-- The cached lines of a virtual range dropped from a core's read cache, where it is mapped: a read of the memory that an allocation returns
comes after every write before the `free` that gave it back (R102, R226). -/
def State.dropRange (s : State) (w : Who) (a n : Nat) : State :=
  (pagesOf a n).foldl (fun s p => match s.spot w .load 0 p.1 with
    | .memory pa => s.dropLines w.core w.part pa p.2
    | _ => s) s

/-! Quotas of a core (R148). -/

def State.quota (s : State) (c p : Nat) : Nat := ((s.core c).quota.atD p 0).toNat
def quotaTeams (q : Nat) : Nat := bits q 58 6
def quotaVrf (q : Nat) : Nat := bits q 47 11 * 1024
def quotaUrf (q : Nat) : Nat := bits q 38 9 * 64
def quotaNear (q : Nat) : Nat := bits q 31 7 * 0x100000
def quotaSlots (q : Nat) : Nat := bits q 25 6
def quotaHandles (q : Nat) : Nat := bits q 18 7
def quotaBars (q : Nat) : Nat := bits q 11 7

/-- The bytes that a team's private block takes of a core's slice (R75). -/
def Team.blockIn (x : Team) (c : Nat) : Nat := if sliceOf x.privBase.toNat = c then x.width * x.entry.priv else 0

/-- The teams of a partition that hold a private block: those on cores, with what is left of ended ones, and those that are saved (R75, R387). -/
def State.holders (s : State) (p : Nat) : List Team :=
  (s.cores.flatMap fun k => (k.2.teams.map fun e => e.2).filter fun x => x.part == p && !x.formed) ++
    (s.tickets.filter fun k => k.part == p).map fun k => k.team

/-- Near memory of a core's slice that a partition holds: its live allocations there and its teams' private blocks (R148). -/
def State.nearHeld (s : State) (p c : Nat) : Nat :=
  ((s.part p).live.filter fun a => a.pool != 2 && a.core == c).foldl (fun n a => n + a.len) 0 +
    (s.holders p).foldl (fun n x => n + x.blockIn c) 0

/-! Range locks (R94-R96). -/

/-- Whether a range meets a lock of the partition; `any` takes source locks too (R95, R96). -/
def Core.locked (k : Core) (p : Nat) (any : Bool) (a n : Nat) : Bool :=
  k.locks.any fun e => e.2.part == p && (any || e.2.dst) && overlaps a n e.2.base.toNat e.2.len

/-- Free entries of the range-lock table. -/
def Core.freeLocks (k : Core) : List Nat := freeKeys k.locks 0 64

/-- A range locked in an entry; a range of no bytes registers nothing (R94, R286). -/
def State.lock (s : State) (c i : Nat) (l : Lock) : State := s.onCore c fun k => { k with locks := k.locks.put i l }

/-- A lock released. -/
def State.unlock (s : State) (c i : Nat) : State := s.onCore c fun k => { k with locks := k.locks.del i }

/-- The lock that a handle holds released (R92). -/
def State.unlockHandle (s : State) (c h : Nat) : State :=
  let x := s.handle c h
  if x.lv then (s.unlock c x.lock).setHandle c h { x with lv := false } else s

/-! Barriers (R146, R147, R233): level 0 core, 1 sector, 2 device. -/

def State.bar (s : State) (lvl c i : Nat) : Barrier :=
  if lvl = 0 then (s.core c).bars.atD i {} else if lvl = 1 then (s.sector (sectorOf c)).bars.atD i {} else s.devBars.atD i {}

def State.setBar (s : State) (lvl c i : Nat) (b : Barrier) : State :=
  if lvl = 0 then s.onCore c fun k => { k with bars := k.bars.put i b }
  else if lvl = 1 then s.onSector (sectorOf c) fun k => { k with bars := k.bars.put i b }
  else { s with devBars := s.devBars.put i b }

/-- The number of barriers of a level (R146). -/
def barCount (lvl : Nat) : Nat := if lvl = 0 then 64 else if lvl = 1 then 32 else 16

/-- Whether a splinter of a team, or the team in system mode, waits on a core barrier. -/
def Team.waitsBar (x : Team) (i : Nat) : Bool :=
  x.splinters.any (fun p => p.st == .waiting (.bar i)) || (match x.sys with
    | some y => y.wait == some (.bar i)
    | none => false)

/-- The splinters of a team that wait on a core barrier released; a return clears the team's record (R234). -/
def releaseWaiters (i : Nat) (last : Bool) (x : Team) : Team :=
  if x.waitsBar i then
    { x with
      sys := x.sys.map fun y => if y.wait == some (.bar i) then { y with wait := some (.barDone last) } else y
      splinters := x.splinters.map fun p => if p.st == .waiting (.bar i) then { p with st := .waiting (.barDone last) } else p
      barGen := x.barGen.del i }
  else x

/-- Every waiter of a core's barrier released. Only core barriers have waiters (R147). -/
def State.wakeBar (s : State) (lvl c i : Nat) (last : Bool) : State :=
  if lvl = 0 then s.onCore c fun k => { k with teams := k.teams.map fun e => (e.1, releaseWaiters i last e.2) } else s

/-- Whether a core barrier has waiters. -/
def State.barWaited (s : State) (lvl c i : Nat) : Bool :=
  lvl == 0 && (s.core c).teams.any fun e => e.2.waitsBar i

/-- An arrival of a count with a generation bit (R147, R233). -/
def State.arrive (s : State) (lvl c i count : Nat) (gen : Bool) : State :=
  let b := s.bar lvl c i
  if b.gen != gen then s
  else
    let arr := b.arr.toNat + count
    if b.exp.toNat ≤ arr then
      (s.setBar lvl c i { b with arr := 0, gen := !b.gen, last := false }).wakeBar lvl c i false
    else s.setBar lvl c i { b with arr := BitVec.ofNat 32 arr }

end Sys2Proof.Machine
end

