-- ==== Sys2Proof/Machine/Quadrille.lean ====
section
/-!
DEFINITION. The Quadrille: admission, packing and formation of teams (R45, R46, R134-R138, R146, R148, R149), the end of
items and of teams (R38, R50, R211, R283).
-/

namespace Sys2Proof.Machine

/-! What a core's teams hold. -/

/-- The resident teams of a core, by slot. -/
def Core.resident (k : Core) : List (Nat × Team) := k.teams.filter fun e => decide (e.1 < 32)

/-- Bytes of the vector registers that a team holds alone; a group's shared registers are charged to the group (R51, R59). -/
def EntryRecord.vrfBytes (e : EntryRecord) : Nat := (e.regs - (if e.sv then e.sn + 1 else 0)) * e.width * 4

/-- Bytes of a share group's registers (R59). -/
def ShareGroup.bytes (g : ShareGroup) : Nat := g.count * (32 * (g.wm + 1)) * 4

/-- Whom a team's resources are charged to: its partition, or the runtime as partition 8 for a system item (R75, R360). -/
def Team.pool (x : Team) : Nat := if x.formed then 8 else x.part

/-- Vector-register bytes in use on a core, of one partition or of all. -/
def Core.vrfUsed (k : Core) (of : Nat → Bool) : Nat :=
  k.resident.foldl (fun n e => if of e.2.pool then n + e.2.entry.vrfBytes else n) 0 +
    k.groups.foldl (fun n e => if of e.2.part then n + e.2.bytes else n) 0

/-- Uniform-register bytes in use on a core (R51). -/
def Core.urfUsed (k : Core) (of : Nat → Bool) : Nat :=
  k.resident.foldl (fun n e => if of e.2.pool then n + e.2.entry.wregs * 8 else n) 0

/-- The lanes resident on a core (R15). -/
def Core.lanesUsed (k : Core) : Nat := k.resident.foldl (fun n e => n + e.2.width) 0

/-- The teams of an entry that a core holds for a partition, or for the runtime as partition 8. -/
def Core.teamsOf (k : Core) (p idx : Nat) : Nat := (k.resident.filter fun t => t.2.pool == p && t.2.entryIdx == idx).length

/-- The slots of a claim or of a reserve entry: one, or an aligned pair (R265). -/
def slotsOf (first : Nat) (pair : Bool) : List Nat := if pair then [first, first + 1] else [first]

/-- The operand slots that a team holds or reserves (R265). -/
def Team.slotsHeld (x : Team) : List Nat :=
  (x.reserve.map fun r => slotsOf r.1 r.2).flatten ++
    ((x.tiles.filter fun e => !e.2.reserved).map fun e => slotsOf e.2.first e.2.pair).flatten

/-- The operand slots of a core that no team holds or reserves. -/
def Core.freeSlots (k : Core) : List Nat :=
  let used := (k.teams.map fun e => e.2.slotsHeld).flatten
  (List.range 32).filter fun i => !used.contains i

/-- The operand slots that a partition holds or reserves on a core (R148). -/
def Core.slotsUsed (k : Core) (p : Nat) : Nat :=
  (k.teams.filter fun e => e.2.pool == p).foldl (fun n e => n + e.2.slotsHeld.length) 0

/-- The aligned pairs within a set of slots. -/
def freePairs (free : List Nat) : List Nat := free.filter fun i => i % 2 == 0 && free.contains (i + 1)

/-- A reserve of `n` slots: pairs first, then single slots (R265), those of the lowest numbers (DESIGN CHOICE, log entry 3: the rule names none);
none where it cannot be assigned. -/
def takeReserve (free : List Nat) (n : Nat) : Option (List (Nat × Bool)) :=
  let pairs := (freePairs free).take (n / 2)
  let left := free.filter fun i => !(pairs.contains i || pairs.contains (i - 1) && i % 2 == 1)
  let singles := left.take (n - 2 * pairs.length)
  if singles.length + 2 * pairs.length = n then some (pairs.map (fun i => (i, true)) ++ singles.map fun i => (i, false))
  else none

/-! Resident flows (R41). -/

/-- The flows with an unreleased ordered position on a core. -/
def State.residentFlows (s : State) (c : Nat) : List (Nat × Nat) :=
  (s.flows.filter fun f => f.positions.any fun q => q.core == some c).map fun f => (f.part, f.label)

/-- The resident flows of a core, with the number of its oldest position there (R42). -/
def State.reserves (s : State) (c : Nat) : List (Nat × Nat × Nat) :=
  s.flows.filterMap fun f =>
    (leastBy (fun (a b : Position) => seqBefore a.seq b.seq) (f.positions.filter fun q => q.core == some c)).map fun q => (f.part, f.label, q.id)

/-- Entries of the ordered-store buffer of a core that a position holds. -/
def Core.heldBy (k : Core) (id : Nat) : Nat := (k.osb.filter fun (e : OsEntry) => e.pos == id).length

/-- Entries in the shared space of a core's buffer, where some positions are those that reserves serve: a reserve holds up to 64 entries of
its own (R42). -/
def Core.sharedUsed (k : Core) (olds : List Nat) : Nat := k.osb.length - olds.foldl (fun n id => n + min 64 (k.heldBy id)) 0

/-- Entries of the shared space of a core with some resident flows (R40, R42). -/
def sharedSpace (flows : Nat) : Nat := 2048 - 64 * flows

/-- Whether a core takes an ordered position of a flow, `id` with sequence number `seq`: at most 24 flows are resident, and what would not lie in
a reserve then fits the space that is left (R41, R42, log entry 27). -/
def State.flowFits (s : State) (c p label id seq : Nat) : Bool :=
  let olds := s.reserves c
  match olds.find? fun e => e.1 == p && e.2.1 == label with
  | none => decide (olds.length < 24) && decide ((s.core c).sharedUsed (id :: olds.map fun e => e.2.2) ≤ sharedSpace (olds.length + 1))
  | some e => match s.position e.2.2 with
    | some (_, q) => !seqBefore seq q.seq ||
      decide ((s.core c).sharedUsed (id :: (olds.filter fun o => o != e).map fun o => o.2.2) ≤ sharedSpace olds.length)
    | none => true

/-! Barrier lists (R146). -/

/-- Elements of a barrier list up to the last; none where it cannot be read or is malformed (log entry 16). -/
def State.barListFrom (s : State) (p : Nat) : Nat → Nat → Option (List (Nat × Nat × Nat))
  | 0, _ => none
  | f + 1, a => match s.readRange (deviceWho 0 p) a 8 with
    | none => none
    | some bs =>
      let v := leNat bs
      let lvl := bits v 62 2
      let idx := bits v 56 6
      if lvl = 3 || bits v 33 23 != 0 || bits v 0 32 == 0 || barCount lvl ≤ idx then none
      else if bits v 32 1 = 1 then some [(lvl, idx, bits v 0 32)]
      else (s.barListFrom p f (a + 8)).map fun r => (lvl, idx, bits v 0 32) :: r

/-- The walks of the device's reads of a barrier list, element by element as far as it is read (R410). -/
def State.walkBarsFrom (s : State) (p : Nat) : Nat → Nat → State
  | 0, _ => s
  | f + 1, a =>
    let t := s.walks (deviceWho 0 p) .load a 8
    match s.barListFrom p 1 a with
    | some _ => t
    | none => if (s.readRange (deviceWho 0 p) a 8).isSome then t.walkBarsFrom p f (a + 8) else t

/-- The walks of the reads of an entry's barrier list (R410). -/
def State.walkBars (s : State) (p : Nat) (e : EntryRecord) : State := if e.barl = 0 then s else s.walkBarsFrom p 112 e.barl.toNat

/-- The barrier list of an entry. DESIGN CHOICE: a list of more than 112 elements, the number of barriers around a core, counts as one that
cannot be read (log entry 16). -/
def State.barList (s : State) (p : Nat) (e : EntryRecord) : Option (List (Nat × Nat × Nat)) :=
  if e.barl = 0 then some [] else s.barListFrom p 112 e.barl.toNat

/-- The cores at a level around a core. -/
def coresAt (lvl c : Nat) : List Nat :=
  if lvl = 0 then [c] else if lvl = 1 then List.range' (16 * sectorOf c) 16 else List.range 256

/-- Whether a team of an entry and partition is resident at a level around a core. -/
def State.entryResident (s : State) (lvl c p idx : Nat) : Bool :=
  (s.cores.filter fun e => (coresAt lvl c).contains e.1).any fun e =>
    e.2.teamsOf p idx != 0

/-- Whether the barriers of a list admit a team: none is owned by another entry, and the quota suffices (R146, R148). -/
def State.barsAdmit (s : State) (c p idx : Nat) (bl : List (Nat × Nat × Nat)) : Bool :=
  bl.all (fun b =>
    let x := s.bar b.1 c b.2.1
    !x.owned || (x.entry == idx && x.part == p)) &&
  (p == 8 || decide ((((s.core c).bars.filter fun e => e.2.owned && e.2.part == p).length +
    (bl.filter fun b => b.1 == 0 && !(s.bar 0 c b.2.1).owned).length) ≤ quotaBars (s.quota c p)))

/-- The barriers of a list taken by the first team of its entry at their level (R146). -/
def State.takeBars (s : State) (c p idx : Nat) (bl : List (Nat × Nat × Nat)) : State :=
  bl.foldl (fun s b =>
    if s.entryResident b.1 c p idx then s
    else s.setBar b.1 c b.2.1 { s.bar b.1 c b.2.1 with
      exp := BitVec.ofNat 32 b.2.2, arr := 0, gen := false, owned := true, entry := idx, part := p }) s

/-! Admission (R138). -/

/-- Whether a partition's remaining energy lets an item start (R149). -/
def Partition.energyOk (p : Partition) (e : EntryRecord) : Bool :=
  p.ebudget == 0 || decide ((e.energy : Int) ≤ p.energyLeft) || p.energyLeft == (p.ebudget * 1000 : Nat)

/-- An item's start deducts its energy (R149); a budget of 0 deducts nothing. -/
def State.spend (s : State) (p : Nat) (e : EntryRecord) : State :=
  s.onPart p fun x => if x.ebudget = 0 then x else { x with energyLeft := x.energyLeft - e.energy }

/-- Whether a queued item may start as far as its partition, its flow and its energy go (R41, R137, R149, R360). -/
def State.itemAdmitted (s : State) (c : Nat) (e : EntryRecord) (q : QItem) : Bool :=
  (q.part == 8 || ((s.part q.part).en && !(s.part q.part).preempted && (s.part q.part).energyOk e)) &&
    (q.record.cls != 1 || s.flowFits c q.part q.record.flow q.pos q.seq)

/-- Whether a live group admits a team of an entry (R59). -/
def Core.groupAdmits (k : Core) (p : Nat) (e : EntryRecord) : Bool :=
  !e.sv || (match k.groups.at? e.sg with
    | none => true
    | some g => g.part == p && g.first == e.sb && g.count == e.sn + 1 && g.wm == e.wm)

/-- Vector-register bytes that a new team takes: its own, and its group's where the group is not live yet. -/
def Core.vrfNeed (k : Core) (e : EntryRecord) : Nat :=
  e.vrfBytes + (if e.sv && (k.groups.at? e.sg).isNone then (e.sn + 1) * e.width * 4 else 0)

/-- Whether a core admits a new team of an entry (R15, R138, R148); a system item is charged to no quota (R360). -/
def State.teamAdmitted (s : State) (c p idx : Nat) (e : EntryRecord) : Bool :=
  let k := s.core c
  let q := s.quota c p
  let here (n : Nat) : Bool := n == p
  !(freeKeys k.teams 0 32).isEmpty && decide (k.lanesUsed + e.width ≤ 16384) &&
  decide (k.vrfUsed (fun _ => true) + k.vrfNeed e ≤ 0x100000) && decide (k.urfUsed (fun _ => true) + e.wregs * 8 ≤ 0x4000) &&
  (takeReserve k.freeSlots e.slots).isSome && k.groupAdmits p e &&
  (e.priv == 0 || (takeRun 0 ((s.part p).privRuns.atD c []) (e.width * e.priv)).isSome) &&
  (e.tmax == 0 || decide (k.teamsOf p idx < e.tmax)) &&
  (match s.barList p e with
   | none => false
   | some bl => s.barsAdmit c p idx bl) &&
  (p == 8 ||
    (decide ((k.resident.filter fun t => t.2.pool == p).length < quotaTeams q) &&
     decide (k.vrfUsed here + k.vrfNeed e ≤ quotaVrf q) && decide (k.urfUsed here + e.wregs * 8 ≤ quotaUrf q) &&
     decide (s.nearHeld p c + e.width * e.priv ≤ quotaNear q) && decide (k.slotsUsed p + e.slots ≤ quotaSlots q)))

/-! Packing (R45). -/

/-- Whether lanes are free in the open part of a team. -/
def placeFree (used opened : Mask) (lane0 n : Nat) : Bool :=
  let m := laneRange lane0 n
  m &&& used == 0 && m &&& ~~~opened == 0

/-- The lowest free place of an item of a width code in the open lanes of a team of W lanes (R45). -/
def lowestPlace (used opened : Mask) (w width : Nat) : Option Nat :=
  let n := widthLanes width
  ((List.range (w / n)).map fun i => i * n).find? fun l => placeFree used opened l n

/-- The items that a team takes from a queue, in queue order, each at its lowest free place; the rest stay (R45, R138). A
system item is packed alone (R360). -/
def State.packItems (s : State) (c : Nat) (e : EntryRecord) (lead : QItem) (room : Nat) (used opened : Mask) :
    List QItem → State × List (QItem × Nat) × List QItem
  | [] => (s, [], [])
  | q :: qs =>
    let same := q.part == lead.part && q.record.entry == lead.record.entry && q.record.width == lead.record.width
    if room = 0 || !same || !s.itemAdmitted c e q then
      let (s, ps, rest) := s.packItems c e lead room used opened qs
      (s, ps, q :: rest)
    else match lowestPlace used opened e.width q.record.width with
      | none =>
        let (s, ps, rest) := s.packItems c e lead room used opened qs
        (s, ps, q :: rest)
      | some l =>
        let s := if q.part = 8 then s else s.spend q.part e
        let s := if q.record.cls = 1 then
            s.onPosition q.pos fun x => { x with core := some c }
          else s
        let (s, ps, rest) := s.packItems c e lead (room - 1) (used ||| laneRange l (widthLanes q.record.width)) opened qs
        (s, (q, l) :: ps, rest)

/-! Starting items (R30). -/

/-- The item of a team for a packed record (R390). -/
def packedItem (q : QItem) (l : Nat) : Item :=
  { part := q.part, pos := q.pos, flow := q.record.flow, seq := q.seq, entry := q.record.entry, lane0 := l, width := q.record.width, cls := q.record.cls
    tok := q.record.cls == 2 }

/-- The lanes of packed items. -/
def packedLanes (ps : List (QItem × Nat)) : Mask :=
  ps.foldl (fun m p => m ||| laneRange p.2 (widthLanes p.1.record.width)) 0

/-- Argument word `k` on the lanes of packed items (R30). -/
def argLanes (ps : List (QItem × Nat)) (k : Nat) (m : SMap W32) : SMap W32 :=
  ps.foldl (fun m p =>
    (List.range' p.2 (widthLanes p.1.record.width)).foldl (fun m l => SMap.store 0 m l (p.1.record.args.getD k 0)) m) m

/-- A register of a new team that holds an argument word: uniform where every lane holds the same word (R30, R57). -/
def argReg (ps : List (QItem × Nat)) (k : Nat) : VReg :=
  let v := (ps.head?.map fun p => p.1.record.args.getD k 0).getD 0
  if ps.all fun p => p.1.record.args.getD k 0 == v then { uni := v } else { st := .perLane, lanes := argLanes ps k [] }

/-- The positions of packed ordered items are told their slot and lanes, and from which order number on accesses are their own (R38). -/
def State.placePositions (s : State) (t first : Nat) (ps : List (QItem × Nat)) : State :=
  ps.foldl (fun s p =>
    if p.1.record.cls = 1 then
      s.onPosition p.1.pos fun x =>
        { x with slot := t, lanes := laneRange p.2 (widthLanes p.1.record.width), first := first }
    else s) s

/-- The private memory of packed lanes set to zero (R75). -/
def State.zeroLanes (s : State) (c p : Nat) (e : EntryRecord) (base : Nat) (ps : List (QItem × Nat)) : State :=
  if e.priv = 0 then s
  else ps.foldl (fun s q =>
    s.zeroRange { deviceWho c p with block := if p = 8 then { first := base, len := e.width * e.priv } else {} } (base + q.2 * e.priv) (widthLanes q.1.record.width * e.priv)) s

/-- The share group of a new team joined or allocated (R59). -/
def Core.joinGroup (k : Core) (p : Nat) (e : EntryRecord) : Core :=
  if !e.sv then k
  else match k.groups.at? e.sg with
    | some g => { k with groups := k.groups.put e.sg { g with members := g.members + 1 } }
    | none => { k with groups := k.groups.put e.sg { part := p, first := e.sb, count := e.sn + 1, wm := e.wm, members := 1 } }

/-- A team formed for packed items of an entry on a core that admits it (R30, R138, R360). -/
def State.formTeam (s : State) (c : Nat) (lead : QItem) (e : EntryRecord) (ps : List (QItem × Nat)) : State :=
  let p := lead.part
  let k := s.core c
  let t := (choose s.fresh (freeKeys k.teams 0 32)).getD 0
  let runs := (s.part p).privRuns.atD c []
  let (base, runs) := if e.priv = 0 then (0, runs) else (takeRun s.fresh runs (e.width * e.priv)).getD (0, runs)
  let s := if e.priv = 0 then s else s.onPart p fun x => { x with privRuns := x.privRuns.put c runs }
  let s := s.takeBars c p lead.record.entry ((s.barList p e).getD [])
  let lanes := packedLanes ps
  let x : Team :=
    { part := p % 8, entryIdx := lead.record.entry, entry := e, age := s.fresh, quarter := Config.pick s.fresh % 4
      vregs := ((List.range 12).map fun n => (n, argReg ps n)).filter fun r => r.2 != {}
      items := ps.map fun q => packedItem q.1 q.2
      splinters := if p = 8 then [] else [{ pc := e.code, mask := lanes }]
      privBase := BitVec.ofNat 64 base, reserve := (takeReserve k.freeSlots e.slots).getD []
      sys := if p = 8 then some { formed := true, pc := e.code } else none, lastIssue := s.clock }
  let s := { ((s.discardLines c (p % 8) .dev).onCore c fun k => { k.joinGroup p e with last := k.last.filter fun r => r.2 != t }) with
    fresh := s.fresh + 1 }
  (((s.setTeam c t x).placePositions t 0 ps).zeroLanes c p e base ps)

/-! Discarding (R135). -/

/-- An item discarded at formation: its position is released, its token returned, and a report raised (R135). INFO of the report is the entry
number: R407 has it as CODE gives, and no rule gives it (DESIGN CHOICE, log entry 14). -/
def State.discardItem (s : State) (c : Nat) (q : QItem) : State :=
  let s := s.raise 0x0001 c (if q.part = 8 then none else some q.part) (BitVec.ofNat 64 q.record.entry) 0
  if q.record.cls = 1 then s.onPosition q.pos fun x => { x with recorded := true }
  else if q.record.cls = 2 then s.returnToken q.part q.record.flow
  else s

/-- The entry of a queued item read at formation, where it is valid and its width still fits (R135). -/
def State.entryNow (s : State) (q : QItem) : Option EntryRecord :=
  match s.entry? q.part q.record.entry with
  | none => none
  | some e => if widthOk q.record.width e then some e else none

/-- The oldest item of a queue that a new team may be formed from, with the items before it; items of an invalid entry are
discarded on the way, those of a pre-empted partition are passed over (R135, R137, R138). -/
def State.findLead (s : State) (c : Nat) : List QItem → List QItem → State × Option (QItem × EntryRecord) × List QItem
  | kept, [] => (s, none, kept)
  | kept, q :: qs =>
    if q.part != 8 && (!(s.part q.part).en || (s.part q.part).preempted) then s.findLead c (kept ++ [q]) qs
    else
      let s := s.walkEntry q.part q.record.entry
      match s.entryNow q with
      | none => (s.discardItem c q).findLead c kept qs
      | some e =>
        let s := s.walkBars q.part e
        if s.itemAdmitted c e q && s.teamAdmitted c q.part q.record.entry e then (s, some (q, e), kept ++ q :: qs)
        else s.findLead c (kept ++ [q]) qs

/-- A core's queue, which held `n` items, with what is left of them; an item whose token has come since a discard stands behind them (R37, R135). -/
def State.leftQueued (s : State) (c n : Nat) (left : List QItem) : State :=
  s.onCore c fun k => { k with items := left ++ k.items.drop n }

/-- A team formed from a core's queue, from the oldest item that is admitted (R138); without one, nothing but discards. -/
def State.form (s : State) (c : Nat) : State :=
  let n := (s.core c).items.length
  match s.findLead c [] (s.core c).items with
  | (s, none, kept) => s.leftQueued c n kept
  | (s, some (q, e), kept) =>
    let opened := laneRange 0 e.width
    let (before, from_) := kept.span fun r => !(r.part == q.part && r.record.flow == q.record.flow && r.seq == q.seq && r.record == q.record)
    let (s, ps, rest) := s.packItems c e q (if q.part = 8 then 1 else 1024) 0 opened from_
    (s.leftQueued c n (before ++ rest)).formTeam c q e ps

/-- Whether a core's queue holds an item that a new team may be formed from. -/
def State.formable (s : State) (c : Nat) : Bool :=
  (s.findLead c [] (s.core c).items).2.1.isSome

/-! Refill (R46, R58, R212). -/

/-- A register of a team after new lanes are packed: they read their argument word, or zero (R46, R58). -/
def refillReg (ps : List (QItem × Nat)) (new : Mask) (n : Nat) (r : VReg) : VReg :=
  let clear (m : SMap W32) : SMap W32 := m.filter fun e => !new.getLsbD e.1
  let arg (m : SMap W32) : SMap W32 := if n < 12 then argLanes ps n (clear m) else clear m
  let pois := r.pois.filter fun e => !new.getLsbD e.1
  match r.st with
  | .perLane => { r with lanes := arg r.lanes, pois := pois }
  | .symbolic => { r with lanes := arg r.lanes, pois := pois, alone := r.alone ||| new }
  | .uniform =>
    if n < 12 && !(ps.all fun p => p.1.record.args.getD n 0 == r.uni) || (12 ≤ n && r.uni != 0) then
      let all := (List.range 1024).foldl (fun m l => SMap.store 0 m l r.uni) []
      { r with st := .perLane, uni := 0, lanes := arg all, pois := pois }
    else { r with pois := pois }

/-- The lanes of a team's wholly empty mask words (R46). -/
def Team.openLanes (x : Team) : Mask :=
  let live := x.live
  ((List.range (x.width / 32)).filter fun w => maskWord live w == 0).foldl (fun m w => m ||| laneRange (32 * w) 32) 0

/-- Queued items whose entry has become invalid discarded, among those of a team's entry (R135, R410). -/
def State.dropInvalid (s : State) (c p idx : Nat) : List QItem → List QItem → State × List QItem
  | kept, [] => (s, kept)
  | kept, q :: qs =>
    if q.part = p && q.record.entry = idx && (s.part p).en && !(s.part p).preempted then
      let s := s.walkEntry p idx
      if (s.entryNow q).isNone then (s.discardItem c q).dropInvalid c p idx kept qs else s.dropInvalid c p idx (kept ++ [q]) qs
    else s.dropInvalid c p idx (kept ++ [q]) qs

/-- New items of a team's entry and width code packed into its wholly empty mask words; their lanes join a splinter (R46,
R212). Shared registers stay as they are: R58 and R30 have the new lanes of the team's other registers read zero, and no rule says so of a
group's, which other teams hold too (DESIGN CHOICE, log entry 63). -/
def State.refill (s : State) (c t n : Nat) : State :=
  match s.team? c t with
  | none => s
  | some x =>
    let held := (s.core c).items.length
    let (s, queue) := s.dropInvalid c x.part x.entryIdx [] (s.core c).items
    let lead : QItem := { part := x.part, record := { entry := x.entryIdx, width := (x.items.headD {}).width } }
    let (s, ps, rest) := s.packItems c x.entry lead 1024 0 x.openLanes queue
    let s := s.leftQueued c held rest
    if ps = [] then s
    else
      let new := packedLanes ps
      let regs := (List.range x.entry.regs).foldl (fun (m : SMap VReg) r =>
        if x.entry.sv && x.entry.sb ≤ r && r ≤ x.entry.sb + x.entry.sn then m
        else m.store {} r (refillReg ps new r (m.atD r {}))) x.vregs
      let x := { x with
        vregs := regs
        preds := x.preds.map fun e => (e.1, e.2 &&& ~~~new)
        joins := x.joins.map fun e => (e.1, e.2 &&& ~~~new)
        released := x.released &&& ~~~new
        items := x.items.filter (fun i => !i.ended) ++ ps.map fun q => { packedItem q.1 q.2 with since := x.orderCtr }
        splinters := modAt (fun p => { p with mask := p.mask ||| new }) x.splinters n }
      (((s.discardLines c x.part .dev).setTeam c t x).placePositions t x.orderCtr ps).zeroLanes c x.part x.entry x.privBase.toNat ps

/-! The end of items and of teams (R38, R46, R50, R211). -/

/-- Whether an item's lanes have all recorded their release or left (R38). -/
def Team.releasedAll (x : Team) (i : Item) : Bool := i.mask &&& x.live &&& ~~~x.released == 0

/-- The positions of an item that has exited, told that its lanes are no longer its own (R39). -/
def State.forget (s : State) (c t : Nat) (m : Mask) : State :=
  let gone (q : Position) : Position :=
    if q.core = some c && q.slot = t && q.lanes &&& m != 0 then { q with gone := true } else q
  { s with flows := s.flows.map fun f => { f with positions := f.positions.map gone } }

/-- An item whose lanes have all left, or whose ordered position has reached its release point, settled (R38, R50). -/
def State.settleItem (s : State) (c t : Nat) (i : Item) : State :=
  match s.team? c t with
  | none => s
  | some x =>
    let s := if i.cls = 1 && x.releasedAll i then
        s.onPosition i.pos fun q =>
          if q.recorded then q else { q with recorded := true, limit := x.orderCtr }
      else s
    if i.mask &&& x.live = 0 then
      let s := s.forget c t i.mask
      let s := if i.tok then s.returnToken i.part i.flow else s
      s.onTeam c t fun x => { x with items := x.items.map fun j => if j == i then { j with ended := true, tok := false } else j }
    else s

/-- Every item of a team settled. -/
def State.settleItems (s : State) (c t : Nat) : State :=
  match s.team? c t with
  | none => s
  | some x => (x.items.filter fun i => !i.ended).foldl (fun s i => s.settleItem c t i) s

/-- The barriers that an entry owned freed, where its last team at their level has ended (R146). A team that a handler has saved counts no
more, as it is on no core (DEDUCED, log entry 16). -/
def State.freeBars (s : State) (c p idx : Nat) : State :=
  let clear (lvl : Nat) (m : SMap Barrier) : SMap Barrier :=
    if s.entryResident lvl c p idx then m
    else m.map fun e => if e.2.owned && e.2.part == p && e.2.entry == idx then (e.1, { e.2 with owned := false }) else e
  let s' := s.onCore c fun k => { k with bars := clear 0 k.bars }
  let s' := s'.onSector (sectorOf c) fun k => { k with bars := clear 1 k.bars }
  { s' with devBars := clear 2 s'.devBars }

/-- A group that a member leaves; it is freed with its last member (R59). -/
def Core.leaveGroup (k : Core) (e : EntryRecord) : Core :=
  if !e.sv then k
  else match k.groups.at? e.sg with
    | none => k
    | some g =>
      { k with groups := if g.members ≤ 1 then k.groups.del e.sg else k.groups.put e.sg { g with members := g.members - 1 } }

/-- A private block returned to the pool that it came from: that of the slice in which it lies (R75). -/
def State.returnPrivate (s : State) (p : Nat) (e : EntryRecord) (base : Nat) : State :=
  let c := sliceOf base
  if e.priv = 0 then s
  else s.onPart p fun x => { x with privRuns := x.privRuns.put c (giveRun (x.privRuns.atD c []) base (e.width * e.priv)) }

/-- A team's private block returned. -/
def State.returnBlock (s : State) (x : Team) : State := s.returnPrivate x.pool x.entry x.privBase.toNat

/-- Whether something of a team still waits: accesses, values, tensor operations. -/
def State.busy (s : State) (c t : Nat) : Bool :=
  !(s.waitingOf c t).isEmpty || (s.core c).tq.any (fun o => o.slot == t) || (s.core c).syms.any fun e => e.2.slot == t

/-- A slot number replaced wherever the core's accesses and operations name it. -/
def Core.reslot (k : Core) (t u : Nat) : Core :=
  { k with
    syms := k.syms.map fun e => if e.2.slot = t then (e.1, { e.2 with slot := u }) else e
    fbuf := k.fbuf.map fun e => if e.2.slot = t then (e.1, { e.2 with slot := u }) else e
    tq := k.tq.map fun o => if o.slot = t then { o with slot := u } else o }

/-- The accesses and operations of an ended team moved to a key that no slot has, until they are over (R211, R283). -/
def State.ghost (s : State) (c t : Nat) (x : Team) : State :=
  let u := ((freeKeys (s.core c).teams 32 4096).filter fun k => k % 32 == t).headD (t + 32)
  let s := s.onCore c fun k => { (k.reslot t u) with teams := (k.teams.del t).put u { x with splinters := [], sys := if x.formed then x.sys else none, pend := [], trap := none } }
  { s with
    txs := s.txs.map fun x => if x.core = c && x.slot = t then { x with slot := u } else x
    flows := s.flows.map fun f =>
      { f with positions := f.positions.map fun q => if q.core = some c && q.slot = t then { q with slot := u } else q } }

/-- The claims, the reserve and the accumulators of an ended team released, once its tensor operations have run to their end, whatever
else of it still waits (R270, R283). -/
def State.freeTensor (s : State) (c t : Nat) : State :=
  match s.team? c t with
  | none => s
  | some x =>
    if (s.core c).tq.any fun o => o.slot == t then s
    else
      (s.onCore c fun k => { k with accs := k.accs.filter fun e => !(x.accs.any fun a => a.2 == e.1) }).setTeam c t
        { x with tiles := [], accs := [], reserve := [] }

/-- An ended team forgotten, once nothing of it waits (R75, R283). -/
def State.sweep (s : State) (c t : Nat) : State :=
  if t < 32 then s
  else
    let s := s.freeTensor c t
    if s.busy c t then s
    else match s.team? c t with
      | none => s
      | some x => (s.returnBlock x).closeTeam c t

/-- A team ends: its slot and registers are freed at once; what it has issued runs on (R46, R211, R283). DESIGN CHOICE: the flags of batches
that no `mwait` of the team has returned go with it; the spec does not say whether they reach FLAGS (log entry 34). -/
def State.endTeam (s : State) (c t : Nat) : State :=
  let s := s.freeTensor c t
  match s.team? c t with
  | none => s
  | some x =>
    let s := if s.busy c t then s.ghost c t x
      else (s.returnBlock x).closeTeam c t
    (s.onCore c fun k => k.leaveGroup x.entry).freeBars c x.pool x.entryIdx

end Sys2Proof.Machine
end

