-- ==== Sys2Proof/Machine/Term.lean ====
section
/-!
DEFINITION. Poison consumption (R380), the termination of a partition (R381, R382), the warm restart (R383) and the launch of
system entry 0 (R402).
-/

namespace Sys2Proof.Machine

/-! Termination (R381). -/

/-- What a core keeps of a partition that is terminated: teams in system mode, marked to end at their `sret` (R382), without
their frozen accesses. -/
def Core.terminate (k : Core) (p : Nat) : Core :=
  let gone := (k.teams.filter fun e => e.2.part == p && !e.2.formed).map fun e => e.1
  { k with
    teams := (k.teams.filter fun e => !(gone.contains e.1) || (e.2.inSys && decide (e.1 < 32))).map fun e =>
      if gone.contains e.1 then
        (e.1, { e.2 with dead := true, queue := e.2.queue.filter (fun a => a.sys), pend := [], tiles := [], accs := [] })
      else e
    syms := k.syms.filter fun e => !(gone.contains e.2.slot) || e.2.sys
    fbuf := k.fbuf.filter fun e => !(gone.contains e.2.slot)
    accs := k.accs.filter fun e => !((k.teams.filter fun t => gone.contains t.1).any fun t => t.2.accs.any fun a => a.2 == e.1)
    handles := k.handles.map fun e =>
      if e.2.alloc && e.2.part == p then (e.1, { e.2 with st := .free, lv := false, posted := false, sst := 0, sending := {} }) else e
    locks := k.locks.filter fun e => e.2.part != p
    osb := k.osb.filter fun e => e.part != p
    groups := k.groups.filter fun e => e.2.part != p
    bars := k.bars.map fun e => if e.2.part == p then (e.1, { e.2 with owned := false }) else e
    tq := k.tq.filter fun o => o.part != p
    items := k.items.filter fun q => q.part != p
    cutIn := k.cutIn.map fun a => { a with items := a.items.filter fun q => q.part != p } }

/-- The private blocks of a partition's teams, saved ones among them, returned to their pools; a team in system mode holds its block until it
ends (R75, R381, R382). -/
def State.freePrivates (s : State) (p : Nat) : State := ((s.holders p).filter fun x => !x.inSys).foldl State.returnBlock s

/-- The refusal notices to the senders of a partition's requests (R306, R381). -/
def State.refuseAll (s : State) (p : Nat) : State :=
  ((s.part p).requests ++ (s.part p).savedRequests).foldl (fun s r =>
    s.sendVia p r.ue r.sdev fun port => .notice (r.sender s.devid.toNat) p port r.score r.sh false) s

/-- The termination of a partition, as far as it concerns the partition's own state. -/
def State.endPartition (s : State) (p : Nat) : State :=
  let s := s.freePrivates p
  let s := s.refuseAll p
  let slots := (s.cores.map fun e => (e.2.teams.filter fun t => t.2.part == p && !t.2.formed).map fun t => (e.1, t.1)).flatten
  let s : State := { s with
    cores := s.cores.map fun e => (e.1, e.2.terminate p)
    sectors := s.sectors.map fun e => (e.1, { e.2 with
      bars := e.2.bars.map fun b => if b.2.part == p then (b.1, { b.2 with owned := false }) else b
      copies := e.2.copies.filter fun x => x.part != p
      jobs := e.2.jobs.filter fun x => x.part != p
      offered := e.2.offered.filter fun x => x.part != p })
    devBars := s.devBars.map fun b => if b.2.part == p then (b.1, { b.2 with owned := false }) else b
    parkedItems := (s.parkedItems.map fun e => (e.1, e.2.filter fun q => q.part != p)).filter fun e => e.2 != []
    offers := s.offers.filter fun q => q.part != p
    heap := s.heap.filter fun h => h.part != p
    flows := s.flows.filter fun f => f.part != p
    tickets := s.tickets.filter fun k => k.part != p
    txs := s.txs.filter fun x => !(slots.contains (x.core, x.slot)) || x.acc.sys }
  s.onPart p fun x => { x with requests := [], savedRequests := [], preempted := false, saver := none, callerSaved := false }

/-- The runtime's termination item (R381). -/
def terminationItem (p : Nat) : ItemRecord := { entry := 1, args := BitVec.ofNat 32 p :: List.replicate 11 0 }

/-- A partition terminated: its state goes, a report is raised and the termination item is enqueued (R381). -/
def State.terminate (s : State) (p : Nat) : State :=
  ((s.endPartition p).raise 0x0007 0 (some p) 0 0).offer (terminationItem p) 8

/-! Launch, warm restart and reset (R383, R400, R402). -/

/-- System entry 0 started as at first launch; a refused record fails the launch with a report (R29, R360, R402). DEDUCED: the report's code is
0x0001, since R407 names R29 beside it, although R29 speaks of 'the same error report' as an arrival's, which is 0x0005 (log entry 14). -/
def State.launch (s : State) : State :=
  let r : ItemRecord := { args := List.replicate 12 0 }
  let s := s.walkEntry 8 0
  if s.itemOk r true false true 8 then s.offer r 8 else s.raise 0x0001 0 none 0 0

/-- The device reset as at power-on; the agenda, what has left the device and the counter of free choices are no state of
the device (R400, log entries 1 and 3). -/
def State.powerOnReset (s : State) : State :=
  { State.reset with agenda := s.agenda, fresh := s.fresh, out := s.out, mgmt := s.mgmt }

/-- Every team in system mode ended (R383): the teams formed in system mode, and those of ended partitions. Held fault records stay (R88). -/
def Core.endSystem (k : Core) : Core :=
  { k with
    teams := [], syms := [], fbuf := [], accs := [], groups := [], tq := [], locks := []
    items := [], cutIn := none, osb := [], last := [], accReqs := [] }

/-- The measurement of the firmware in the attestation log (R383, R403). -/
def State.measurement (s : State) : Option (BitVec 512) :=
  (s.attLog.find? fun e => e.kind == 2).map fun e => e.digest

/-- The warm restart (R383); a halted device stays halted (R377). The digest is taken over the firmware's body in near memory (log entry 8). -/
def State.warmRestart (s : State) : State :=
  if s.power == .halted then s
  else
  let s := (List.range 8).foldl State.endPartition s
  let s := (s.cores.flatMap fun e => e.2.teams.map fun t => t.2).foldl State.returnBlock s
  let s : State := { s with
    cores := s.cores.map fun e => (e.1, e.2.endSystem)
    sectors := s.sectors.map fun e => (e.1, { e.2 with copies := [], jobs := [], offered := [] })
    parkedItems := [], offers := [], flows := [], tickets := [], txs := [], tlb := [], loads := [], mcasts := [], walked := [] }
  let s := s.raise 0x000C 0 none 0 0
  let digest := Config.sha3 (s.bytes s.fwLoad s.fwLen)
  if s.measurement = some digest && s.attLog.length < 64 then
    let e : LogEntry := { digest := digest, kind := 3, clock := s.clock }
    State.launch { s with attLog := s.attLog ++ [e] }
  else s.powerOnReset

/-! Consumption (R380). -/

/-- Memory poison of a tag consumed: its partition is terminated, or the device restarts (R380). -/
def State.consume (s : State) (sys : Bool) (tag : Nat) : State :=
  if sys || 8 ≤ tag then s.warmRestart else s.terminate tag

/-- The poison consumed that walks of the device itself have read in this turn (R410, log entry 12). -/
def State.repay (s : State) : State :=
  if s.walked = [] then s
  else s.walked.foldl (fun s t => s.consume false t) { s with walked := [] }

/-- Several tags consumed in turn; nothing follows a restart. -/
def State.consumeAll (s : State) (sys : Bool) : List Nat → State
  | [] => s
  | t :: ts => if sys || 8 ≤ t then s.warmRestart else (s.terminate t).consumeAll sys ts

end Sys2Proof.Machine
end

