-- ==== Sys2Proof/Machine/Fetch.lean ====
section
/-!
DEFINITION. Instruction fetch: words, groups with their hints (R178-R182), and the order in which a team's splinters and a
quarter's teams issue (R47, R140).
-/

namespace Sys2Proof.Machine

/-- Whether the device runs items (R377, R400). -/
def State.runs (s : State) : Bool := s.power == .run

/-- Whether a core issues instructions: every core in RUN; in STAGE1 core 0, on which stage one runs (R377, R400). -/
def State.issues (s : State) (c : Nat) : Bool := s.runs || (s.power == .stage1 && c == 0)

/-! Fetch (R76, R87, R358, R410). -/

/-- What the fetch of a word finds. -/
inductive Fetched where
  | word (w : BitVec 32)
  | fault (c : FaultCause)
  | form
  | table (tag : Nat)
  | poison (tag : Nat)
  deriving DecidableEq, Repr

/-- The private block of a team formed for a system item (R75). -/
def Team.block (x : Team) : Block := if x.formed then { first := x.privBase.toNat, len := x.width * x.entry.priv } else {}

/-- A team's view of memory, in or outside system mode (R75, R358). -/
def Team.who (x : Team) (c : Nat) (sys : Bool) : Who :=
  { core := c, part := if sys then x.actPart else x.part, sys := sys, block := x.block, privAt := x.privBase.toNat, priv := x.entry.priv }

/-- A team's view of memory for an access of its own: the partition is that of its issue (R358). -/
def Team.whoOf (x : Team) (c : Nat) (a : Access) : Who := { x.who c a.sys with part := a.part }

/-- A word fetched; through the private window the alias of one lane is taken (log entry 19). -/
def State.fetchWord (s : State) (w : Who) (lane a : Nat) : Fetched :=
  match s.target w .fetch lane a 4 with
  | .form | .peer _ _ | .cross _ _ => .form
  | .table ts => .table (ts.headD 8)
  | .fault c => .fault c
  | .memory ps => match s.badPart ps with
    | some t => .poison t
    | none => .word (BitVec.ofNat 32 (leNat (s.readParts ps)))

/-- What the fetch of a group finds: a group, an illegal one with its length, or a word of it that does not come. -/
inductive GroupFetch where
  | group (h : Hints) (i : Instr) (len : Nat) (w : BitVec 32)
  | illegal (len : Nat)
  | stuck (addr : Nat) (f : Fetched)
  deriving DecidableEq, Repr

/-- The words of a group that hold a hint which makes it illegal: its hints up to the first word that is none (R178, R185). -/
def State.fetchRest (s : State) (w : Who) (lane : Nat) : Nat → Nat → Nat → GroupFetch
  | 0, len, _ => .illegal len
  | f + 1, len, a => match s.fetchWord w lane a with
    | .word x => if isHint x then s.fetchRest w lane f (len + 1) ((a + 4) % 2 ^ 64) else .illegal (len + 1)
    | r => .stuck a r

/-- A group fetched from an address on: hints up to the first word that is none (R178, R183, R185). -/
def State.fetchGroup (s : State) (w : Who) (lane : Nat) : Nat → Hints → Nat → Nat → GroupFetch
  | 0, _, len, _ => .illegal len
  | f + 1, h, len, a => match s.fetchWord w lane a with
    | .word x =>
      if isHint x then
        match (hintOf x).bind h.add with
        | none => s.fetchRest w lane f (len + 1) ((a + 4) % 2 ^ 64)
        | some h => s.fetchGroup w lane f h (len + 1) ((a + 4) % 2 ^ 64)
      else match decodeWord x with
        | none => .illegal (len + 1)
        | some (.dictionaryWord hi lo) => if len = 0 then .group h (.dictionaryWord hi lo) 1 x else .illegal (len + 1)
        | some i => .group h i (len + 1) x
    | r => .stuck a r

/-- The words from an address up to one that lies behind it. -/
def wordsTo (a b : Nat) : Nat := (b + 2 ^ 64 - a) % 2 ^ 64 / 4

/-- The length of the group at an address, up to the word that cannot be read where one cannot (R365, log entry 20). -/
def State.groupLen (s : State) (w : Who) (lane a : Nat) : Nat :=
  match s.fetchGroup w lane 6 {} 0 a with
  | .group _ _ n _ => n
  | .illegal n => n
  | .stuck b _ => wordsTo a b + 1

/-! Splinters in the order in which they issue (R47). -/

/-- Whether a splinter may be tried at issue: able, or waiting at issue for something that may be over. -/
def Splinter.tried (p : Splinter) : Bool :=
  match p.st with
  | .able => true
  | .waiting (.bar _) | .waiting .token => false
  | .waiting _ => true
  | .held _ | .joinWait _ _ | .fetchHeld _ => false

/-- Whether a splinter counts as able to run for R48: it does not wait at a join and is not held under R47. -/
def Splinter.running (p : Splinter) : Bool :=
  match p.st with
  | .held _ | .joinWait _ _ => false
  | _ => true

/-- Whether a splinter stands at an instruction boundary or waits at issue (R354). -/
def Splinter.atIssue (p : Splinter) : Bool :=
  match p.st with
  | .able | .waiting _ => true
  | _ => false

/-- The precedence of splinters: one that is due first, then the lowest program counter (R47). -/
def spBefore (a b : Nat × Splinter) : Bool :=
  (a.2.due && !b.2.due) || (a.2.due == b.2.due &&
    (a.2.pc.toNat < b.2.pc.toNat || (a.2.pc == b.2.pc && !a.2.half && b.2.half)))

/-- A team's splinters with their numbers. -/
def Team.numbered (x : Team) : List (Nat × Splinter) := (List.range x.splinters.length).zip x.splinters

/-- Whether a splinter finishes its instruction even while its team is being saved (R384): it waits at a barrier that has completed, or has
values of an atomic that its instruction writes to a shared destination (R62). -/
def Splinter.finishing (p : Splinter) : Bool :=
  match p.st with
  | .waiting (.barDone _) => true
  | .waiting _ => p.wrote != 0
  | _ => false

/-- Whether a splinter's wait stalls its team (R35, R41, R42). -/
def Splinter.stalls (p : Splinter) : Bool := p.st == .waiting .team

/-- The splinters that may be tried, in the order of R47: of a team that is stalled, the one that stalls it; of one that is being saved, those
that finish. -/
def Team.tries (x : Team) : List Nat :=
  let goes (p : Splinter) : Bool := if x.saver.isSome then p.finishing else p.stalls || !x.splinters.any Splinter.stalls
  (sortBy spBefore (x.numbered.filter fun e => e.2.tried && goes e.2)).map fun e => e.1

/-- A splinter that is due if it has not issued for 1,024 passes of its team (R47). -/
def Splinter.marked (p : Splinter) : Splinter := { p with due := p.due || decide (1024 ≤ p.idle) }

/-- The splinter that a pending condition is taken on: the one that R47 selects, counting one that waits at issue as able;
else the live splinter with the lowest program counter (R354). -/
def Team.conditionSplinter (x : Team) : Option Nat :=
  match leastBy spBefore ((x.numbered.filter fun e => e.2.atIssue).map fun e => (e.1, e.2.marked)) with
  | some e => some e.1
  | none => (leastBy (fun (a b : Nat × Splinter) => a.2.pc.toNat < b.2.pc.toNat) x.numbered).map fun e => e.1

/-! Teams in the order in which a quarter takes them (R140). -/

/-- Whether a team may issue as far as parking, a save, a trap under way and a held store without room go (R42, R355, R375, R385). -/
def Team.open_ (x : Team) : Bool :=
  x.trap.isNone &&
    (if x.inSys || x.saver.isNone then !x.parked && !(x.queue.any fun a => a.stalled) else x.splinters.any Splinter.finishing)

/-- Teams of a quarter: one that is due first, then the team it last issued, then by age (R140). -/
def Core.teamOrder (k : Core) (q : Nat) : List Nat :=
  let ts := k.resident.filter fun e => e.2.quarter == q && e.2.open_
  let greedy := k.last.at? q
  let rank (e : Nat × Team) : Nat := if e.2.due then 0 else if greedy == some e.1 then 1 else 2
  (sortBy (fun (a b : Nat × Team) => rank a < rank b || (rank a == rank b && a.2.age < b.2.age)) ts).map fun e => e.1

end Sys2Proof.Machine
end

