-- ==== Sys2Proof/Machine/Ops.lean ====
section
/-!
DEFINITION. The shared operations of instructions: registers with their tags (R52-R62), the context of an instruction at
issue, traps, trap entry (R353-R359, R365-R367), the return from a trap (R370, R382), and the frame that every instruction
runs in: its checks, its active lanes and what becomes of its result (R180, R185, R186, R218).
-/

namespace Sys2Proof.Machine

/-! Registers (R51, R56-R62). -/

/-- Whether a vector register lies in the team's shared range (R59). -/
def EntryRecord.shared (e : EntryRecord) (n : Nat) : Bool := e.sv && decide (e.sb ≤ n) && decide (n ≤ e.sb + e.sn)

/-- The value of a vector register on a lane; of a symbolic one, its offset. -/
def VReg.at (r : VReg) (l : Nat) : W32 :=
  match r.st with
  | .uniform => r.uni
  | .perLane | .symbolic => SMap.atD r.lanes l 0

/-- A vector register of a team; a shared one stands in the group (R60). -/
def State.vreg (s : State) (c : Nat) (x : Team) (n : Nat) : VReg :=
  if x.entry.shared n then ((s.core c).groups.atD x.entry.sg {}).regs.atD n {} else x.vregs.atD n {}

/-- A share group in which a team writes a register, or its full/empty bit: what the register held before this cycle is kept (R61). -/
def ShareGroup.keep (g : ShareGroup) (clock : W64) (t n : Nat) : ShareGroup :=
  let old : Prior := { clock := clock, slot := t, reg := g.regs.atD n {}, full := g.full.atD n false }
  match g.prior.at? n with
  | some p => if p.clock = clock then g else { g with prior := g.prior.put n old }
  | none => { g with prior := g.prior.put n old }

/-- What a shared register held before this cycle, where another team has written it in this cycle (R61). -/
def State.prior? (s : State) (c t : Nat) (x : Team) (n : Nat) : Option Prior :=
  if !x.entry.shared n then none
  else (((s.core c).groups.atD x.entry.sg {}).prior.at? n).filter fun p => p.clock == s.clock && p.slot != t

/-- A vector register of a team written. -/
def State.setVreg (s : State) (c t n : Nat) (r : VReg) : State :=
  match s.team? c t with
  | none => s
  | some x =>
    if x.entry.shared n then
      s.onCore c fun k =>
        let g := (k.groups.atD x.entry.sg {}).keep s.clock t n
        { k with groups := k.groups.put x.entry.sg { g with regs := SMap.store {} g.regs n r } }
    else s.setTeam c t { x with vregs := SMap.store {} x.vregs n r }

/-- A uniform register of a team; in system mode, of the system bank (R356). -/
def Team.ureg (x : Team) (n : Nat) : UReg :=
  match x.sys with
  | some y => y.regs.atD n {}
  | none => x.uregs.atD n {}

/-- A uniform register written, in the bank of the team's mode. -/
def Team.setUreg (x : Team) (n : Nat) (r : UReg) : Team :=
  match x.sys with
  | some y => { x with sys := some { y with regs := SMap.store {} y.regs n r } }
  | none => { x with uregs := SMap.store {} x.uregs n r }

/-- A predicate register as a mask; in system mode, of the system bank, on lane 0 (R356). -/
def Team.pred (x : Team) (n : Nat) : Mask :=
  match x.sys with
  | some y => if y.preds.getLsbD n then 1 else 0
  | none => x.preds.atD n 0

/-- A predicate register written whole. -/
def Team.setPred (x : Team) (n : Nat) (m : Mask) : Team :=
  match x.sys with
  | some y =>
    let b := (1#16) <<< n
    { x with sys := some { y with preds := if m.getLsbD 0 then y.preds ||| b else y.preds &&& ~~~b } }
  | none => { x with preds := SMap.store 0 x.preds n m }

/-- The values that a mask's lanes hold, as a table without zeros. -/
def laneTable (m : Mask) (f : Nat → W32) : SMap W32 :=
  (lanesOf m).filterMap fun l => if f l = 0 then none else some (l, f l)

/-- The origins that a mask's lanes hold. -/
def originTable (m : Mask) (f : Nat → Option Origin) : SMap Origin :=
  (lanesOf m).filterMap fun l => (f l).map fun o => (l, o)

/-- Values of some lanes replaced in a table. -/
def overlay (old : SMap W32) (m : Mask) (f : Nat → W32) : SMap W32 :=
  (lanesOf m).foldl (fun t l => SMap.store 0 t l (f l)) old

/-- Origins of some lanes replaced in a table. -/
def overlayOrigins (old : SMap Origin) (m : Mask) (f : Nat → Option Origin) : SMap Origin :=
  (lanesOf m).foldl (fun t l => match f l with
    | none => SMap.del t l
    | some o => SMap.put t l o) old

/-- The per-lane contents of a register of W lanes: a uniform value is expanded (R58). -/
def VReg.expanded (r : VReg) (w : Nat) : SMap W32 :=
  match r.st with
  | .uniform => laneTable (laneRange 0 w) fun _ => r.uni
  | .perLane | .symbolic => r.lanes

/-- A known register after a write of some lanes: uniform after a full write of one value, else per lane (R57, R58). -/
def VReg.written (r : VReg) (w : Nat) (full : Bool) (act : Mask) (f : Nat → W32) (o : Nat → Option Origin) : VReg :=
  if full then
    let v := f (lowLane act)
    if (lanesOf act).all fun l => f l == v then { uni := v, pois := originTable act o }
    else { st := .perLane, lanes := laneTable act f, pois := originTable act o }
  else { st := .perLane, lanes := overlay (r.expanded w) act f, pois := overlayOrigins r.pois act o }

/-- Whether a write by the active lanes is full: they are every lane present in the team; for a shared register, every lane
of its width (R57, log entry 21). -/
def Team.fullWrite (x : Team) (n : Nat) (act : Mask) : Bool :=
  if x.entry.shared n then act == laneRange 0 x.width else act == x.live

/-- Known values written to a vector register on the active lanes. -/
def State.writeV (s : State) (c t n : Nat) (act : Mask) (f : Nat → W32) (o : Nat → Option Origin) : State :=
  match s.team? c t with
  | none => s
  | some x => s.setVreg c t n ((s.vreg c x n).written x.width (x.fullWrite n act) act f o)

/-- A known value written to a uniform register. -/
def State.writeU (s : State) (c t n : Nat) (v : W64) (o : Option Origin) : State :=
  s.onTeam c t fun x => x.setUreg n { val := v, pois := o }

/-- Bits written to a predicate register on the active lanes. -/
def State.writeP (s : State) (c t n : Nat) (act : Mask) (f : Nat → Bool) : State :=
  s.onTeam c t fun x => x.setPred n ((x.pred n &&& ~~~act) ||| maskWhere act f)

/-! The context of an instruction at issue. -/

/-- An instruction at issue: the team and its splinter, the active lanes (R189), the hints, the address of the group with the
half bit in bit 0, the address A of R176 and where the splinter goes next. -/
structure Ctx where
  s : State
  c : Nat
  t : Nat
  n : Nat
  x : Team
  p : Splinter
  sys : Bool
  act : Mask
  h : Hints
  iaddr : W64
  base : W64
  next : W64
  nextHalf : Bool
  len : Nat
  word : BitVec 32

/-- What becomes of an instruction: it is done, with the flags that each lane sets; done, with every splinter placed by itself; it waits; it traps; or its team
is gone. -/
inductive Did where
  | done (s : State) (f : Nat → FlagSet)
  | moved (s : State)
  | wait (s : State) (r : Wait)
  | trap (s : State) (cause : Cause) (code : Nat) (eaddr : Option W64) (lanes : Mask)
  | gone (s : State)

/-- The splinter of a team at issue; in system mode, its one lane (R356). -/
def Team.splinterAt (x : Team) (n : Nat) : Option Splinter :=
  match x.sys with
  | some y =>
    let st : SplinterState := match y.wait with
      | none => .able
      | some w => .waiting w
    some { pc := y.pc, half := y.half, mask := 1, armed := y.armed, st := st, reads := y.reads, readBad := y.readBad }
  | none => x.splinters[n]?

/-- The context of the team and the group at issue. -/
def State.ctx? (s : State) : Option Ctx :=
  let i := s.cur
  if !i.valid then none
  else match s.team? i.core i.slot with
    | none => none
    | some x => match x.splinterAt i.spl with
      | none => none
      | some p =>
        let after := p.pc + BitVec.ofNat 64 (4 * i.len)
        some
          { s := s, c := i.core, t := i.slot, n := i.spl, x := x, p := p, sys := x.inSys, act := p.mask &&& ~~~p.did, h := i.hints
            iaddr := if p.half then p.pc ||| 1 else p.pc
            base := p.pc + BitVec.ofNat 64 (4 * (i.len - 1))
            next := if i.dictLo = some false && i.dictPair then p.pc else after
            nextHalf := i.dictLo = some false && i.dictPair, len := i.len, word := i.word }

/-- The address of the word after the group (R205). -/
def Ctx.link (cx : Ctx) : W64 := cx.base + 4

/-- The modifier hint, or the empty one (R181). -/
def Ctx.mods (cx : Ctx) : ModHint := cx.h.mods.getD {}

/-- The extension value E, or 0 (R179). -/
def extOf (h : Hints) : W64 :=
  match h.exts with
  | [] => 0
  | [a] => a.signExtend 64
  | a :: b :: _ => (a ++ b : BitVec 48).signExtend 64

/-- The extension value E, or 0 (R179). -/
def Ctx.ext (cx : Ctx) : W64 := extOf cx.h

/-- The partition whose scheduling state, handles and flags an instruction acts on (R361, R367). -/
def Ctx.part (cx : Ctx) : Nat := cx.x.actPart

/-! Traps (R353-R359, R365). -/

/-- Codes of R353. -/
def Cause.code : Cause → Nat
  | .soft => 0 | .illegal => 1 | .priv => 2 | .opclass => 3 | .align => 4 | .range => 5 | .poison => 6 | .handle => 7
  | .item => 8 | .barrier => 9 | .tensor => 10 | .xfer => 11 | .sample => 12 | .arith => 13 | .fetch => 14 | .xlate => 15

/-- The lowest mask word of some lanes. -/
def lowWord (m : Mask) : Nat := (wordsOfMask m).headD 0

/-- ESTAT (R365). -/
def estatOf (part : Nat) (cd : Condition) (glen : Nat) : W64 :=
  let w := lowWord cd.lanes
  BitVec.ofNat 64
    ((maskWord cd.lanes w).toNat * 2 ^ 32 + w * 2 ^ 27 + (if cd.deferred then 0 else glen) * 2 ^ 24 + part * 2 ^ 17 +
      (if cd.deferred then 2 ^ 16 else 0) + cd.code * 2 ^ 4 + cd.cause.code)

/-- Whether memory has the state of R110 for a team: no store or atomic of it, outside the fault buffer, waits, of those that an earlier handler of
the team has left, over its `sret`, neither (R370). -/
def State.settled (s : State) (c t : Nat) : Bool :=
  !((match s.team? c t with
     | none => []
     | some x => x.queue) ++ (s.txs.filter fun x => x.core == c && x.slot == t).map fun x => x.acc).any
    fun a => a.op.writes

/-- Trap entry completed: EPC, ESTAT, EADDR and EIADDR are written, ACTP is the team's partition, and the team enters system
mode at TVEC with its bank at zero, parked no longer (R355, R356, R362, R364). -/
def State.enterTrap (s : State) (c t : Nat) : State :=
  match s.team? c t with
  | none => s
  | some x => match x.trap, x.splinters[x.trapSpl]? with
    | some cd, some p =>
      let epc := if p.half then p.pc ||| 1 else p.pc
      let glen := if cd.cause = .arith then s.groupLen (x.who c false) (lowLane p.mask) p.pc.toNat else cd.glen
      let s := s.discardLines c x.part .sys
      s.setTeam c t { x with
        trap := none, parked := false
        sys := some { pc := s.tvec, epc := epc, estat := estatOf x.part cd glen, eaddr := cd.eaddr
                      eiaddr := cd.eiaddr, actp := x.part, spl := x.trapSpl } }
    | _, _ => s

/-- A team takes a trap in one of its splinters. Entry completes at once when memory is settled (R110, R355); else the team
issues nothing until it is. -/
def State.takeTrap (s : State) (c t n : Nat) (cd : Condition) : State :=
  let s := s.onTeam c t fun x => { x with trap := some cd, trapSpl := n }
  if s.settled c t then s.enterTrap c t else s

/-- A double trap: a report of code 0x0006, then a warm restart (R359). -/
def State.doubleTrap (s : State) (c t : Nat) (cause : Cause) (fault : Nat) (info : W64) : State :=
  let part := match s.team? c t with
    | some x => if x.formed then none else some x.part
    | none => none
  (s.raise 0x0006 c part info (BitVec.ofNat 32 (cause.code + 16 * fault + 256 * (t % 32)))).warmRestart

/-- A trap condition met by an instruction or a fetch, at an address where it has one: a trap, or in system mode a double trap (R354, R359). -/
def State.trapOn (s : State) (c t n : Nat) (cd : Condition) (at_ : Option W64) : State :=
  match s.team? c t with
  | none => s
  | some x =>
    if x.inSys then s.doubleTrap c t cd.cause 0xF (at_.getD cd.eiaddr) else s.takeTrap c t n { cd with eaddr := at_.getD 0 }

/-- A condition raised at the next instruction boundary (R354). -/
def State.pendOn (s : State) (c t : Nat) (cd : Condition) : State :=
  s.onTeam c t fun x => { x with pend := x.pend ++ [{ cd with deferred := true }] }

/-- Whether a pending condition can be taken: that of an atomic's ISAT waits for the atomic's returns (R367). -/
def State.ripe (s : State) (c t : Nat) (cd : Condition) : Bool :=
  cd.cause != .arith || !((s.waitingOf c t).any fun e => e.order == cd.order && !e.sys)

/-- The pending condition that is taken first: that of the instruction that issued first (R354). -/
def State.firstPending (s : State) (c t : Nat) (x : Team) : Option Condition :=
  leastBy (fun (a b : Condition) => a.order < b.order) (x.pend.filter (s.ripe c t))

/-- A pending condition taken at an instruction boundary (R354). -/
def State.takePending (s : State) (c t : Nat) : State :=
  match s.team? c t with
  | none => s
  | some x => match s.firstPending c t x, x.conditionSplinter with
    | some cd, some n =>
      (s.setTeam c t { x with pend := x.pend.erase cd }).takeTrap c t n cd
    | _, _ => s

/-- The return from a trap: the team leaves system mode and resumes at EPC in the splinter that trapped; a team formed in
system mode, and a team whose partition was terminated, end (R360, R370, R382). -/
def State.leaveTrap (s : State) (c t : Nat) : State :=
  match s.team? c t with
  | none => s
  | some x => match x.sys with
    | none => s
    | some y =>
      if y.formed || x.dead then
        let s := if y.formed then (s.setTeam c t { x with splinters := [] }).settleItems c t else s
        if x.dead then (s.returnBlock x).closeTeam c t else s.endTeam c t
      else
        let pc := y.epc &&& ~~~3#64
        let half := y.epc.getLsbD 0
        let resume (p : Splinter) : Splinter :=
          if p.pc = pc && p.half = half then p else { p with pc := pc, half := half, did := 0, st := .able, armed := none, reads := [], readBad := [], wrote := 0 }
        s.setTeam c t { x with sys := none, splinters := modAt resume x.splinters y.spl }

/-! The frame of every instruction. -/

/-- One pass for each mask word with an active lane (R44, R189). -/
def Ctx.wordPasses (cx : Ctx) : Nat := (wordsOfMask cx.act).length

/-- The registers that an instruction's partial write expanded, each at the cost of a pass (R58). One that packs lanes expands registers
without a write of its own. -/
def Ctx.expansions (cx : Ctx) (s : State) : Nat :=
  match s.team? cx.c cx.t with
  | none => 0
  | some x =>
    if x.live != cx.x.live then 0
    else ((List.range cx.x.entry.regs).filter fun n =>
      !(cx.x.fullWrite n cx.act) && (cx.s.vreg cx.c cx.x n).st == .uniform && (s.vreg cx.c x n).st != .uniform).length

/-- The passes of one splinter counted against the others (R389). -/
def Team.idleOthers (x : Team) (n k : Nat) : Team :=
  { x with splinters := (x.numbered).map fun e =>
      if e.1 = n then { e.2 with idle := 0, due := false } else { e.2 with idle := min 1024 (e.2.idle + k) } }

/-- A splinter goes on at an address (R178, R184). -/
def Splinter.goTo (p : Splinter) (pc : W64) (half : Bool) : Splinter :=
  { p with pc := pc, half := half, did := 0, st := .able, armed := none, reads := [], readBad := [], wrote := 0 }

/-- A team in system mode goes on at an address. -/
def SysCtx.goTo (y : SysCtx) (pc : W64) (half : Bool) : SysCtx :=
  { y with pc := pc, half := half, wait := none, armed := none, reads := [], readBad := [] }

/-- The instruction completed: its splinter goes on behind it. -/
def Ctx.retire (cx : Ctx) (s : State) (passes : Nat) : State :=
  s.onTeam cx.c cx.t fun x =>
    match x.sys with
    | some y => { x with sys := some (y.goTo cx.next cx.nextHalf) }
    | none =>
      let x := x.idleOthers cx.n passes
      { x with splinters := modAt (fun p => p.goTo cx.next cx.nextHalf) x.splinters cx.n }

/-- What the instruction waits for: while it can only not go on yet, what it was waiting for before stands. -/
def Ctx.waitsFor (cx : Ctx) (r : Wait) : Wait :=
  match r, cx.p.st with
  | .issue, .waiting .team => .issue
  | .issue, .waiting w => w
  | _, _ => r

/-- The instruction waits at issue. -/
def Ctx.hold (cx : Ctx) (s : State) (r : Wait) : State :=
  s.onTeam cx.c cx.t fun x =>
    match x.sys with
    | some y => { x with sys := some { y with wait := some (cx.waitsFor r) } }
    | none => { x with splinters := modAt (fun p => { p with st := .waiting (cx.waitsFor r) }) x.splinters cx.n }

/-- The union of the flags of the active lanes (R120). -/
def flagsOf (act : Mask) (f : Nat → FlagSet) : FlagSet := (lanesOf act).foldl (fun s l => s ||| f l) 0

/-- What becomes of the machine, for an instruction of some passes. A flag whose trap is enabled makes the team trap after the
instruction has completed, outside system mode only, on the lanes that set such a flag (R365, R367). -/
def Ctx.settle (cx : Ctx) (passes : Nat) : Did → State
  | .done s f =>
    let g := flagsOf cx.act f
    let s := s.setFlags cx.c cx.part g
    let s := cx.retire s (passes + cx.expansions s)
    let on := s.enabled cx.c cx.part
    if cx.sys || g &&& on = 0 then s
    else s.trapOn cx.c cx.t cx.n
      { cause := .arith, code := (g &&& on).toNat, eiaddr := cx.iaddr, lanes := maskWhere cx.act fun l => f l &&& on != 0 } none
  | .moved s => s
  | .wait s r => cx.hold s r
  | .trap s cause code eaddr lanes =>
    let s := if cx.sys then s
      else s.onSplinter cx.c cx.t cx.n fun p => { p with st := .able, reads := [], readBad := [], wrote := 0 }
    s.trapOn cx.c cx.t cx.n { cause := cause, code := code, eiaddr := cx.iaddr, lanes := lanes, glen := cx.len } eaddr
  | .gone s => s

/-- What an instruction admits: its operand fields, its extensions, its modifier fields, whether its word is well formed,
whether system mode and a trapped team admit it, whether it is privileged, its operand classes, and whether it writes p15; and the passes
that it takes, besides those of expansions (R44, R58). -/
structure Rules where
  ops : List Operand := []
  exts : Nat := 0
  extOk : W64 → Bool := fun _ => true
  mods : ModHint → Bool := fun m => m == {}
  wf : Bool := true
  inSys : Bool := true
  trapped : Bool := true
  priv : Bool := false
  ok : Ctx → Bool := fun _ => true
  p15 : Bool := false
  passes : Ctx → Nat := Ctx.wordPasses

/-- Whether a write of p15 is still pending (R218). -/
def Ctx.p15Pending (cx : Ctx) : Bool :=
  match cx.x.sys with
  | some y => y.p15pend != 0
  | none => cx.x.p15pend != 0

/-- The lanes that pass the guard (R180). -/
def Ctx.guarded (cx : Ctx) : Mask :=
  match cx.h.guard with
  | none => cx.act
  | some (inv, p) => let m := cx.x.pred p.val; if inv then cx.act &&& ~~~m else cx.act &&& m

/-- The context with the lanes that pass the guard (R180). -/
def Ctx.live (cx : Ctx) : Ctx := { cx with act := cx.guarded }

/-- Whether the group is illegal with its instruction (R179, R181, R185, R357). -/
def Ctx.illegal (cx : Ctx) (r : Rules) : Bool :=
  !r.wf || decide (r.exts < cx.h.exts.length) || !(cx.h.exts.isEmpty || r.extOk cx.ext) || !r.mods cx.mods ||
    (cx.sys && (!r.inSys || (!r.trapped && !cx.x.formed)))

/-- The checks of a group in the order of R186, then its active lanes, then the wait on p15, then its effect. -/
def Ctx.judge (cx : Ctx) (r : Rules) (body : Ctx → Did) : Did :=
  if cx.illegal r then .trap cx.s .illegal 0 none cx.act
  else if r.priv && !cx.sys then .trap cx.s .priv 0 none cx.act
  else if !r.ok cx then .trap cx.s .opclass 0 none cx.act
  else if cx.p15Pending && (match cx.h.guard with
      | some (_, p) => p.val == 15
      | none => false) then .wait cx.s .issue
  else
    let cx := cx.live
    if cx.act = 0 then .done cx.s 0
    else if cx.p15Pending && (r.p15 || r.ops.contains (.p 15)) then .wait cx.s .issue
    else body cx

/-- An instruction of the team at issue. -/
def perform (r : Rules) (body : Ctx → Did) (s : State) : Host.Outcome State Fault Refusal :=
  match s.ctx? with
  | none => .fault .noIssue
  | some cx => .next (cx.live.settle (r.passes cx.live) (cx.judge r body))

end Sys2Proof.Machine
end

