-- ==== Sys2Proof/Machine/Operands.lean ====
section
/-!
DEFINITION. Operands: the classes that a field admits (R51-R54, R187, R214, R356), reading an operand, its symbolic form
(R63, R64), blocking uses and poison (R65, R66, R70), immediates (R170) and writing a destination.
-/

namespace Sys2Proof.Machine

/-! Classes (R52, R187). -/

/-- A vector register below `regs=`; no vector register in system mode (R52, R356). -/
def Ctx.vOk (cx : Ctx) (n : Nat) : Bool := !cx.sys && decide (n < cx.x.entry.regs)

/-- A uniform register below `wregs=`; in system mode, of the bank (R52, R356). -/
def Ctx.uOk (cx : Ctx) (n : Nat) : Bool := decide (n < (if cx.sys then 16 else cx.x.entry.wregs))

/-- Class V as a source: a vector register or a per-lane special operand. -/
def Ctx.isV (cx : Ctx) : Operand → Bool
  | .v n => cx.vOk n.val
  | .lane | .flow | .cls | .seq => true
  | _ => false

/-- Class U as a source: a uniform register, 0xFF, or a team-wide special operand. -/
def Ctx.isU (cx : Ctx) : Operand → Bool
  | .w n => cx.uOk n.val
  | .zero | .team | .core | .sector | .dev | .clock | .tslot | .part => true
  | _ => false

def Ctx.isVU (cx : Ctx) (o : Operand) : Bool := cx.isV o || cx.isU o

/-- Class P. -/
def isP : Operand → Bool
  | .p _ => true
  | _ => false

/-- Class P or 0xFF. -/
def isPz : Operand → Bool
  | .p _ | .zero => true
  | _ => false

/-- A vector register as a destination, or 0xFF. -/
def Ctx.dstV (cx : Ctx) : Operand → Bool
  | .v n => cx.vOk n.val
  | .zero => true
  | _ => false

/-- A uniform register as a destination, or 0xFF. -/
def Ctx.dstU (cx : Ctx) : Operand → Bool
  | .w n => cx.uOk n.val
  | .zero => true
  | _ => false

def Ctx.dstVU (cx : Ctx) (o : Operand) : Bool := cx.dstV o || cx.dstU o

/-- A predicate register as a destination, or 0xFF. -/
def dstP : Operand → Bool := isPz

/-- An even vector register, or class U, as a source (R53). -/
def Ctx.isEvenU (cx : Ctx) : Operand → Bool
  | .v n => cx.vOk n.val && n.val % 2 == 0
  | o => cx.isU o

/-- An even vector register, or a uniform register, as a destination (R53). -/
def Ctx.dstEvenU (cx : Ctx) : Operand → Bool
  | .v n => cx.vOk n.val && n.val % 2 == 0
  | o => cx.dstU o

/-- Whether an operand is of class U by its code (R188). -/
def uniformOp : Operand → Bool
  | .w _ | .zero | .team | .core | .sector | .dev | .clock | .tslot | .part => true
  | _ => false

/-- The passes of an instruction of some operands: one where each of them is uniform, its destination among them (R189, R245). -/
def Ctx.passesFor (cx : Ctx) (os : List Operand) : Nat := if os.all uniformOp then 1 else cx.wordPasses

/-- Whether an operand is of class V by its code. -/
def vectorOp : Operand → Bool
  | .v _ | .lane | .flow | .cls | .seq => true
  | _ => false

/-- No uniform register is the destination of a vector source (R52). -/
def noMix (d : Operand) (srcs : List Operand) : Bool :=
  match d with
  | .w _ => !(srcs.any vectorOp)
  | _ => true

/-! Reading (R54). -/

/-- An operand's value on each lane, and its poison. -/
structure Val where
  at_ : Nat → W64
  pois : Nat → Option Origin

/-- A value that is the same on every lane, without poison. -/
def Val.const (v : W64) : Val := { at_ := fun _ => v, pois := fun _ => none }

/-- A value of a lane's item (R54); in system mode, of lane 0. -/
def Ctx.ofItem (cx : Ctx) (f : Item → W64) : Val :=
  { at_ := fun l => match cx.x.items.find? fun i => !i.ended && i.mask.getLsbD l with
      | some i => f i
      | none => 0
    pois := fun _ => none }

/-- A vector register as an instruction reads it: of a shared one that another team has written in this cycle, what it held before (R61). -/
def Ctx.vreg (cx : Ctx) (n : Nat) : VReg :=
  match cx.s.prior? cx.c cx.t cx.x n with
  | some p => p.reg
  | none => cx.s.vreg cx.c cx.x n

/-- Whether a destination is a shared register that another team has written in this cycle: the instruction is tried again in the
next (R61). -/
def Ctx.lostTo (cx : Ctx) (d : Operand) : Bool :=
  match d with
  | .v n => (cx.s.prior? cx.c cx.t cx.x n.val).isSome
  | _ => false

/-- An operand read (R54). -/
def Ctx.read (cx : Ctx) : Operand → Val
  | .v n => let r := cx.vreg n.val; { at_ := fun l => (r.at l).setWidth 64, pois := fun l => SMap.at? r.pois l }
  | .w n => let r := cx.x.ureg n.val; { at_ := fun _ => r.val, pois := fun _ => r.pois }
  | .p n => let m := cx.x.pred n.val; { at_ := fun l => if m.getLsbD l then 1 else 0, pois := fun _ => none }
  | .lane => { at_ := fun l => if cx.sys then 0 else BitVec.ofNat 64 l, pois := fun _ => none }
  | .flow => cx.ofItem fun i => BitVec.ofNat 64 i.flow
  | .cls => cx.ofItem fun i => BitVec.ofNat 64 i.cls
  | .seq => cx.ofItem fun i => BitVec.ofNat 64 i.seq
  | .team => .const (BitVec.ofNat 64 (32 * cx.c + cx.t))
  | .core => .const (BitVec.ofNat 64 cx.c)
  | .sector => .const (BitVec.ofNat 64 (sectorOf cx.c))
  | .dev => .const (cx.s.devid.setWidth 64)
  | .clock => .const cx.s.clock
  | .tslot => .const (BitVec.ofNat 64 cx.t)
  | .part => .const (BitVec.ofNat 64 cx.x.part)
  | .zero | .a _ | .j _ | .t _ => .const 0

/-- Two origins in one lane: memory poison outranks address poison (R70). DESIGN CHOICE: of memory poison of two owners the left operand's tag
stays; the spec names none (log entry 18). -/
def joinOrigin : Option Origin → Option Origin → Option Origin
  | some (.mem t), _ => some (.mem t)
  | _, some (.mem t) => some (.mem t)
  | some .addr, _ | _, some .addr => some .addr
  | none, none => none

/-- The register after a vector register. -/
def nextV (n : Fin 128) : Operand := .v (n + 1)

/-- A 64-bit value: a pair, or a uniform operand (R53). -/
def Ctx.read64 (cx : Ctx) : Operand → Val
  | .v n =>
    let lo := cx.read (.v n)
    let hi := cx.read (nextV n)
    { at_ := fun l => hi.at_ l <<< 32 ||| lo.at_ l, pois := fun l => joinOrigin (lo.pois l) (hi.pois l) }
  | o => cx.read o

/-! Symbols (R63-R66). -/

/-- Whether an operand is a symbolic register. -/
def Ctx.symbolic (cx : Ctx) : Operand → Bool
  | .v n => (cx.vreg n.val).st == .symbolic
  | .w n => (cx.x.ureg n.val).sym.isSome
  | _ => false

/-- Whether an operand, or the pair that it names, is symbolic. -/
def Ctx.symbolic64 (cx : Ctx) : Operand → Bool
  | .v n => cx.symbolic (.v n) || cx.symbolic (nextV n)
  | o => cx.symbolic o

/-- Whether the active lanes are every lane present, so that a write of them is full (R57); a trap handler has one lane. -/
def Ctx.allLanes (cx : Ctx) : Bool := cx.sys || cx.act == cx.x.live

/-- Whether a write of the active lanes to a destination waits: a partial one for its symbol first (R66, R190), or for the next cycle
(R61). -/
def Ctx.destWaits (cx : Ctx) (d : Operand) : Bool :=
  match d with
  | .v n => (cx.symbolic d && !(cx.x.fullWrite n.val cx.act)) || cx.lostTo d
  | _ => cx.symbolic d && !cx.allLanes

/-- The same for a pair. -/
def Ctx.destWaits64 (cx : Ctx) (d : Operand) : Bool :=
  match d with
  | .v n => cx.destWaits d || cx.destWaits (nextV n)
  | _ => cx.destWaits d

/-! Blocking uses of poison (R70, R380). -/

/-- The active lanes on which some values are poisoned, with each origin that meets there. -/
def Ctx.origins (cx : Ctx) (vs : List Val) : List (Nat × Origin) :=
  (lanesOf cx.act).flatMap fun l => ((vs.filterMap fun v => v.pois l).eraseDups).map fun o => (l, o)

/-- The owner tags among origins, each once, in lane order. -/
def tagsOf (os : List (Nat × Origin)) : List Nat :=
  os.foldl (fun ts o => match o.2 with
    | .mem t => if ts.contains t then ts else ts ++ [t]
    | .addr => ts) []

/-- The lanes of address poison among origins. -/
def addrLanes (os : List (Nat × Origin)) : Mask :=
  maskOf ((os.filter fun o => o.2 == .addr).map fun o => o.1)

/-- Whether a consumption of some tags ends the team (R380, R381). -/
def Ctx.endsTeam (cx : Ctx) (tags : List Nat) : Bool :=
  tags.any fun t => cx.sys || decide (8 ≤ t) || t == cx.x.part

/-- Poison met by a blocking use: memory poison is consumed first; then address poison traps (R70). Otherwise the
instruction goes on. -/
def Ctx.usePoison (cx : Ctx) (os : List (Nat × Origin)) (k : Ctx → Did) : Did :=
  let tags := tagsOf os
  let lanes := addrLanes os
  if tags = [] then (if lanes = 0 then k cx else .trap cx.s .poison 0 none lanes)
  else
    let s := cx.s.consumeAll cx.sys tags
    if cx.endsTeam tags then .gone s
    else if lanes = 0 then k { cx with s := s } else .trap s .poison 0 none lanes

/-- A blocking use of some values. -/
def Ctx.use (cx : Ctx) (vs : List Val) (k : Ctx → Did) : Did := cx.usePoison (cx.origins vs) k

/-- Operands used in a blocking way: the instruction waits for their symbols, and meets their poison (R65, R70). -/
def Ctx.blockOn (cx : Ctx) (os : List Operand) (k : Ctx → Did) : Did :=
  if os.any cx.symbolic then .wait cx.s .issue else cx.use (os.map cx.read) k

/-- The registers of an operand of 64 bits (R53). -/
def halvesOf : Operand → List Operand
  | .v n => [.v n, nextV n]
  | o => [o]

/-- The same for operands of 64 bits. -/
def Ctx.blockOn64 (cx : Ctx) (os : List Operand) (k : Ctx → Did) : Did := cx.blockOn (os.flatMap halvesOf) k

/-! Writing. -/

/-- No poison. -/
def noOrigin : Nat → Option Origin := fun _ => none

/-- A destination written on the active lanes: 32 bits to a vector register, 64 to a uniform one, a bit to a predicate;
0xFF discards (R52, R188). -/
def Ctx.write (cx : Ctx) (s : State) (d : Operand) (f : Nat → W64) (o : Nat → Option Origin) : State :=
  match d with
  | .v n => s.writeV cx.c cx.t n.val cx.act (fun l => (f l).setWidth 32) o
  | .w n => s.writeU cx.c cx.t n.val (f (lowLane cx.act)) (o (lowLane cx.act))
  | .p n => s.writeP cx.c cx.t n.val cx.act fun l => f l != 0
  | _ => s

/-- A pair or a uniform register written (R53). -/
def Ctx.write64 (cx : Ctx) (s : State) (d : Operand) (f : Nat → W64) (o : Nat → Option Origin) : State :=
  match d with
  | .v n => cx.write (cx.write s d f o) (nextV n) (fun l => f l >>> 32) o
  | _ => cx.write s d f o

/-- p15 written on the active lanes (R218). -/
def Ctx.writeP15 (cx : Ctx) (s : State) (f : Nat → Bool) : State := s.writeP cx.c cx.t 15 cx.act f

/-! Forms (R64). -/

/-- An operand of a linear operation: known, or a form over a symbol, with the lanes on which it is its offset alone. -/
inductive Opd where
  | known (v : Val)
  | form (sym : Nat) (scale : W64) (alone : Mask) (off : Val)
  /-- A symbolic operand that the operation cannot keep (R65). -/
  | blocked

/-- A symbol of the core. -/
def Ctx.symbol (cx : Ctx) (n : Nat) : Symbol := (cx.s.core cx.c).syms.atD n {}

/-- Whether a vector register is one half of a pair that a symbol of 64 bits was delivered to (R64). -/
def Ctx.halfOfPair (cx : Ctx) (r : VReg) : Bool := (cx.symbol r.sym).w64 && !(cx.symbol r.sym).uni

/-- An operand as an integer form. A float form and half of a pair block (R64, R65); a uniform form keeps its symbol for a vector
destination too, with 32 bits of its scale and offset (R64, R190). -/
def Ctx.opd (cx : Ctx) (o : Operand) : Opd :=
  if !cx.symbolic o then .known (cx.read o)
  else match o with
    | .v n =>
      let r := cx.vreg n.val
      if r.flt || cx.halfOfPair r then .blocked else .form r.sym (r.scale.setWidth 64) r.alone (cx.read o)
    | .w n =>
      let r := cx.x.ureg n.val
      if r.flt || r.half then .blocked else .form (r.sym.getD 0) r.scale 0 (cx.read o)
    | _ => .blocked

/-- A form written to a destination. A scale of 0 is known at once. A write under a partial mask waits for the symbol: of a
symbolic D by R66 and R190; of a known one since one form stands for all lanes (DEDUCED, log entry 22). -/
def Ctx.writeForm (cx : Ctx) (d : Operand) (sym : Nat) (scale : W64) (alone : Mask) (off : Val) : Did :=
  match d with
  | .v n =>
    let sc : W32 := scale.setWidth 32
    if sc = 0 then (if cx.destWaits d then .wait cx.s .issue else .done (cx.write cx.s d off.at_ off.pois) 0)
    else if !(cx.x.fullWrite n.val cx.act) || cx.x.entry.shared n.val then .wait cx.s .issue
    else
      .done (cx.s.setVreg cx.c cx.t n.val
        { st := .symbolic, sym := sym, scale := sc, alone := alone, lanes := laneTable cx.act fun l => (off.at_ l).setWidth 32
          pois := originTable cx.act off.pois }) 0
  | .w n =>
    if cx.destWaits d then .wait cx.s .issue
    else if scale = 0 then .done (cx.write cx.s d off.at_ off.pois) 0
    else
      let l := lowLane cx.act
      .done (cx.s.onTeam cx.c cx.t fun x =>
        x.setUreg n.val { val := off.at_ l, sym := some sym, scale := scale, pois := off.pois l }) 0
  | _ => .done cx.s 0

/-- Two values combined lane by lane; poison passes through (R70). -/
def Val.zip (f : W64 → W64 → W64) (a b : Val) : Val :=
  { at_ := fun l => f (a.at_ l) (b.at_ l), pois := fun l => joinOrigin (a.pois l) (b.pois l) }

/-- A value mapped lane by lane. -/
def Val.map (f : W64 → W64) (a : Val) : Val := { at_ := fun l => f (a.at_ l), pois := a.pois }

/-- A known result of an operation through which poison passes. -/
def Ctx.writeKnown (cx : Ctx) (d : Operand) (v : Val) : Did :=
  if cx.destWaits d then .wait cx.s .issue else .done (cx.write cx.s d v.at_ v.pois) 0

/-- A sum or a difference: the rows S + k, S − k, k − S and S1 ± S2 of R64. -/
def Ctx.linear (cx : Ctx) (d : Operand) (minus : Bool) (a b : Opd) : Did :=
  let f (x y : W64) : W64 := if minus then x - y else x + y
  match a, b with
  | .known x, .known y => cx.writeKnown d (x.zip f y)
  | .form n sc l o, .known y => cx.writeForm d n sc l (o.zip f y)
  | .known x, .form n sc l o => cx.writeForm d n (if minus then -sc else sc) l (x.zip f o)
  | .form n sc l o, .form m sd k q => if n = m && l = k then cx.writeForm d n (f sc sd) l (o.zip f q) else .wait cx.s .issue
  | _, _ => .wait cx.s .issue

/-- A product by a known uniform factor, whose poison passes like the operand's: the rows S × u and S shl u of R64 (R70). -/
def Ctx.scaled (cx : Ctx) (d : Operand) (a : Opd) (u : Val) : Did :=
  match a with
  | .known x => cx.writeKnown d (x.zip (· * ·) u)
  | .form n sc l o => cx.writeForm d n (sc * u.at_ (lowLane cx.act)) l (o.zip (· * ·) u)
  | .blocked => .wait cx.s .issue

/-- A result that is no form, computed from operands that are used in a blocking way (R65, R70). -/
def Ctx.compute (cx : Ctx) (d : Operand) (srcs : List Operand) (f : Ctx → Nat → W64) : Did :=
  if cx.destWaits d then .wait cx.s .issue
  else cx.blockOn srcs fun cx => .done (cx.write cx.s d (f cx) noOrigin) 0

/-- The same for operands and a result of 64 bits (R53). -/
def Ctx.compute64 (cx : Ctx) (d : Operand) (srcs : List Operand) (f : Ctx → Nat → W64) : Did :=
  if cx.destWaits64 d then .wait cx.s .issue
  else cx.blockOn64 srcs fun cx => .done (cx.write64 cx.s d (f cx) noOrigin) 0

/-! Immediates (R170). -/

/-- The immediate of format B: the field sign-extended, or below the extension value. -/
def Ctx.immB (cx : Ctx) (i : BitVec 10) : W64 :=
  if cx.h.exts.isEmpty then i.signExtend 64 else cx.ext <<< 10 ||| i.setWidth 64

/-- The immediate of format C. -/
def Ctx.immC (cx : Ctx) (i : BitVec 18) : W64 :=
  if cx.h.exts.isEmpty then i.signExtend 64 else cx.ext <<< 18 ||| i.setWidth 64

end Sys2Proof.Machine
end

