-- ==== Sys2Proof/Machine/Flags.lean ====
section
/-!
DEFINITION. Results that set a sticky flag (R111, R120, R191): a saturating result and whether it was clamped, and the flags of lanes.
-/

namespace Sys2Proof.Machine

/-- An exact value clamped to a range, and whether it was clamped (R111). -/
def clampTo (lo hi v : Int) : Int × Bool := if v < lo then (lo, true) else if hi < v then (hi, true) else (v, false)

/-- A signed sum clamped to the width (R191). -/
def addSatSigned (w : Nat) (a b : BitVec w) : BitVec w × Bool :=
  let r := clampTo (-(2 ^ (w - 1) : Nat)) ((2 ^ (w - 1) : Nat) - 1) (a.toInt + b.toInt)
  (BitVec.ofInt w r.1, r.2)

/-- An unsigned sum clamped to the width (R191). -/
def addSatUnsigned (w : Nat) (a b : BitVec w) : BitVec w × Bool :=
  let r := clampTo 0 ((2 ^ w : Nat) - 1) (a.toNat + b.toNat)
  (BitVec.ofInt w r.1, r.2)

/-- ISAT on each lane that is clamped (R120, R191). -/
def isatOf (clamped : Nat → Bool) (l : Nat) : FlagSet := if clamped l then Flag.isat else 0

/-- A flag on some lanes. -/
def flagAt (f : FlagSet) (ls : List Nat) (l : Nat) : FlagSet := if ls.contains l then f else 0

end Sys2Proof.Machine
end

