-- ==== Sys2Proof/Machine/Issue.lean ====
section
/-!
DEFINITION. Issue: the candidates of a quarter in their order (R47, R140), the fetch of a candidate's group, and what happens
when the fetch does not deliver one (R76, R87, R185, R410). The step runs them; log entry 1 says whose turn it is.
-/

namespace Sys2Proof.Machine

/-! Starvation (R47, R140). -/

/-- Whether a team has been able to issue for 4,096 cycles and has not issued in them (R49, R140). -/
def Team.starved (x : Team) (clock : W64) : Bool :=
  x.open_ && decide (4096 ≤ (clock - x.lastIssue).toNat) && (match x.able with
    | none => false
    | some a => decide (4096 ≤ (clock - a).toNat))

/-- The starved teams of a quarter marked: they are taken first (R140). -/
def State.markTeams (s : State) (c q : Nat) : State :=
  let mark (e : Nat × Team) : Nat × Team :=
    if decide (e.1 < 32) && e.2.quarter == q && e.2.starved s.clock then (e.1, { e.2 with due := true }) else e
  s.onCore c fun k => { k with teams := k.teams.map mark }

/-- The splinters of a team that have not issued for 1,024 of its passes marked: they take precedence (R47). -/
def Team.markSplinters (x : Team) : Team :=
  { x with splinters := x.splinters.map fun p => if p.tried then p.marked else p }

/-! Candidates. -/

/-- Something that a quarter may do at its turn: take a pending condition of a team, or try a splinter. -/
inductive Candidate where
  | condition (t : Nat)
  | splinter (t n : Nat)
  deriving DecidableEq, Repr

/-- The candidates of a team: its pending condition first (R354), else its splinters in their order (R47). -/
def Team.candidates (x : Team) (t : Nat) (pending : Bool) : List Candidate :=
  if x.inSys then (if ((x.splinterAt 0).map Splinter.tried).getD false then [.splinter t 0] else [])
  else if pending && x.saver.isNone && x.conditionSplinter.isSome then [.condition t]
  else x.markSplinters.tries.map fun n => .splinter t n

/-- The candidates of a quarter, in the order of R140. -/
def State.candidates (s : State) (c q : Nat) : List Candidate :=
  let s := s.markTeams c q
  ((s.core c).teamOrder q).flatMap fun t => match s.team? c t with
    | none => []
    | some x => x.candidates t (s.firstPending c t x).isSome

/-! Trying a splinter. -/

/-- What a try finds: an instruction to run, with the group at issue set, or a state in which nothing of it runs. -/
inductive Try where
  | run (i : Instr) (s : State)
  | stop (s : State)
  deriving DecidableEq, Repr

/-- The quarter issues a team (R140): the instruction counts for the team's partition, outside system mode (R406). -/
def State.issued (s : State) (c t q : Nat) : State :=
  let s := match s.team? c t with
    | some x => if x.inSys then s else s.counted x.part .issue
    | none => s
  (s.onCore c fun k => { k with last := k.last.put q t }).onTeam c t fun x => { x with due := false, lastIssue := s.clock }

/-- The TLBs after the words of a group were fetched (R86). -/
def State.fillFetch (s : State) (w : Who) (lane a n : Nat) : State :=
  (List.range n).foldl (fun s k => s.fillSpot w lane ((a + 4 * k) % 2 ^ 64)) s

/-- A fetch that brings no word: a fault holds the splinter and queues a record; an address unmappable by form queues an
informational record and traps, in system mode doubly; a poisoned line is consumed, and the team, if it is still there, traps (R76, R87, R358,
R380, R410, log entry 18). -/
def State.fetchFails (s : State) (c t n : Nat) (x : Team) (p : Splinter) (a : Nat) (f : Fetched) : State :=
  let ia := if p.half then p.pc ||| 1 else p.pc
  let r : FaultRecord :=
    { addr := BitVec.ofNat 64 a, pc := p.pc, core := c, tslot := t % 32, part := (x.who c x.inSys).part, kind := .fetch, size := 4 }
  let glen := s.groupLen (x.who c x.inSys) (lowLane p.mask) p.pc.toNat
  let trapFetch (s : State) : State :=
    s.trapOn c t n { cause := .fetch, eiaddr := ia, lanes := p.mask, glen := glen } (some (BitVec.ofNat 64 a))
  match f with
  | .word _ => s
  | .fault k =>
    if x.inSys then s.doubleTrap c t .xlate k.code (BitVec.ofNat 64 a)
    else (s.onSplinter c t n fun p => { p with st := .fetchHeld (BitVec.ofNat 64 a) }).queueRecord { r with cause := k }
  | .form => trapFetch (s.queueRecord { r with cause := .unmappable, info := true })
  | .table tag | .poison tag =>
    let s' := s.consume x.inSys tag
    if x.inSys || 8 ≤ tag || tag = x.part then s' else trapFetch s'

/-- A splinter of a team tried: its armed dictionary entry (R184), or the group at its program counter. -/
def State.try_ (s : State) (c q t n : Nat) : Try :=
  match s.team? c t with
  | none => .stop s
  | some x => match x.splinterAt n with
    | none => .stop s
    | some p =>
      let cur : Issue := { valid := true, core := c, slot := t, spl := n }
      match p.armed with
      | some (w, pair) => match decodeWord w with
        | some i => .run i { s.issued c t q with cur := { cur with word := w, dictLo := some p.half, dictPair := pair } }
        | none => .stop s
      | none =>
        let who := x.who c x.inSys
        let lane := lowLane p.mask
        match s.fetchGroup who lane 6 {} 0 p.pc.toNat with
        | .group h i len w =>
          .run i { (s.fillFetch who lane p.pc.toNat len).issued c t q with cur := { cur with hints := h, len := len, word := w } }
        | .illegal len =>
          .stop ((s.issued c t q).trapOn c t n
            { cause := .illegal, eiaddr := if p.half then p.pc ||| 1 else p.pc, lanes := p.mask, glen := len } none)
        | .stuck a f => .stop ((s.issued c t q).fetchFails c t n x p a f)

/-- Whether a splinter waits at issue. -/
def Splinter.waits (p : Splinter) : Bool :=
  match p.st with
  | .waiting _ => true
  | _ => false

/-- Whether a try left its splinter waiting at issue with nothing of its instruction performed. -/
def State.onlyWaited (s s' : State) (c t n : Nat) : Bool :=
  match s.team? c t, s'.team? c t with
  | some x, some y => match x.splinterAt n, y.splinterAt n with
    | some p, some q =>
      q.mask == p.mask && q.pc == p.pc && q.half == p.half && q.did == p.did && q.reads == p.reads && y.inSys == x.inSys &&
        (q.st == .waiting .issue || q.stalls || (q.st == p.st && q.waits))
    | _, _ => false
  | _, _ => false

/-- The state after a candidate merely waits: it is marked as waiting, and nothing has issued, so the quarter's last team, the time of its own
team, and the count of its partition are as they were (R140, R406). -/
def State.allWait (s s' : State) (c t : Nat) : State :=
  let s' := s'.onCore c fun k => { k with last := (s.core c).last }
  match s.team? c t with
  | none => s'
  | some x =>
    let s' := s'.onTeam c t fun y => { y with due := x.due, lastIssue := x.lastIssue }
    if x.inSys then s' else s'.onPart x.part fun q => { q with issues := (s.part x.part).issues }

/-- The turn is over: nothing stands at issue. -/
def State.finish (s : State) : State := { s with cur := {} }


end Sys2Proof.Machine
end

