-- ==== Sys2Proof/Machine/Agenda.lean ====
section
/-!
DEFINITION. A word placed where the next step fetches (log entry 10).
-/

namespace Sys2Proof.Machine

/-- Where the placed tables and the placed page stand. -/
def placedRoot : Nat := 0x10000
def placedL1 : Nat := 0x20000
def placedPage : Nat := 0x10000000000

/-- Tables that map the 2 GiB page of an address to the placed page, with permissions. -/
def State.placeTables (s : State) (va flags : Nat) : State :=
  (s.write (placedRoot + 8 * (va / 2 ^ 43 % 8192)) (leBytes 8 (placedL1 + 1))).write
    (placedL1 + 8 * (va / 2 ^ 31 % 4096)) (leBytes 8 (placedPage + flags))

/-- Whether a word is privileged, so that only a team in system mode runs it (R174). -/
def privileged (w : Nat) : Bool := decide (w / 2 ^ 26 % 64 = 0x3D) && decide (w / 2 ^ 20 % 64 ≠ 0)

/-- A team of one lane in slot 0 of core 0 that stands at an address. -/
def placedTeam (sys : Bool) (va : Nat) : Team :=
  { entry := { v := true, rg := 15, wg := 7, code := BitVec.ofNat 64 va, dict := BitVec.ofNat 64 (bulkBase + 0x1000) }
    items := [{}]
    splinters := if sys then [] else [{ pc := BitVec.ofNat 64 va, mask := 1 }]
    sys := if sys then some { formed := true, pc := BitVec.ofNat 64 va } else none }

/-- A word, with zeros behind it, placed where the next step fetches: a page in bulk memory, mapped for a team of partition 0
on core 0, or, for a privileged word, for a team formed in system mode; the next turn is that of its quarter. -/
def State.placeWord (s : State) (w : Nat) : State :=
  let sys := privileged w
  let va := if sys then sysBase else bulkBase
  let s := (s.placeTables va (if sys then 0x1F else 0xF)).write placedPage (leBytes 4 w ++ List.replicate 20 0)
  let s := if sys then { s with sysroot := BitVec.ofNat 64 placedRoot }
    else s.onPart 0 fun p => { p with root := BitVec.ofNat 64 placedRoot }
  let s := s.onCore 0 fun k => { k with teams := [(0, placedTeam sys va)], last := [] }
  { s with power := .run, poisoned := [], tlb := [], agenda := [.issue 0 0], cur := {} }

end Sys2Proof.Machine
end

