-- ==== Sys2Proof/Machine/Peers.lean ====
section
/-!
DEFINITION. Peer accesses at the peer: translation through the peer tree, nacks (R317-R319), and the replication of multicast
writes (R320, R321, R332).
-/

namespace Sys2Proof.Machine

/-! Values of atomics (R228, R329), at w = 32 or 64 bits. -/

/-- The location's new value. -/
def atomValue (op : AtomOp) (w : Nat) (old v c : Nat) : Nat :=
  let o := BitVec.ofNat w old
  let x := BitVec.ofNat w v
  match op with
  | .add => (o + x).toNat
  | .addSatN => min (o.toNat + x.toNat) (2 ^ w - 1)
  | .fadd => (fpAdd .rn (BitVec.ofNat 32 old) (BitVec.ofNat 32 v)).1.toNat
  | .xchg => x.toNat
  | .minI => if x.slt o then x.toNat else o.toNat
  | .maxI => if o.slt x then x.toNat else o.toNat
  | .minN => min o.toNat x.toNat
  | .maxN => max o.toNat x.toNat
  | .andB => (o &&& x).toNat
  | .orB => (o ||| x).toNat
  | .xorB => (o ^^^ x).toNat
  | .cas => if o = BitVec.ofNat w c then x.toNat else o.toNat

/-- Whether a saturating addition clamps. -/
def atomClamps (op : AtomOp) (w : Nat) (old v : Nat) : Bool :=
  match op with
  | .addSatN => decide (2 ^ w ≤ old % 2 ^ w + v % 2 ^ w)
  | _ => false

/-! The peer tree (R317, R318). -/

/-- What a peer access finds: physical parts, a refusal, or a poisoned table line. -/
inductive PeerSpot where
  | memory (parts : List (Nat × Nat))
  | refuse
  | table (tag : Nat)
  deriving DecidableEq, Repr

/-- One part of a peer access translated; X is ignored (R317). -/
def State.peerPart (s : State) (p off n : Nat) (writes : Bool) : PeerSpot :=
  let root := (s.part p).peerroot.toNat
  if root = 0 then .refuse
  else match s.lookup [.peer] p true root off with
    | .fail _ => .refuse
    | .poison line => .table (s.ownerTag (64 * line))
    | .leaf base _ frame w _ sp => if sp || (writes && !w) then .refuse else .memory [(frame + (off - base), n)]

/-- Two parts' outcomes joined; a poisoned table line outranks a refusal. -/
def PeerSpot.join : PeerSpot → PeerSpot → PeerSpot
  | .table t, _ | _, .table t => .table t
  | .refuse, _ | _, .refuse => .refuse
  | .memory a, .memory b => .memory (a ++ b)

/-- A lane's peer access translated whole. -/
def State.peerTarget (s : State) (p off n : Nat) (writes : Bool) : PeerSpot :=
  (lineParts off n).foldl (fun r q => r.join (s.peerPart p q.1 q.2 writes)) (.memory [])

/-- The peer unit's TLB after a lane was translated. -/
def State.fillPeer (s : State) (p off n : Nat) : State :=
  let root := (s.part p).peerroot.toNat
  if root = 0 then s
  else (lineParts off n).foldl (fun s q => s.fillTlb [.peer] p (s.lookup [.peer] p true root q.1)) s

/-- One lane of a request performed: the new memory and the value that answers it. A poisoned line of data is read as its bytes stand: that is none
of the consumptions of R380, nor a case in which R318 has a nack (DEDUCED, log entry 38). -/
def State.serveLane (s : State) (m : PeerMsg) (ps : List (Nat × Nat)) (v c : BitVec 64) : State × BitVec 64 :=
  let old := leNat (s.readParts ps)
  match m.kind with
  | .read => (s, BitVec.ofNat 64 old)
  | .write => (s.writeParts ps (leBytes m.size v.toNat), 0)
  | .atomic op => (s.writeParts ps (leBytes m.size (atomValue op (8 * m.size) old v.toNat c.toNat)), BitVec.ofNat 64 old)

/-- A lane of a request: its place in the request, its offset, value and compare value. -/
abbrev PeerLane := Nat × Nat × BitVec 64 × BitVec 64

/-- Lanes that have translated performed in order (R216): each lane's place and the value that answers it. -/
def State.serveLanes (s : State) (m : PeerMsg) : List (PeerLane × List (Nat × Nat)) → State × List (Nat × BitVec 64)
  | [] => (s, [])
  | ((i, _, v, c), ps) :: rest =>
    let (s, r) := s.serveLane m ps v c
    let (s, rs) := s.serveLanes m rest
    (s, (i, r) :: rs)

/-- Lanes of a request refused: a nack that names them, and an error report with the offset of the first (R318). -/
def State.refusePeer (s : State) (m : PeerMsg) (bad : List PeerLane) : State :=
  if bad = [] then s
  else
    (s.send (.nack m.src m.part m.tag (bad.map fun l => l.1))).raise 0x0004 0 (some m.part)
      (BitVec.ofNat 64 ((bad.map fun l => l.2.1).headD 0)) (BitVec.ofNat 32 m.src)

/-- A peer request served: every lane translated, then those that translate performed and answered, and the others refused. A poisoned line of
the peer tree is consumed; where the partition does not survive that, no lane is performed (R317, R318, R410). -/
def State.servePeer (s : State) (m : PeerMsg) : State :=
  let ls : List (PeerLane × PeerSpot) :=
    ((List.range m.lanes.length).zip m.lanes).map fun l => (l, s.peerTarget m.part l.2.1 m.size (m.kind != .read))
  let tags := (ls.filterMap fun l => match l.2 with
    | .table t => some t
    | _ => none).eraseDups
  let s := s.consumeAll false tags
  if tags.any fun t => decide (8 ≤ t) || t == m.part then s.refusePeer m (ls.map fun l => l.1)
  else
    let good := ls.filterMap fun l => match l.2 with
      | .memory ps => some (l.1, ps)
      | _ => none
    let bad := (ls.filter fun l => match l.2 with
      | .memory _ => false
      | _ => true).map fun l => l.1
    let s := good.foldl (fun s l => s.fillPeer m.part l.1.2.1 m.size) s
    let (s, rs) := s.serveLanes m good
    let s := if m.kind = .write then s.clearWhole (good.map fun l => l.2).flatten else s
    let s := if good = [] && bad != [] then s
      else match m.kind with
        | .read => s.send (.values m.src m.part m.tag rs)
        | .write | .atomic _ => s.send (.ack m.src m.part m.tag rs)
    s.refusePeer m bad

/-! Multicast (R320, R321, R332). -/

/-- The members of a group, in order (R320). DESIGN CHOICE: bits [15:9] of a list entry, which R320 gives as zero, are not looked at (log entry 12). -/
def State.members (s : State) (g : McastGroup) : List Nat :=
  (List.range (g.nm + 1)).map fun k => s.word (g.mlist.toNat + 2 * k) 2 % 512

/-- A device's position among the members. -/
def State.memberAt (s : State) (group dev : Nat) : Option Nat :=
  indexOf? (fun d => d == dev) (s.members (s.groups.atD group {}))

/-- The words of a flit with their offsets. -/
def mcastCells (m : McastMsg) : List (Nat × BitVec 32) :=
  ((List.range m.words.length).zip m.words).map fun e => ((m.addr + 4 * e.1) % 2 ^ 44, e.2)

/-- Whether two flits belong to one `mcst`. -/
def sameMcast (m n : McastMsg) : Bool := m.src == n.src && m.tag == n.tag && m.group == n.group

/-- The lines that a multicast of this device has written at this device itself, dropped from the read cache of the core that issued it (R79, R102,
R108). -/
def State.dropOwn (s : State) (m : McastMsg) (ps : List (Nat × Nat)) : State :=
  match s.txs.find? fun x => x.relay.isNone && x.acc.op == .mcst && x.tag == m.tag && m.src == s.devid.toNat with
  | none => s
  | some x => ps.foldl (fun s p => s.dropLines x.core x.acc.part p.1 p.2) s

/-- A member's writes: all of them where every word translates, else none, with an error report (R318, R321). -/
def State.memberWrite (s : State) (m : McastMsg) (cells : List (Nat × BitVec 32)) : State × Bool :=
  let p := (s.groups.atD m.group {}).part
  let ts := cells.map fun w => s.peerTarget p w.1 4 true
  let tags := (ts.filterMap fun t => match t with
    | .table t => some t
    | _ => none).eraseDups
  let ps := ts.filterMap fun t => match t with
    | .memory ps => some ps
    | _ => none
  if ps.length = cells.length then
    let s := cells.foldl (fun s w => s.fillPeer p w.1 4) s
    let s := (cells.zip ps).foldl (fun s w => s.writeParts w.2 (leBytes 4 w.1.2.toNat)) s
    ((s.clearWhole ps.flatten).dropOwn m ps.flatten, true)
  else
    (((s.consumeAll false tags).raise 0x0004 0 (some p) (BitVec.ofNat 64 ((cells.map fun w => w.1).headD 0)) (BitVec.ofNat 32 m.src)), false)

/-- A flit of a multicast write arrives at a member: when it is the last of its `mcst`, the member performs them all, or none. Answers whether
the member has answered, and how (R321, R332). All flits are translated when the last has come (DEDUCED, log entry 49: R332 has a member perform all
words or none, and does not say when it translates them). -/
def State.memberTakes (s : State) (m : McastMsg) : State × Option Bool :=
  let have_ := (s.mcasts.filter fun n => sameMcast n m && n.index != m.index) ++ [m]
  if have_.length < m.count then ({ s with mcasts := s.mcasts ++ [m] }, none)
  else
    let s := { s with mcasts := s.mcasts.filter fun n => !sameMcast n m }
    let (s, ok) := s.memberWrite m (have_.flatMap mcastCells)
    (s, some ok)

/-- A column's ack: joined to the multicast of this device that awaits it, or sent to the issuing router (R321, R332). -/
def State.joinColumn (s : State) (src part tag col : Nat) (ack : BitVec 512) : State :=
  if src = s.devid.toNat then
    { s with txs := s.txs.map fun x =>
        if x.relay.isNone && x.acc.op == .mcst && x.tag == tag && x.columns.contains col then
          { x with ack := x.ack ||| ack, columns := x.columns.filter fun c => c != col }
        else x }
  else s.send (.mcastAck src part tag col ack)

/-- A member of this router's column has answered: its bit joins those of the column, whose last answer makes the column's ack (R321, R332). -/
def State.memberAnswer (s : State) (x : Transaction) (key : Nat × Nat) (ok : Bool) : State :=
  let ack := if ok then x.ack ||| (1#512 <<< x.peer) else x.ack
  let s : State := { s with txs := s.txs.filter fun y => y != x }
  if s.txs.any fun y => y.relay == some key then
    { s with txs := s.txs.map fun y => if y.relay == some key then { y with ack := y.ack ||| ack } else y }
  else s.joinColumn key.1 x.acc.part key.2 (devCol s.devid.toNat) ack

/-- The members of this router's column that a multicast is for: position and device. -/
def State.columnMembers (s : State) (m : McastMsg) : List (Nat × Nat) :=
  let ms := s.members (s.groups.atD m.group {})
  (((List.range ms.length).zip ms).filter fun e => devCol e.2 == devCol s.devid.toNat)

/-- The transactions that await the members of a router's column: opened at the first flit, one for each member, of no core's team (R321). -/
def State.openRelay (s : State) (m : McastMsg) : State :=
  let key := some (m.src, m.tag)
  if s.txs.any fun x => x.relay == key then s
  else
    let p := (s.groups.atD m.group {}).part
    (s.columnMembers m).foldl (fun s e =>
      { s with
        tagCtr := s.tagCtr + 1
        txs := s.txs ++ [{ tag := s.tagCtr % 65536, core := 256, slot := e.2, peer := e.1, relay := key, since := s.clock, acc := { part := p } }] }) s

/-- A flit of a multicast write at a router of the source's row: its own device takes it when it is a member, and every other member of the
column is sent a copy (R321). A copy bears this router as SRC, a tag of this router's own, and HOP 0 (DEDUCED, log entry 49: R332 does not say
what it bears). -/
def State.replicate (s : State) (m : McastMsg) : State :=
  let own := s.devid.toNat
  let key := some (m.src, m.tag)
  let s := s.openRelay m
  if s.columnMembers m = [] then s.joinColumn m.src (s.groups.atD m.group {}).part m.tag (devCol own) 0
  else
    let s := (s.txs.filter fun x => x.relay == key && x.slot != own).foldl (fun s x =>
      s.send (.mcast x.slot x.acc.part { m with src := own, tag := x.tag })) s
    match s.txs.find? fun x => x.relay == key && x.slot == own with
    | none => s
    | some x => match s.memberTakes m with
      | (s, none) => s
      | (s, some ok) => s.memberAnswer x (m.src, m.tag) ok

end Sys2Proof.Machine
end

