-- ==== Sys2Proof/Machine/Access.lean ====
section
/-!
DEFINITION. Accesses of lanes: their addresses (R55, R215, R326), the order in which they may be performed (R69, R108),
performing them (R70-R80, R87, R88, R95), the ordered-store buffer (R39-R42, R221), and the queue of those that wait.
-/

namespace Sys2Proof.Machine

/-! Forms (R64, R67). -/

/-- The key of a lane in a form: a uniform operand keeps everything at key 0. -/
def Form.key (f : Form) (l : Nat) : Nat := if f.uni then 0 else l

/-- The value of a known form on a lane. -/
def Form.at_ (f : Form) (l : Nat) : W64 := f.off.atD (f.key l) 0

/-- The poison of a form on a lane. -/
def Form.poisAt (f : Form) (l : Nat) : Option Origin := f.pois.at? (f.key l)

/-- Whether a form is known. -/
def Form.known (f : Form) : Bool := f.sym.isNone

/-- A form of one value. -/
def Form.const (v : W64) : Form := { uni := true, off := SMap.store 0 [] 0 v }

/-- The value of a form for an element X of its symbol: an integer form modulo 2^64, a float form rounded once (R64, R67). -/
def formValue (flt half : Bool) (scale off x : W64) : W64 :=
  let x := if half then x >>> 32 else x
  if flt then
    (fpFma .rn (scale.setWidth 32) (x.setWidth 32) (off.setWidth 32)).1.setWidth 64
  else scale * x + off

/-- The lanes whose value a form takes from its own offset alone: those that took no part in the access (R58, R63). A float
form reads the offset as FP32. -/
def formAlone (flt : Bool) (off : W64) : W64 :=
  if flt && isNaN32 (off.setWidth 32) then CNAN.setWidth 64 else off

/-- The element X and its poison at a symbol's lowest lane, which a uniform operand takes. -/
def Symbol.whole (y : Symbol) : W64 × Option Origin := (y.vals.atD (lowLane y.lanes) 0, y.pois.at? (lowLane y.lanes))

/-- The element X and its poison that a form reads on a lane; none on a lane that took no part, or that was packed later (R58, R63). -/
def Symbol.at_ (y : Symbol) (alone : Mask) (l : Nat) : Option (W64 × Option Origin) :=
  if alone.getLsbD l then none
  else if y.uni then some y.whole
  else if y.lanes.getLsbD l then some (y.vals.atD l 0, y.pois.at? l)
  else none

/-- A form's value for what it reads of its symbol. -/
def formOver (flt half : Bool) (scale off : W64) : Option (W64 × Option Origin) → W64
  | some (x, _) => formValue flt half scale off x
  | none => formAlone flt off

/-- A form's poison for what it reads of its symbol. -/
def poisonOver (o : Option Origin) : Option (W64 × Option Origin) → Option Origin
  | some (_, p) => joinOrigin p o
  | none => o

/-- A form made known by a resolved symbol, on some lanes (R68). -/
def Form.resolve (f : Form) (n : Nat) (y : Symbol) (lanes : Mask) : Form :=
  if f.sym != some n then f
  else if f.uni then
    { uni := true, off := SMap.store 0 [] 0 (formOver f.flt f.half f.scale (f.off.atD 0 0) (some y.whole))
      pois := match poisonOver (f.pois.at? 0) (some y.whole) with
        | some o => [(0, o)]
        | none => [] }
  else
    { off := (lanesOf lanes).filterMap fun l =>
        let v := formOver f.flt f.half f.scale (f.off.atD l 0) (y.at_ f.alone l)
        if v = 0 then none else some (l, v)
      pois := (lanesOf lanes).filterMap fun l => (poisonOver (f.pois.at? l) (y.at_ f.alone l)).map fun o => (l, o) }

/-- An access whose operands are made known by a resolved symbol. -/
def Access.resolve (a : Access) (n : Nat) (y : Symbol) : Access :=
  { a with
    base := a.base.resolve n y a.lanes
    peers := a.peers.map fun f => f.resolve n y a.lanes
    idx := a.idx.resolve n y a.lanes
    data := a.data.resolve n y a.lanes
    dataHi := a.dataHi.map fun f => f.resolve n y a.lanes
    s3 := a.s3.resolve n y a.lanes
    s3Hi := a.s3Hi.map fun f => f.resolve n y a.lanes }

/-- The value of an operand on a lane: a form, or the two of a pair, each of 32 bits (R53). -/
def pairAt (lo : Form) (hi : Option Form) (l : Nat) : W64 :=
  match hi with
  | none => lo.at_ l
  | some h => (h.at_ l <<< 32) ||| ((lo.at_ l).setWidth 32).setWidth 64

/-- The data of a lane. -/
def Access.dataAt (a : Access) (l : Nat) : W64 := pairAt a.data a.dataHi l

/-- The compare or third operand of a lane. -/
def Access.s3At (a : Access) (l : Nat) : W64 := pairAt a.s3 a.s3Hi l

/-! Addresses (R55, R215, R224, R326, R330). -/

/-- The bytes of a lane's access. -/
def AccessOp.size : AccessOp → Nat
  | .load n _ | .store n | .atom _ n | .record n | .probe n | .ratom _ n => n
  | .zeroLine => 64
  | .rload _ | .rstore | .mcst => 4
  | .fence _ _ => 0

/-- The index of a lane: 32 bits of a vector register, 64 of a uniform one. -/
def Access.index (a : Access) (l : Nat) : W64 :=
  if a.idx.uni then a.idx.at_ l else ((a.idx.at_ l).setWidth 32).setWidth 64

/-- The peer that a lane of a vector of peers names: 32 bits (R326). -/
def Form.peer (f : Form) (l : Nat) : W64 := ((f.at_ l).setWidth 32).setWidth 64

/-- The address that a lane forms; of `zero`, that of its line; of `mcst`, the offset at the members. -/
def Access.addr (a : Access) (l : Nat) : W64 :=
  match a.op with
  | .mcst =>
    ((a.base.at_ l).extractLsb' 0 44 + (a.index l * 4 + a.ext).setWidth 44).setWidth 64
  | .zeroLine => (a.base.at_ l + a.index l * 64 + a.ext) &&& ~~~63#64
  | op =>
    let b := match a.peers with
      | some f => BitVec.ofNat 64 peerBase + (f.peer l <<< 44)
      | none => a.base.at_ l
    b + a.index l * BitVec.ofNat 64 op.size + a.ext

/-- Whether the address operands are known. -/
def Access.addrKnown (a : Access) : Bool :=
  a.base.known && a.idx.known && (match a.peers with
    | some f => f.known
    | none => true)

/-- Whether every operand is known. -/
def Access.ready (a : Access) : Bool :=
  a.addrKnown && a.data.known && a.dataHi.all Form.known && a.s3.known && a.s3Hi.all Form.known

/-- The poison of a lane's address. -/
def Access.addrPois (a : Access) (l : Nat) : Option Origin :=
  joinOrigin (a.base.poisAt l) (joinOrigin (a.idx.poisAt l) (match a.peers with
    | some f => f.poisAt l
    | none => none))

/-- The operands of an access. -/
def Access.forms (a : Access) : List Form :=
  [a.base, a.idx] ++ a.peers.toList ++ [a.data] ++ a.dataHi.toList ++ [a.s3] ++ a.s3Hi.toList

/-- The lanes of an access that wait and have a poisoned operand, with each origin that meets there (R70). -/
def Access.origins (a : Access) : List (Nat × Origin) :=
  (lanesOf a.left).flatMap fun l => ((a.forms.filterMap fun f => f.poisAt l).eraseDups).map fun o => (l, o)

/-! Order (R108, R331). -/

/-- A read for the memory model (R97). -/
def AccessOp.reads : AccessOp → Bool
  | .load _ _ | .record _ | .rload _ | .atom _ _ | .ratom _ _ => true
  | _ => false

/-- Whether the operation is a marker (R69). -/
def AccessOp.marks : AccessOp → Bool
  | .fence _ _ => true
  | _ => false

/-- Membership of an operation in a set of a fence: bit 3 R, bit 2 W (R175). -/
def AccessOp.inSet (op : AccessOp) (set : BitVec 4) : Bool :=
  (op.reads && set.getLsbD 3) || (op.writes && set.getLsbD 2)

/-- The byte ranges of the lanes that wait, private addresses as their aliases (R75, R95). -/
def Access.spans (w : Who) (dev : Nat) (a : Access) : List (Nat × Nat) :=
  (lanesOf a.left).map fun l =>
    let v := (a.addr l).toNat
    ((w.place dev l v).getD v, a.op.size)

/-- Whether an earlier access that waits holds a later one back (R69, R108, R331). DEDUCED (log entry 65): a release that waits holds back what
its row of R108's table, that of a known or unknown address, names, so that a later acquire at other, known bytes may be performed before it: R98
names RVWMO without saying which of its two kinds of annotation `.acq` and `.rel` are, and R108 gives a release no successor set. -/
def Access.blocks (w : Who) (dev : Nat) (e a : Access) : Bool :=
  match e.op with
  | .fence _ succ => a.op.inSet succ
  | _ =>
    e.acq || a.rel || e.op == .mcst || a.op == .mcst ||
      (if !e.addrKnown then (if e.op.writes then true else a.op.writes)
       else a.addrKnown && (e.spans w dev).any fun x => (a.spans w dev).any fun y => overlaps x.1 x.2 y.1 y.2)

/-- Whether an earlier access holds a marker back (R231). -/
def Access.holdsMarker (e : Access) (pred : BitVec 4) : Bool := !e.op.marks && e.op.inSet pred

/-- The accesses of a team that wait and come before one in program order; to an access of a handler, those of the frozen program among them
(R108, log entry 23). -/
def State.earlier (s : State) (c t : Nat) (a : Access) : List Access :=
  (s.waitingOf c t).filter fun e => decide (e.order < a.order)

/-- Whether an access may be performed as far as the team's earlier accesses go (R108). -/
def State.mayPerform (s : State) (c t : Nat) (w : Who) (a : Access) : Bool :=
  (s.earlier c t a).all fun e => match a.op with
    | .fence pred _ => !e.holdsMarker pred
    | _ => !e.blocks w s.devid.toNat a

/-! Locks (R95). -/

/-- Whether a lane of an access hits a range lock of its core (R95). -/
def State.hitsLock (s : State) (w : Who) (a : Access) : Option Nat :=
  (lanesOf a.left).find? fun l =>
    a.op != .mcst && (a.addrPois l).isNone &&
      (let v := (a.addr l).toNat
       let p := (w.place s.devid.toNat l v).getD v
       (s.core w.core).locked w.part a.op.writes p a.op.size)

/-- The lanes that hit a lock. -/
def State.lockLanes (s : State) (w : Who) (a : Access) : Mask :=
  maskWhere a.left fun l => (s.hitsLock w { a with lanes := laneBit l, done := 0 }).isSome

/-- The alignment that an operation asks of its address (R80, R326, R330). -/
def AccessOp.aligned : AccessOp → Nat
  | .atom _ n | .ratom _ n => n
  | .rload _ | .rstore | .mcst => 4
  | _ => 1

/-- The lanes whose known address is misaligned. -/
def Access.misaligned (a : Access) : Mask :=
  maskWhere a.left fun l => (a.addrPois l).isNone && (a.addr l).toNat % a.op.aligned != 0

/-! What becomes of each lane. -/

/-- What becomes of a lane: its address is poison, it is unmappable or answered so, its translation failed, it goes to a peer, in part
to the next one where it crosses from a window into another (R78), or it reaches memory. -/
inductive Fate where
  | poison (o : Origin)
  | refused (c : FaultCause)
  | fault (c : FaultCause)
  | remote (dev off : Nat) (cross : Bool)
  | memory (parts : List (Nat × Nat))
  deriving DecidableEq, Repr

/-- The kind of an access in a fault record (R89). -/
def AccessOp.kind : AccessOp → AccessKind
  | .load _ _ | .record _ | .rload _ | .fence _ _ => .load
  | .store _ | .zeroLine | .probe _ | .rstore | .mcst => .store
  | .atom _ _ | .ratom _ _ => .atomic

/-- The parts of a lane's access. -/
def Access.parts (a : Access) (l : Nat) : List (Nat × Nat) :=
  match a.op with
  | .probe n => chunksOf (a.addr l).toNat n
  | op => lineParts (a.addr l).toNat op.size

/-- Several parts translated. -/
def State.targetParts (s : State) (w : Who) (k : AccessKind) (lane : Nat) : List (Nat × Nat) → Target
  | [] => .memory []
  | (b, m) :: rest => s.joinParts w k lane ((s.spot w k lane b).target m) rest

/-- A lane of an instruction of major 0x2C: its peer and offset (R326). -/
def Access.remoteFate (a : Access) (dev l : Nat) : Fate :=
  let v := (a.addr l).toNat
  let p := (v - peerBase) / windowSize
  if v < peerBase || peerEnd ≤ v || p = dev || (match a.peers with
      | some f => decide (511 < (f.peer l).toNat)
      | none => false) then .refused .unmappable
  else .remote p ((v - peerBase) % windowSize) false

/-- What becomes of a lane, and the tags of the poisoned table lines that its walks read (R76, R80, R85, R410). -/
def State.fate (s : State) (w : Who) (a : Access) (l : Nat) : Fate × List Nat :=
  match a.addrPois l with
  | some o => (.poison o, [])
  | none =>
    if (a.addr l).toNat % a.op.aligned != 0 then (.refused .align, [])
    else match a.op with
      | .rload _ | .rstore | .ratom _ _ => (a.remoteFate s.devid.toNat l, [])
      | op => match s.targetParts w op.kind l (a.parts l) with
        | .form => (.refused .unmappable, [])
        | .table ts => (.refused .tablePoison, ts)
        | .fault c => (.fault c, [])
        | .peer d o => (if op matches .probe _ then .memory [] else .remote d o false, [])
        | .cross d o => (if op matches .probe _ then .memory [] else .remote d o true, [])
        | .memory ps => (.memory ps, [])

/-! Delivery (R63, R219, R228). -/

/-- Values delivered to a symbol. -/
def Symbol.put (y : Symbol) (l : Nat) (v : W64) (o : Option Origin) : Symbol :=
  { y with
    arrived := y.arrived ||| laneBit l
    vals := SMap.store 0 y.vals l v
    pois := match o with
      | some o => y.pois.put l o
      | none => y.pois }

/-- The splinter that waits for the values of an access that delivers directly. -/
def Team.awaiting (x : Team) (a : Access) : Option Nat :=
  indexOf? (fun (p : Splinter) => (if p.half then p.pc ||| 1 else p.pc) == a.pc && p.mask &&& a.lanes != 0) x.splinters

/-- A lane's result delivered: to its symbol, or to the splinter that waits for it. -/
def State.deliver (s : State) (c t : Nat) (a : Access) (l : Nat) (bs : List Byte) (o : Option Origin) : State :=
  if a.direct then
    let bad (m : SMap Origin) : SMap Origin := match o with
      | some o => m.put l o
      | none => m
    s.onTeam c t fun x =>
      let l := l + 1024 * a.seat
      if a.sys then { x with sys := x.sys.map fun y => { y with reads := y.reads.put l bs, readBad := bad y.readBad } }
      else match x.awaiting a with
        | none => x
        | some n =>
          let wrote : Mask := match a.op with
            | .atom _ _ | .ratom _ _ => laneBit l
            | _ => 0
          let take (p : Splinter) : Splinter := { p with reads := p.reads.put l bs, readBad := bad p.readBad, wrote := p.wrote ||| wrote }
          { x with splinters := modAt take x.splinters n }
  else match a.rsym with
    | none => s
    | some n =>
      let v := BitVec.ofNat 64 (leNat bs)
      let v := match a.op with
        | .load n true => sext64 (8 * n) v
        | .rload true => sext64 32 v
        | _ => v
      s.onCore c fun k => { k with syms := k.syms.put n ((k.syms.atD n {}).put l v o) }

/-- Address poison delivered to every lane that waits (R70, R95). -/
def State.deliverPoison (s : State) (c t : Nat) (a : Access) (m : Mask) : State :=
  (lanesOf m).foldl (fun s l => s.deliver c t a l [] (some .addr)) s

/-- The bits of p15 that an atomic or a multicast returns, on some lanes (R218); lanes that `refill` has packed anew since its issue keep theirs
(R30, R212). -/
def State.returnP15 (s : State) (c t : Nat) (a : Access) (m : Mask) (f : Nat → Bool) : State :=
  if !a.p15 then s
  else s.onTeam c t fun x =>
    let m' := (if a.spread = 0 then m else a.spread) &&& (if a.sys then BitVec.allOnes 1024 else ~~~x.packedAfter a.order)
    let g (l : Nat) : Bool := f (if a.spread = 0 then l else lowLane m)
    let bits (old : Mask) : Mask := (old &&& ~~~m') ||| maskWhere m' g
    if a.sys then
      match x.sys with
      | none => x
      | some y =>
        let b := (1#16) <<< 15
        { x with sys := some { y with preds := if (bits 0).getLsbD 0 then y.preds ||| b else y.preds &&& ~~~b } }
    else { x with preds := SMap.store 0 x.preds 15 (bits (x.preds.atD 15 0)) }

/-! Held stores (R39-R42, R221). -/

/-- Whether the buffer has room for one more entry of a position: its flow's reserve, where it is the oldest of the flow on the core, or the
shared space (R42). -/
def State.osRoom (s : State) (c id : Nat) : Bool :=
  let k := s.core c
  let olds := (s.reserves c).map fun e => e.2.2
  (olds.contains id && decide (k.heldBy id < 64)) || decide (k.sharedUsed olds < sharedSpace olds.length)

/-- The entry of an instruction's store for a line of a position, without bytes. -/
def State.osEntry (s : State) (w : Who) (a : Access) (l id line : Nat) : OsEntry :=
  let e : OsEntry := { pos := id, view := w.part, pc := a.pc, lane := l, line := line }
  match s.position id with
  | none => e
  | some (f, q) => { e with part := f.part, flow := f.label, seq := q.seq }

/-- Bytes put into the entry of a line of a position; none where there is no room for a new entry (R40). -/
def State.holdBytes (s : State) (w : Who) (a : Access) (l id pa : Nat) (bs : List Byte) : Option State :=
  let line := pa / 64
  let k := s.core w.core
  let mask : BitVec 64 := BitVec.ofNat 64 (2 ^ bs.length - 1) <<< (pa % 64)
  let fill (e : OsEntry) : OsEntry :=
    { e with view := w.part, pc := a.pc, lane := l, mask := e.mask ||| mask, data := storeBytes e.data (pa % 64) bs }
  match indexOf? (fun (e : OsEntry) => e.pos == id && e.line == line) k.osb with
  | some i => some (s.setCore w.core { k with osb := modAt fill k.osb i })
  | none =>
    if s.osRoom w.core id then some (s.setCore w.core { k with osb := k.osb ++ [fill (s.osEntry w a l id line)] }) else none

/-- A lane's `.o` store put into the buffer, all its parts or none (R40, R78). -/
def State.holdParts (s : State) (w : Who) (a : Access) (l id : Nat) : List (Nat × Nat) → List Byte → Option State
  | [], _ => some s
  | (pa, n) :: rest, bs => match s.holdBytes w a l id pa (bs.take n) with
    | none => none
    | some s => s.holdParts w a l id rest (bs.drop n)

/-- The held bytes that a lane's load of a part returns: those of its own item, which a trap handler's are not (R39). -/
def State.heldOver (s : State) (w : Who) (t l pa : Nat) (bs : List Byte) : List Byte :=
  let own := !w.sys || ((s.team? w.core t).map Team.formed).getD false
  let mine (e : OsEntry) : Bool := own && e.line == pa / 64 && (match s.position e.pos with
    | some (_, q) => q.core == some w.core && q.slot == t && !q.gone && q.lanes.getLsbD l
    | none => false)
  ((s.core w.core).osb.filter mine).foldl (fun bs e =>
    ((List.range bs.length).zip bs).map fun b =>
      if e.mask.getLsbD (pa % 64 + b.1) then e.data.atD (pa % 64 + b.1) 0 else b.2) bs

/-! Performing lanes in memory. -/

/-- The bytes that a lane of a core reads: through the read cache, with its item's held bytes (R39, R79). -/
def State.laneRead (s : State) (w : Who) (t l : Nat) : List (Nat × Nat) → List Byte
  | [] => []
  | (pa, n) :: rest =>
    let bs := s.readCached w.core w.part pa n
    (if (s.core w.core).osb.isEmpty then bs else s.heldOver w t l pa bs) ++ s.laneRead w t l rest

/-- The read cache after a lane read some parts (R79). -/
def State.fillLines (s : State) (w : Who) (ps : List (Nat × Nat)) : State :=
  ps.foldl (fun s p => s.fillLine w.core w.part p.1) s

/-- Bytes that a core stores over parts: to memory and to its cached lines (R79). -/
def State.storeParts (s : State) (w : Who) : List (Nat × Nat) → List Byte → State
  | [], _ => s
  | (pa, n) :: rest, bs =>
    ((s.write pa (bs.take n)).patchLine w.core w.part pa (bs.take n)).storeParts w rest (bs.drop n)

/-- A lane's bytes of data. -/
def Access.bytes (a : Access) (l : Nat) : List Byte := leBytes a.op.size (a.dataAt l).toNat

/-- A lane performed in memory. Answers none where a held store finds no room (R42). -/
def State.performLane (s : State) (w : Who) (t : Nat) (a : Access) (l : Nat) (ps : List (Nat × Nat)) : Option State :=
  let bad := (s.badPart ps).map Origin.mem
  match a.op with
  | .load _ _ | .record _ => some ((s.fillLines w ps).deliver w.core t a l (s.laneRead w t l ps) bad)
  | .store _ => match a.hold.at? l with
    | some id => s.holdParts w a l id ps (a.bytes l)
    | none => some (s.storeParts w ps (a.bytes l))
  | .zeroLine => some (s.storeParts w ps (List.replicate 64 0))
  | .atom op n =>
    let old := leNat (s.readParts ps)
    let v := (a.dataAt l).toNat
    let s := s.deliver w.core t a l (s.readParts ps) bad
    let s := s.returnP15 w.core t a (laneBit l) fun _ => atomClamps op (8 * n) old v
    some (s.storeParts w ps (leBytes n (atomValue op (8 * n) old v (a.s3At l).toNat)))
  | .probe _ => some (s.deliver w.core t a l [] none)
  | .fence _ _ | .rload _ | .rstore | .ratom _ _ | .mcst => some s

/-- Whether a lane of an atomic would clamp now. -/
def State.clamps (s : State) (a : Access) (l : Nat) (ps : List (Nat × Nat)) : Bool :=
  match a.op with
  | .atom op n => atomClamps op (8 * n) (leNat (s.readParts ps)) (a.dataAt l).toNat
  | _ => false

/-- The parts that a lane performs at its core: those of memory, and the lines of a peer window that a held store waits in (R39, R40). -/
def Access.here (a : Access) (l : Nat) : Fate → Option (List (Nat × Nat))
  | .memory ps => some ps
  | .remote _ _ _ => if (a.hold.at? l).isSome then some (a.parts l) else none
  | _ => none

/-- The lanes that reach memory performed in ascending order (R216): the state, the lanes done, and those that clamped. A lane whose held
store finds no room keeps the lanes behind it waiting. -/
def State.performLanes (s : State) (w : Who) (t : Nat) (a : Access) : List (Nat × Fate) → State × Mask × Mask
  | [] => (s, 0, 0)
  | (l, f) :: rest => match a.here l f with
    | none => s.performLanes w t a rest
    | some ps => match s.performLane w t a l ps with
      | none => (s, 0, 0)
      | some s' =>
        let (r, done, sat) := s'.performLanes w t a rest
        (r, done ||| laneBit l, if s.clamps a l ps then sat ||| laneBit l else sat)

/-- The lines whose 64 bytes the lanes of a store have replaced together lose their poison (R378). -/
def State.storedWhole (s : State) (a : Access) (done : Mask) (ls : List (Nat × Fate)) : State :=
  match a.op with
  | .store _ => s.clearWhole (ls.flatMap fun e => match e.2 with
    | .memory ps => if done.getLsbD e.1 && (a.hold.at? e.1).isNone then ps else []
    | _ => [])
  | _ => s

/-! Records of lanes (R88). -/

/-- The record of the lanes of one mask word and cause. -/
def recordOf (w : Who) (t : Nat) (a : Access) (info : Bool) (fbi fgen : Nat) (c : FaultCause) (word : Nat) (m : Mask) : FaultRecord :=
  { addr := a.addr (lowLane (m &&& wordMask word 0xFFFFFFFF)), pc := a.pc, lmask := maskWord m word, core := w.core, fbi := fbi
    word := word, tslot := t % 32, part := w.part, kind := a.op.kind, cause := c, size := a.op.size, info := info, fgen := fgen }

/-- The causes that appear among some lanes, in the order of their codes. -/
def causesOf (ls : List (Nat × FaultCause)) : List FaultCause :=
  [.notMapped, .noWrite, .noExec, .privileged, .malformed, .unmappable, .align, .tablePoison].filter fun c => ls.any fun e => e.2 == c

/-- One record for each pair of a mask word and a cause (R88). -/
def recordsOf (w : Who) (t : Nat) (a : Access) (info : Bool) (fbi fgen : Nat) (ls : List (Nat × FaultCause)) : List FaultRecord :=
  let all := maskOf (ls.map fun e => e.1)
  (wordsOfMask all).flatMap fun word => (causesOf ls).filterMap fun c =>
    let m := maskOf ((ls.filter fun e => e.2 == c).map fun e => e.1)
    if maskWord m word = 0 then none else some (recordOf w t a info fbi fgen c word m)

/-! Peers (R313, R326-R331). -/

/-- The kind of a request. -/
def AccessOp.request : AccessOp → PeerKind
  | .store _ | .zeroLine | .rstore => .write
  | .atom op _ => .atomic op
  | .ratom sat _ => .atomic (if sat then .addSatN else .add)
  | _ => .read

/-- Whether an operation reads through the read cache, so that a peer sends it whole lines (R79). -/
def AccessOp.cached : AccessOp → Bool
  | .load _ _ | .record _ => true
  | _ => false

/-- The lines that a lane's bytes lie in, by the numbers that the read cache gives lines of peer windows. -/
def Access.lines (a : Access) (l : Nat) : List Nat := ((lineParts (a.addr l).toNat a.op.size).map fun p => p.1 / 64).eraseDups

/-- The bytes of a range of addresses out of whole lines; none where a line is missing. -/
def bytesOver (lines : SMap (List Byte)) (a n : Nat) : Option (List Byte) :=
  (lineParts a n).foldr (fun q r => match lines.at? (q.1 / 64), r with
    | some l, some bs => some ((l.drop (q.1 % 64)).take q.2 ++ bs)
    | _, _ => none) (some [])

/-- The peer that a line lies at, and the offset of its first byte. -/
def linePeer (line : Nat) : Nat × Nat := ((64 * line - peerBase) / windowSize, (64 * line - peerBase) % windowSize)

/-- A request sent to a peer, with the transaction that awaits its answer (R313, R326). A store keeps fills of its lines that are under way out
of the read cache. -/
def State.request (s : State) (w : Who) (t : Nat) (a : Access) (kind : PeerKind) (x : Transaction) (cells : List (Nat × BitVec 64 × BitVec 64)) : State :=
  let tag := s.tagCtr % 65536
  let busy := s.txs.any fun y => y.core == w.core && y.acc.part == w.part && y.acc.op.writes && y.lines.any fun n => x.lines.contains n
  let s := if a.op.writes then s.stopFills w.core w.part fun n => x.lines.contains n else s
  let s := s.send (.request x.peer { src := s.devid.toNat, tag := tag, part := w.part, kind := kind, size := x.size, lanes := cells })
  { s with
    tagCtr := s.tagCtr + 1
    txs := s.txs ++ [{ x with
      tag := tag, core := w.core, slot := t, since := s.clock, acc := { a with lanes := maskOf x.lanes, done := 0 }, fill := !(a.op.writes && busy) }] }

/-- The bytes that a lane reads in peer windows, with its item's held bytes (R39, R79). -/
def State.peerRead (s : State) (w : Who) (t : Nat) (a : Access) (l : Nat) (lines : SMap (List Byte)) : Option (List Byte) :=
  (bytesOver lines (a.addr l).toNat a.op.size).map fun bs =>
    if (s.core w.core).osb.isEmpty then bs
    else ((lineParts (a.addr l).toNat a.op.size).foldl (fun (r : List Byte × List Byte) q =>
      (r.1 ++ s.heldOver w t l q.1 (r.2.take q.2), r.2.drop q.2)) ([], bs)).1

/-- Loads through peer windows: from the read cache, which may hold the lines, by a free choice, else by requests for whole lines, peer by
peer (R79, R109, R326, log entry 6). -/
def State.readPeers (s : State) (w : Who) (t : Nat) (a : Access) (ls : List Nat) : State :=
  let held : SMap (List Byte) := ((ls.flatMap a.lines).eraseDups.filterMap fun n =>
    if Config.useLine s.fresh n then ((s.core w.core).line? w.part n).map fun b => (n, b) else none).foldl (fun m e => SMap.put m e.1 e.2) []
  let hit (l : Nat) : Bool := (a.lines l).all fun n => (held.at? n).isSome
  let s := (ls.filter hit).foldl (fun s l => s.deliver w.core t a l ((s.peerRead w t a l held).getD []) none) s
  let miss := ls.filter fun l => !hit l
  let lines := (sortBy (fun (a b : Nat) => a < b) (miss.flatMap a.lines).eraseDups)
  ((lines.map fun n => (linePeer n).1).eraseDups).foldl (fun s p =>
    let mine := lines.filter fun n => (linePeer n).1 == p
    s.request w t a .read
      { peer := p, lanes := miss.filter fun l => (a.lines l).any fun n => mine.contains n, size := 8, lines := mine }
      (mine.flatMap fun n => (List.range 8).map fun k => ((linePeer n).2 + 8 * k, 0, 0))) s

/-- The parts of a lane's access at its peers: peer, offset, first byte and size; two where it crosses into the next window (R78). -/
def peerParts (n : Nat) (e : Nat × Nat × Nat × Bool) : List (Nat × Nat × Nat × Nat × Nat) :=
  let (l, d, o, cross) := e
  if cross then [(l, d, o, 0, windowSize - o), (l, d + 1, 0, windowSize - o, n - (windowSize - o))] else [(l, d, o, 0, n)]

/-- Parts at one peer cut into runs of lanes that take the same bytes of their operands, so that the lanes of a store keep their order (R216). -/
def partRuns (es : List (Nat × Nat × Nat × Nat × Nat)) : List (List (Nat × Nat × Nat × Nat × Nat)) :=
  es.foldr (fun e rs => match rs with
    | (x :: xs) :: more => if e.2.2.2 == x.2.2.2 then (e :: x :: xs) :: more else [e] :: (x :: xs) :: more
    | _ => [[e]]) []

/-- The requests of an access to its peers sent: to each peer, ascending, one for each run of its lanes in their order (R216, R326). -/
def State.sendPeers (s : State) (w : Who) (t : Nat) (a : Access) (ls : List (Nat × Nat × Nat × Bool)) : State :=
  if a.op.cached then s.readPeers w t a (ls.map fun e => e.1)
  else
    let parts := ls.flatMap (peerParts a.op.size)
    let peers := sortBy (fun (a b : Nat) => a < b) ((parts.map fun e => e.2.1).eraseDups)
    (peers.flatMap fun p => partRuns (parts.filter fun e => e.2.1 == p)).foldl (fun s mine =>
      let k := mine.headD (0, 0, 0, 0, 0)
      s.request w t a a.op.request
        { peer := k.2.1, lanes := mine.map fun e => e.1, first := k.2.2.2.1, size := k.2.2.2.2
          lines := if a.op.writes then (mine.flatMap fun e => a.lines e.1).eraseDups else [] }
        (mine.map fun e => (e.2.2.1, if a.op == .zeroLine then 0 else a.dataAt e.1 >>> (8 * k.2.2.2.1), a.s3At e.1))) s

/-- The writes of a multicast: each lane's word at its offset, the last lane to an offset wins; in ascending offset (R216,
R332). -/
def Access.mcstWords (a : Access) : List (Nat × BitVec 32) :=
  (lanesOf a.left).foldl (fun (m : SMap (BitVec 32)) l => SMap.put m (a.addr l).toNat ((a.dataAt l).setWidth 32)) []

/-- Words cut into runs of consecutive offsets of up to 224 bytes (R332). -/
def runsOf (ws : List (Nat × BitVec 32)) : List (Nat × List (BitVec 32)) :=
  (ws.foldl (fun (rs : List (Nat × List (BitVec 32))) w => match rs with
    | (o, vs) :: more => if w.1 = o + 4 * vs.length && vs.length < 56 then (o, vs ++ [w.2]) :: more else (w.1, [w.2]) :: rs
    | [] => [(w.1, [w.2])]) []).reverse

/-- A multicast sent, a flit for each run: to each column that holds a member, the own column at once; its transaction awaits their acks
(R321, R330, R332). -/
def State.sendMcast (s : State) (w : Who) (t : Nat) (a : Access) : State :=
  let grp := bits (a.base.at_ 0).toNat 44 8
  let g := s.groups.atD grp {}
  let own := s.devid.toNat
  let ms := s.members g
  let cols := (List.range 32).filter fun c => ms.any fun d => devCol d == c
  let tag := s.tagCtr % 65536
  let runs := runsOf a.mcstWords
  let flits : List McastMsg := ((List.range runs.length).zip runs).map fun e =>
    { src := own, tag := tag, group := grp, addr := e.2.1, words := e.2.2, index := e.1, count := runs.length }
  let x : Transaction := { tag := tag, core := w.core, slot := t, acc := a, lanes := lanesOf a.left, columns := cols, nm := g.nm, since := s.clock }
  let s : State := { s with tagCtr := s.tagCtr + 1, txs := s.txs ++ [x] }
  let s := (cols.filter fun c => c != devCol own).foldl (fun s c =>
    flits.foldl (fun s m => s.send (.mcast (32 * devRow own + c) w.part m)) s) s
  if cols.contains (devCol own) then flits.foldl State.replicate s else s

/-! The end of an access. -/

/-- Whether other parts of the same access still wait. -/
def State.partsLeft (s : State) (c t : Nat) (a : Access) : Bool :=
  (s.waitingOf c t).any fun e => e.order == a.order && e.sys == a.sys && !e.op.marks

/-- An access performed on every lane: an acquire at sector scope or wider discards the partition's cached lines, and a write
of p15 is complete (R109, R218). -/
def State.finishAccess (s : State) (w : Who) (t : Nat) (a : Access) (pending : Bool) : State :=
  if s.partsLeft w.core t a then s
  else
    let s := if a.acq then s.discardLines w.core w.part a.scope else s
    if a.p15 && pending then
      s.onTeam w.core t fun x =>
        if a.sys then { x with sys := x.sys.map fun y => { y with p15pend := y.p15pend - 1 } } else { x with p15pend := x.p15pend - 1 }
    else s

/-- A saturation of an atomic: ISAT is set, and its enabled trap is pending until the returns arrive (R120, R228, R367). -/
def State.saturated (s : State) (w : Who) (t : Nat) (a : Access) (sat : Mask) : State :=
  if sat = 0 then s
  else
    let s := s.setFlags w.core w.part Flag.isat
    if a.sys || s.enabled w.core w.part &&& Flag.isat = 0 then s
    else s.onTeam w.core t fun x =>
      if x.pend.any fun cd => cd.cause == .arith && cd.order == a.order then
        { x with pend := x.pend.map fun cd => if cd.cause == .arith && cd.order == a.order then { cd with lanes := cd.lanes ||| sat } else cd }
      else { x with pend := x.pend ++ [{ cause := .arith, code := Flag.isat.toNat, deferred := true, eiaddr := a.pc, lanes := sat, order := a.order }] }

/-- A condition of an access raised at the next boundary; in system mode, a double trap (R70, R76, R95, R354, R359). -/
def State.pendAccess (s : State) (w : Who) (t : Nat) (a : Access) (cause : Cause) (m : Mask) (eaddr : Option W64) : State :=
  if a.sys then s.doubleTrap w.core t cause 0xF (eaddr.getD a.pc)
  else s.pendOn w.core t { cause := cause, eaddr := eaddr.getD 0, eiaddr := a.pc, lanes := m, order := a.order }

/-! Performing an access. -/

/-- The team is still there after a consumption (R380). -/
def teamSurvives (w : Who) (tags : List Nat) : Bool := !(tags.any fun t => w.sys || decide (8 ≤ t) || t == w.part)

/-- A store or atomic with a poisoned operand on a lane: it is performed on no lane, an atomic returns address poison, memory
poison is consumed, and address poison makes the team trap (R70, R229, R330). -/
def State.poisonedStore (s : State) (w : Who) (t : Nat) (a : Access) (os : List (Nat × Origin)) (pending : Bool) : State :=
  let s := s.deliverPoison w.core t a a.left
  let s := s.returnP15 w.core t a a.left fun _ => false
  let s := s.finishAccess w t { a with done := a.lanes } pending
  let tags := tagsOf os
  let s := s.consumeAll w.sys tags
  let m := addrLanes os
  if m = 0 || !teamSurvives w tags then s
  else
    let l := lowLane m
    s.pendAccess w t a .poison m (if a.addrKnown && (a.addrPois l).isNone then some (a.addr l) else none)

/-- The lines of peer windows that a multicast has written, by the numbers that the read cache gives them. -/
def State.mcstLines (s : State) (a : Access) : List Nat :=
  ((s.members (s.groups.atD (bits (a.base.at_ 0).toNat 44 8) {})).filter fun d => d != s.devid.toNat).flatMap fun d =>
    a.mcstWords.map fun w => (peerBase + d * windowSize + w.1) / 64

/-- Lines of peer windows that a store has written dropped from a core's read cache, fills under way among them (R79, R102, R108). -/
def State.dropFar (s : State) (c p : Nat) (ls : List Nat) : State :=
  (s.onCore c fun k => { k with cache := k.cache.filter fun e => !(e.1 == p && ls.contains e.2.1) }).stopFills c p fun n => ls.contains n

/-- A multicast whose columns have all answered: ACK goes to D and p15 (R330). -/
def State.finishMcast (s : State) (w : Who) (x : Transaction) (pending : Bool) : State :=
  let a := x.acc
  let all := BitVec.ofNat 512 (2 ^ (x.nm + 1) - 1)
  let ack := x.ack &&& all
  let s : State := { s with txs := s.txs.filter fun y => y != x }
  let s := s.dropFar w.core w.part (s.mcstLines a)
  let s := (lanesOf a.left).foldl (fun s l =>
    s.deliver w.core x.slot a l (leBytes 4 (ack.extractLsb' (32 * (l % 16)) 32).toNat) none) s
  let s := s.returnP15 w.core x.slot a a.left fun _ => ack == all
  s.finishAccess w x.slot { a with done := a.lanes } pending

/-- Multicasts of a team that await no column finished (R321). -/
def State.closeMcasts (s : State) (w : Who) (t : Nat) (pending : Bool) : State :=
  (s.txs.filter fun x => x.acc.op == .mcst && x.relay.isNone && x.core == w.core && x.slot == t && x.columns.isEmpty).foldl
    (fun s x => s.finishMcast w x pending) s

/-- Whether the group word of a multicast is refused for a partition (R330). -/
def Access.mcstBad (a : Access) (s : State) (p : Nat) : Bool :=
  let v := (a.base.at_ 0).toNat
  let g := s.groups.atD (bits v 44 8) {}
  bits v 52 12 != 0 || !g.v || g.part != p

/-- A multicast that was deferred and is refused: it is performed at no member, and the team traps (R330). -/
def State.dropMcast (s : State) (w : Who) (t : Nat) (a : Access) (cause : Cause) (eaddr : Option W64) (pending : Bool) : State :=
  let s := s.deliverPoison w.core t a a.left
  let s := s.returnP15 w.core t a a.left fun _ => false
  (s.finishAccess w t { a with done := a.lanes } pending).pendAccess w t a cause a.left eaddr

/-- The lanes of some fates. -/
def fateLanes (fs : List (Nat × Fate)) (p : Fate → Bool) : Mask := maskOf ((fs.filter fun e => p e.2).map fun e => e.1)

/-- An access whose lanes fault put into the fault buffer, in the entry that it holds or in a free one, with a record for
each mask word and cause (R87, R88). -/
def State.parkAccess (s : State) (w : Who) (t : Nat) (a : Access) (entry : Option Nat) (ls : List (Nat × FaultCause)) : State :=
  let k := s.core w.core
  let i := entry.getD ((choose s.fresh (freeKeys k.fbuf 0 256)).getD 0)
  let gen := if entry.isSome then k.fgen.atD i 0 - 1 else k.fgen.atD i 0
  let s := s.setCore w.core { k with
    fbuf := k.fbuf.put i { slot := t, acc := a }
    fgen := if entry.isSome then k.fgen else k.fgen.put i (gen + 1) }
  let s := { s with fresh := s.fresh + 1 }
  s.queueRecords (recordsOf w t a false i (gen % 65536) ls)

/-- What a pass over an access leaves to do: nothing, or some lanes, for want of room in the fault buffer (R87) or, where `full` says so, in
the ordered-store buffer (R42). -/
structure Pass where
  s : State
  left : Mask
  full : Bool := false

/-- Every lane that waits of an access with known operands performed, parked, or sent (R70, R76, R78, R87, R95, R410).
`entry` is the fault-buffer entry that the access holds at a replay; FBI of an informational record, which names none, is 0 (DESIGN CHOICE, log
entry 15). A load with a uniform index at an address of the private window reads each lane's own block (DEDUCED, log entry 19). -/
def State.passAccess (s : State) (w : Who) (t : Nat) (a : Access) (entry : Option Nat) (pending : Bool) : Pass :=
  let os := a.origins
  if a.op.writes && !os.isEmpty then { s := s.poisonedStore w t a os pending, left := 0 }
  else if a.op == .mcst then
    { left := 0
      s := if a.mcstBad s w.part then s.dropMcast w t a .xfer none pending
        else if a.misaligned != 0 then s.dropMcast w t a .align (some (a.addr (lowLane a.misaligned))) pending
        else (s.sendMcast w t a).closeMcasts w t pending }
  else
    let fs := (lanesOf a.left).map fun l => (l, s.fate w a l)
    let faults := fs.filterMap fun e => match e.2.1 with
      | .fault c => some (e.1, c)
      | _ => none
    if w.sys && !faults.isEmpty then
      let e := faults.headD (0, .notMapped)
      { s := s.doubleTrap w.core t .xlate e.2.code (a.addr e.1), left := 0 }
    else if !faults.isEmpty && entry.isNone && (freeKeys (s.core w.core).fbuf 0 256).isEmpty then { s := s, left := a.left }
    else
      let tags := (fs.flatMap fun e => e.2.2).eraseDups
      let s := (lanesOf a.left).foldl (fun s l => (a.parts l).foldl (fun s p => s.fillSpot w l p.1) s) s
      let s := s.consumeAll w.sys tags
      if !teamSurvives w tags then { s := s, left := 0 }
      else
        let ls := fs.map fun e => (e.1, e.2.1)
        let refused := ls.filterMap fun e => match e.2 with
          | .refused c => some (e.1, c)
          | _ => none
        let badLanes := maskOf (refused.map fun e => e.1)
        let s := s.queueRecords (recordsOf w t a true 0 0 refused)
        let s := ls.foldl (fun s e => match e.2 with
          | .poison o => s.deliver w.core t a e.1 [] (some o)
          | _ => s) s
        let s := s.deliverPoison w.core t a badLanes
        let s := s.returnP15 w.core t a badLanes fun _ => false
        let (s, done, sat) := s.performLanes w t a ls
        let s := s.storedWhole a done ls
        let remote := ls.filterMap fun e => match e.2 with
          | .remote d o x => if (a.hold.at? e.1).isSome then none else some (e.1, d, o, x)
          | _ => none
        let s := s.sendPeers w t a remote
        let settledLanes := done ||| badLanes ||| fateLanes ls (fun f => match f with
          | .poison _ => true
          | _ => false) ||| maskOf (remote.map fun e => e.1)
        let a' := { a with done := a.done ||| settledLanes }
        let stuck := maskOf ((ls.filter fun e => (a.here e.1 e.2).isSome).map fun e => e.1) &&& ~~~done
        let s := if faults.isEmpty then
            (match entry with
             | some i => s.onCore w.core fun k => { k with fbuf := k.fbuf.del i }
             | none => s)
          else s.parkAccess w t { a' with lanes := a.lanes &&& ~~~stuck } entry faults
        let s := s.saturated w t a sat
        let trapLanes := maskOf ((refused.filter fun e => e.2 != .align).map fun e => e.1)
        let s := if a.op.writes && trapLanes != 0 then s.pendAccess w t a .poison trapLanes (some (a.addr (lowLane trapLanes))) else s
        let s := if faults.isEmpty && stuck = 0 then s.finishAccess w t a' pending else s
        { s := s, left := stuck, full := stuck != 0 }

/-! The queue of accesses that wait (R69, R108, R231). -/

/-- An access put into its team's queue, in program order. -/
def State.queueAccess (s : State) (c t : Nat) (a : Access) : State :=
  s.onTeam c t fun x => { x with queue := insertBy (fun p q => p.order < q.order) a x.queue }

/-- Entries in use of a core's deferred-access queue (R69). -/
def Core.queued (k : Core) : Nat := k.teams.foldl (fun n e => n + e.2.queue.length) 0

/-- A deferred access that is performed when its turn has come: lock hits and misaligned atomics have their own ends (R80,
R95). -/
def State.runQueued (s : State) (c t : Nat) (w : Who) (a : Access) : State :=
  let drop (s : State) : State := s.onTeam c t fun x => { x with queue := x.queue.filter fun e => !(e.order == a.order && e.sys == a.sys) }
  match a.op with
  | .fence _ succ =>
    let s := drop s
    if succ.getLsbD 3 then s.discardLines c w.part a.scope else s
  | _ =>
    let os := a.origins
    if !(a.op.writes && !os.isEmpty) && (s.hitsLock w a).isSome then
      let m := s.lockLanes w a
      let s := (drop s).deliverPoison c t a a.left
      let s := s.returnP15 c t a a.left fun _ => false
      (s.finishAccess w t a true).pendAccess w t a .range m (some (a.addr (lowLane m)))
    else
      let r := (drop s).passAccess w t a none true
      if r.left = 0 then r.s else r.s.queueAccess c t { a with lanes := a.lanes &&& (r.left ||| a.done), stalled := r.full }

/-- One pass over the accesses of a team's queue in order: each that is ready, and that no earlier one holds back, is
performed (R69, R108). -/
def State.drainList (s : State) (c t : Nat) : List Access → State
  | [] => s
  | a :: rest => match s.team? c t with
    | none => s
    | some x =>
      if !(x.queue.contains a) then s.drainList c t rest
      else
        let w := x.whoOf c a
        if a.ready && s.mayPerform c t w a then (s.runQueued c t w a).drainList c t rest else s.drainList c t rest

/-- The queue of a team run as far as it goes, then what was left of an ended team forgotten. -/
def State.drain (s : State) (c t : Nat) : State :=
  match s.team? c t with
  | none => s
  | some x => (s.drainList c t x.queue).sweep c t

/-- The queues of every team of a core run, when an entry of a shared buffer has become free (R42, R87). -/
def State.drainCore (s : State) (c : Nat) : State :=
  ((s.core c).teams.map fun e => e.1).foldl (fun s t => s.drain c t) s

/-! Symbols (R63, R358). -/

/-- A symbol allocated for some lanes of a team; none where the team or the table is full. -/
def State.allocSym (s : State) (c t : Nat) (sys : Bool) (lanes : Mask) (w64 uni : Bool) (src : SymSource) : Option (Nat × State) :=
  let k := s.core c
  let mine := (k.syms.filter fun e => e.2.slot == t && e.2.sys == sys).length
  let used := (k.syms.filter fun e => sys || !e.2.sys).length
  if (if sys then 4 else 32) ≤ mine || (if sys then 256 else 224) ≤ used then none
  else match choose s.fresh (freeKeys k.syms 0 256) with
    | none => none
    | some n =>
      let s := s.setCore c { k with syms := k.syms.put n { slot := t, sys := sys, lanes := lanes, w64 := w64, uni := uni, src := src } }
      some (n, { s with fresh := s.fresh + 1 })

end Sys2Proof.Machine
end

