-- ==== Sys2Proof/Machine/LaneOps.lean ====
section
/-!
DEFINITION. Memory instructions at issue: their operands as forms (R64, R69), the symbol of a result (R63), the checks of a
known access (R80, R95), and whether it is performed at once or deferred (R69, R108).
-/

namespace Sys2Proof.Machine

/-! Operands as forms. -/

/-- A table of 64-bit values of some lanes, without zeros. -/
def wideTable (m : Mask) (f : Nat → W64) : SMap W64 :=
  (lanesOf m).filterMap fun l => if f l = 0 then none else some (l, f l)

/-- A known value as a form. -/
def Val.form (v : Val) (m : Mask) : Form := { off := wideTable m v.at_, pois := originTable m v.pois }

/-- A register of 32 bits as a form. -/
def Ctx.formV (cx : Ctx) (m : Mask) (n : Fin 128) : Form :=
  let r := cx.vreg n.val
  let f := (cx.read (.v n)).form m
  if r.st = .symbolic then
    { f with sym := some r.sym, scale := r.scale.setWidth 64, flt := r.flt, half := r.half, alone := r.alone }
  else f

/-- A pair as forms: known, or the two halves of one symbol, as one of 64 bits; else each register as a form of its own (R53, R64,
R220, R229). -/
def Ctx.formPair (cx : Ctx) (m : Mask) (n : Fin 128) : Form × Option Form :=
  let lo := cx.vreg n.val
  let hi := cx.vreg (n + 1).val
  if lo.st == .symbolic && hi.st == .symbolic && lo.sym == hi.sym && !lo.half && hi.half && lo.alone == hi.alone then
    ({ (cx.read64 (.v n)).form m with sym := some lo.sym, scale := 1, alone := lo.alone }, none)
  else if lo.st == .symbolic || hi.st == .symbolic || (lanesOf m).any (fun l =>
      match (cx.read (.v n)).pois l, (cx.read (nextV n)).pois l with
      | some p, some q => p != q
      | _, _ => false) then (cx.formV m n, some (cx.formV m (n + 1)))
  else ((cx.read64 (.v n)).form m, none)

/-- An operand as a form on some lanes. -/
def Ctx.formOf (cx : Ctx) (m : Mask) : Operand → Form
  | .v n => cx.formV m n
  | .w n =>
    let r := cx.x.ureg n.val
    { sym := r.sym, scale := r.scale, uni := true, off := SMap.store 0 [] 0 r.val, flt := r.flt, half := r.half
      pois := match r.pois with
        | some o => [(0, o)]
        | none => [] }
  | o => if uniformOp o then .const ((cx.read o).at_ 0) else (cx.read o).form m

/-- A data operand as forms; `pair` takes a vector operand as a pair. -/
def Ctx.formsOf (cx : Ctx) (m : Mask) (pair : Bool) : Option Operand → Form × Option Form
  | none => ({}, none)
  | some (.v n) => if pair then cx.formPair m n else (cx.formV m n, none)
  | some o => (cx.formOf m o, none)

/-! Requests. -/

/-- A memory instruction: its operation, its address operands, its data and compare operands, its destination, whether these
are 64 bits wide, and its modifiers. -/
structure Req where
  op : AccessOp
  base : Operand
  idx : Operand := .zero
  peer : Bool := false
  data : Option Operand := none
  s3 : Option Operand := none
  dest : Option Operand := none
  wide : Bool := false
  p15 : Bool := false

/-- Whether an operation is a load, which counts as a read by each active lane (R215). -/
def AccessOp.loads : AccessOp → Bool
  | .load _ _ | .rload _ => true
  | _ => false

/-- Whether a request is performed once: neither a load, nor one whose index or D is not uniform (R215). -/
def Req.once (r : Req) : Bool :=
  !r.op.loads && uniformOp ((r.dest.or r.data).getD .zero) && uniformOp r.idx && (!r.peer || uniformOp r.base)

/-- The lanes that perform: all active ones, or the lowest of them where the access is performed once (R215). -/
def Ctx.reqLanes (cx : Ctx) (r : Req) : Mask := if r.once then laneBit (lowLane cx.act) else cx.act

/-- Whether a position has not reached its release point (R38). -/
def State.unreleased (s : State) (id : Nat) : Bool :=
  match s.position id with
  | some (_, q) => !q.recorded
  | none => false

/-- The positions that a `.o` store's lanes belong to: those of ordered items before their release point; none in a trap handler
(R39, R221, R360, log entry 26). -/
def Ctx.holdOf (cx : Ctx) (m : Mask) : SMap Nat :=
  if (cx.sys && !cx.x.formed) || !cx.mods.o then []
  else (lanesOf m).filterMap fun l => match cx.x.itemOf l with
    | none => none
    | some (_, i) => if i.cls = 1 && cx.s.unreleased i.pos then some (l, i.pos) else none

/-- The request as an access. -/
def Ctx.accessOf (cx : Ctx) (r : Req) : Access :=
  let m := cx.reqLanes r
  let b := cx.formOf m r.base
  let d := cx.formsOf m r.wide r.data
  let e := cx.formsOf m r.wide r.s3
  { pc := cx.iaddr, word := cx.word, mods := modPayload cx.mods, ext := cx.ext, op := r.op, lanes := m, spread := if m == cx.act then 0 else cx.act
    base := if r.peer then {} else b, peers := if r.peer then some b else none, idx := cx.formOf m r.idx
    data := d.1, dataHi := d.2, s3 := e.1, s3Hi := e.2, p15 := r.p15
    acq := cx.mods.acq, rel := cx.mods.rel, scope := cx.mods.scope.getD .dev
    hold := cx.holdOf m, after := cx.x.released, sys := cx.sys, part := cx.part, order := cx.x.orderCtr }

/-- The team's view of memory at issue. -/
def Ctx.who (cx : Ctx) : Who := cx.x.who cx.c cx.sys

/-! Destinations (R63, R64). -/

/-- A vector register made symbolic with scale 1: the offset is 0 on the active lanes and the current value elsewhere (R63). -/
def State.bindV (s : State) (c t n : Nat) (act : Mask) (sym : Nat) (half : Bool) : State :=
  match s.team? c t with
  | none => s
  | some x =>
    let r := s.vreg c x n
    s.setVreg c t n
      (if x.fullWrite n act then { st := .symbolic, sym := sym, scale := 1, half := half }
       else
         { st := .symbolic, sym := sym, scale := 1, half := half, lanes := overlay (r.expanded x.width) act fun _ => 0
           pois := overlayOrigins r.pois act noOrigin })

/-- A destination bound to a symbol (R63, R64). -/
def Ctx.bind (cx : Ctx) (s : State) (d : Operand) (wide : Bool) (sym : Nat) : State :=
  match d with
  | .v n =>
    let s := s.bindV cx.c cx.t n.val cx.act sym false
    if wide then s.bindV cx.c cx.t (n + 1).val cx.act sym true else s
  | .w n => s.onTeam cx.c cx.t fun x => x.setUreg n.val { sym := some sym, scale := 1 }
  | _ => s

/-- Whether a destination is a register that takes a symbol (R52). -/
def takesSymbol : Operand → Bool
  | .v _ | .w _ => true
  | _ => false

/-- Whether a destination, or one register of a pair, is shared (R62). -/
def Ctx.sharedDest (cx : Ctx) (wide : Bool) : Operand → Bool
  | .v n => cx.x.entry.shared n.val || (wide && cx.x.entry.shared (n + 1).val)
  | _ => false

/-- Whether a memory instruction waits for its destination (R61, R66, R229). -/
def Ctx.destBusy (cx : Ctx) (r : Req) : Bool :=
  let d := r.dest.getD .zero
  if r.wide then cx.destWaits64 d else cx.destWaits d

/-! Issue of an access. -/

/-- The checks of a known access: alignment, then range locks; a store or atomic with a poisoned operand meets its poison
instead (R70, R80, R95). The group word of a multicast is checked as soon as it is known, whatever its index and data hold (R330). -/
def Ctx.checkAccess (cx : Ctx) (a : Access) (k : Unit → Did) : Did :=
  if a.op == .mcst && a.base.known && a.base.pois.isEmpty && a.mcstBad cx.s cx.who.part then .trap cx.s .xfer 0 none cx.act
  else if !a.addrKnown || (a.op.writes && !a.origins.isEmpty) then k ()
  else if a.misaligned != 0 then .trap cx.s .align 0 (some (a.addr (lowLane a.misaligned))) a.misaligned
  else if (cx.s.hitsLock cx.who a).isSome then
    let m := cx.s.lockLanes cx.who a
    .trap cx.s .range 0 (some (a.addr (lowLane m))) m
  else k ()

/-- The team's next access number. -/
def State.nextOrder (s : State) (c t : Nat) : State :=
  { (s.onTeam c t fun x => { x with orderCtr := x.orderCtr + 1 }) with fresh := s.fresh + 1 }

/-- p15 pending from issue while parts of the access are out (R218). -/
def Ctx.pendP15 (cx : Ctx) (s : State) (a : Access) : State :=
  if a.p15 && s.partsLeft cx.c cx.t a then
    s.onTeam cx.c cx.t fun x =>
      if a.sys then { x with sys := x.sys.map fun y => { y with p15pend := y.p15pend + 1 } } else { x with p15pend := x.p15pend + 1 }
  else s

/-- The lanes of a splinter's instruction that have been performed (R384). -/
def Ctx.markDone (cx : Ctx) (s : State) (m : Mask) : State :=
  s.onSplinter cx.c cx.t cx.n fun p => { p with did := p.did ||| m }

/-- An access performed now, or put into the queue (R69); a store that finds no room in the ordered-store buffer stalls its team (R42). -/
def Ctx.launchAccess (cx : Ctx) (s : State) (a : Access) (now : Bool) : Did :=
  let s := s.nextOrder cx.c cx.t
  if !now then .done (cx.pendP15 (s.queueAccess cx.c cx.t a) a) 0
  else
    let r := s.passAccess cx.who cx.t a none false
    if r.left = 0 then .done (cx.pendP15 r.s a) 0
    else if a.hold.isEmpty then .done (cx.pendP15 (r.s.queueAccess cx.c cx.t { a with lanes := r.left }) a) 0
    else .wait (cx.markDone r.s (a.lanes &&& ~~~r.left)) (if r.full then .team else .issue)

/-- A result for a shared destination: the splinter waits until every lane has its value, and then writes it (R62). It is checked before a lane is
performed, and never again; after a restore, the lanes that have their values are not performed anew, and the rest goes on as a deferred access
(R80, R95, R384). -/
def Ctx.directAccess (cx : Ctx) (a : Access) (r : Req) (d : Operand) : Did :=
  let all := (lanesOf a.lanes).all fun l => (cx.p.reads.at? l).isSome
  if all then
    let v (l : Nat) : W64 :=
      let x := BitVec.ofNat 64 (leNat (cx.p.reads.atD l []))
      match r.op with
      | .load n true => sext64 (8 * n) x
      | .rload true => sext64 32 x
      | _ => x
    let o (l : Nat) : Option Origin := cx.p.readBad.at? l
    .done (if r.wide then cx.write64 cx.s d v o else cx.write cx.s d v o) 0
  else if (cx.s.waitingOf cx.c cx.t).any fun e => e.direct && e.pc == a.pc then .wait cx.s .records
  else
    let left := maskWhere a.lanes fun l => (cx.p.reads.at? l).isNone
    let b : Access := { a with direct := true, lanes := left }
    if left != a.lanes then
      if 128 ≤ (cx.s.core cx.c).queued then .wait cx.s .issue
      else .wait (((cx.pendP15 ((cx.s.nextOrder cx.c cx.t).queueAccess cx.c cx.t b) b)).drain cx.c cx.t) .records
    else cx.checkAccess a fun _ =>
      if !a.ready || !(cx.s.mayPerform cx.c cx.t cx.who a) then .wait cx.s .issue
      else
        let p := (cx.s.nextOrder cx.c cx.t).passAccess cx.who cx.t b none false
        if p.left = 0 then .wait (cx.pendP15 p.s b) .records else .wait cx.s .issue

/-- A memory instruction at issue (R63, R66, R69, R108, R219, R220, R228). -/
def Ctx.startAccess (cx : Ctx) (r : Req) : Did :=
  let a := cx.accessOf r
  let d := r.dest.getD .zero
  if cx.destBusy r then .wait cx.s .issue
  else if cx.sharedDest r.wide d then cx.directAccess a r d
  else cx.checkAccess a fun _ =>
    let now := a.ready && cx.s.mayPerform cx.c cx.t cx.who a
    if !now && decide (128 ≤ (cx.s.core cx.c).queued) then .wait cx.s .issue
    else if !takesSymbol d then cx.launchAccess cx.s a now
    else match cx.s.allocSym cx.c cx.t cx.sys a.lanes (r.op.size == 8) (uniformOp d) .access with
      | none => .wait cx.s .issue
      | some (n, s) => cx.launchAccess (cx.bind s d r.wide n) { a with rsym := some n } now

/-! Engine commands, item operations and records. -/

/-- Whether an operation is a marker whose successor set has a bit (R231). -/
def AccessOp.marksBit (op : AccessOp) (bit : Nat) : Bool :=
  match op with
  | .fence _ succ => succ.getLsbD bit
  | _ => false

/-- Whether a marker of the team holds back what a bit of successor sets stands for (R231); item operations wait for an acquire of the team
that waits, too (R69, R97, R98). -/
def Ctx.marked (cx : Ctx) (bit : Nat) : Bool :=
  (cx.x.queue.any fun e => e.op.marksBit bit) || (bit == 0 && (cx.s.waitingOf cx.c cx.t).any fun e => e.acq)

/-- An engine command (bit 1) or an item operation (bit 0) waits behind a marker whose successor set holds it (R231). -/
def Ctx.behind (cx : Ctx) (bit : Nat) (k : Ctx → Did) : Did := if cx.marked bit then .wait cx.s .issue else k cx

/-- Whether accesses of the team still wait, so that a release waits for them (R108). -/
def Ctx.unsettled (cx : Ctx) : Bool := (cx.s.waitingOf cx.c cx.t).any fun e => !e.op.marks

/-- An access of known addresses that the instruction makes for itself, and waits for. -/
def Ctx.ownAccess (cx : Ctx) (op : AccessOp) (m : Mask) (addr : Nat → W64) : Access :=
  { pc := cx.iaddr, word := cx.word, op := op, lanes := m, base := { off := wideTable m addr }, direct := true, after := cx.x.released
    sys := cx.sys, part := cx.part, order := cx.x.orderCtr }

/-- Whether every lane of an access has what it waited for. -/
def Splinter.hasAll (p : Splinter) (a : Access) : Bool := (lanesOf a.lanes).all fun l => (p.reads.at? (l + 1024 * a.seat)).isSome

/-- An access made for the instruction itself: performed in program order, or parked, and awaited by the splinter; then the
instruction goes on with what was read (R241, R243). -/
def Ctx.awaitAccess (cx : Ctx) (a : Access) (k : Ctx → Did) : Did :=
  if cx.p.hasAll a then k cx
  else if (cx.s.waitingOf cx.c cx.t).any fun e => e.direct && e.sys == a.sys && e.pc == a.pc && e.seat == a.seat && e.lanes &&& a.lanes != 0 then
    .wait cx.s .records
  else cx.checkAccess a fun _ =>
    if !(cx.s.mayPerform cx.c cx.t cx.who a) then .wait cx.s .issue
    else
      let r := (cx.s.nextOrder cx.c cx.t).passAccess cx.who cx.t a none false
      match r.s.team? cx.c cx.t with
      | none => .gone r.s
      | some x => match x.splinterAt cx.n with
        | none => .gone r.s
        | some p =>
          if p.hasAll a then k { cx with s := r.s, x := x, p := p }
          else if r.left = 0 then .wait r.s .records
          else .wait r.s .issue

/-- The bytes that an awaited access brought a lane. -/
def Ctx.got (cx : Ctx) (l : Nat) : List Byte := cx.p.reads.atD l []

/-- Records that an instruction has read for itself: poison in one of them makes the team trap (R241, R288), and `bad` happens. -/
def Ctx.soundReads (cx : Ctx) (addr : Nat → W64) (k : Ctx → Did) (bad : State → State := id) : Did :=
  let m := maskOf (cx.p.readBad.map fun e => e.1 % 1024) &&& cx.act
  if m = 0 then k cx else .trap (bad cx.s) .poison 0 (some (addr (lowLane m))) m

/-! Modifier fields (R217, R325). -/

/-- Which modifier fields a memory instruction accepts. -/
structure MemMods where
  sx : Bool := false
  acq : Bool := false
  rel : Bool := false
  o : Bool := false
  rem : Bool := false
  w64 : Bool := false
  s3 : Bool := false
  sat : Bool := false

/-- Whether a modifier hint is one that a memory instruction accepts (R105, R217, R325). -/
def MemMods.ok (k : MemMods) (m : ModHint) : Bool :=
  (m.s3 == .zero || k.s3) && (m.scope.isNone || m.acq || m.rel) && (!m.acq || k.acq) && (!m.rel || k.rel) &&
    (!m.o || (k.o && !m.acq && !m.rel)) &&
    (!m.rem || (k.rem && m.acq && (m.scope.getD .dev == .dev || m.scope.getD .dev == .sector))) &&
    (!m.sx || k.sx) && (!m.w64 || k.w64) && m.rm == .rn && (!m.sat || k.sat) && !m.nsat && !m.sym

end Sys2Proof.Machine
end

