-- ==== Sys2Proof/Machine/Engine.lean ====
section
/-!
DEFINITION. What the engines share: handles and their transitions (R91-R93), the locks of their ranges (R94, R96), and their
accesses to memory with the stalls that these meet (R87, R88, R374, R410).
-/

namespace Sys2Proof.Machine

/-! Engine instructions (R271, R285). -/

/-- An instruction of an engine acts once for the team, as the lowest active lane. -/
def Ctx.lane (cx : Ctx) : Nat := lowLane cx.act

/-- A uniform operand's value. -/
def Ctx.uval (cx : Ctx) (o : Operand) : W64 := (cx.read o).at_ 0

/-- Whether a handle is allocated to the partition of the team (R91). -/
def Ctx.ownsHandle (cx : Ctx) (h : Nat) : Bool := let x := cx.s.handle cx.c h; x.alloc && x.part == cx.part

/-- A handle that is not the partition's traps (R285). -/
def Ctx.withHandle (cx : Ctx) (h : Nat) (k : Ctx → Did) : Did :=
  if cx.ownsHandle h then k cx else .trap cx.s .handle 0 none cx.act

/-- A private-window address of a lane as its global alias (R75, R285). -/
def aliasOf (w : Who) (lane : Nat) (a : W64) : W64 :=
  if regionOf a.toNat = .priv && a.toNat - privBase < w.priv then
    BitVec.ofNat 64 (w.privAt + lane * w.priv + (a.toNat - privBase))
  else a

/-- A range cut where a lane's private window begins and where its memory ends, the part inside at its global alias. What lies at or above P stays
as it is, and is unmappable (R75, R285). -/
def aliasParts (w : Who) (lane a n : Nat) : List (Nat × Nat) :=
  let lo := min (a + n) (max a privBase)
  let hi := min (a + n) (max lo (privBase + w.priv))
  [(a, lo - a), (w.privAt + lane * w.priv + (lo - privBase), hi - lo), (hi, a + n - hi)].filter fun p => 0 < p.2

/-- Whether a range lies wholly in the near region, the bulk region or the private window below P (R288). -/
def rangeOk (w : Who) (a : W64) (n : Nat) : Bool :=
  inNearOrBulk a.toNat n || (decide (privBase ≤ a.toNat) && decide (a.toNat + n ≤ privBase + w.priv))

/-! Handles (R91-R93). -/

/-- Error codes of R93. -/
def errFault : Nat := 1
def errOrphan : Nat := 2
def errPoison : Nat := 3
def errRefused : Nat := 4
def errCancelled : Nat := 5

/-- The symbol of a handle's result arrives on its lane; one that has arrived, of an earlier job, keeps its value (R336). -/
def State.resultOf (s : State) (c h : Nat) (v : W64) : State :=
  s.onCore c fun k =>
    { k with syms := k.syms.map fun e =>
        if e.2.src == .handle h then (e.1, (lanesOf (e.2.lanes &&& ~~~e.2.arrived)).foldl (fun y l => y.put l v none) e.2) else e }

/-- A handle that an engine takes as its destination: FREE to FILLING, its range locked in an entry (R92, R94). -/
def State.fillHandle (s : State) (c h : Nat) (base : W64) (len : Nat) (scope : Scope) (lock : Option Nat) : State :=
  let x := s.handle c h
  let s := s.setHandle c h { x with
    base := base, len := BitVec.ofNat 32 len, scope := scope, err := 0, st := .filling, lv := lock.isSome
    lock := lock.getD x.lock, posted := false, job := false }
  match lock with
  | some i => s.lock c i { base := base, len := len, handle := h, hv := true, dst := true, part := x.part }
  | none => s

/-- FILLING to FULL: the first error stays, the lock is released (R92). -/
def State.fullHandle (s : State) (c h err : Nat) : State :=
  let s := s.unlockHandle c h
  let x := s.handle c h
  s.setHandle c h { x with st := .full, err := if x.err = 0 then err else x.err }

/-- FULL to DRAINING: the range is locked as a source, at the address that its base converts to (R75, R92, R94, R285). -/
def State.drainHandle (s : State) (c h lock : Nat) (base : W64) : State :=
  let x := s.handle c h
  (s.setHandle c h { x with st := .draining, lv := true, lock := lock }).lock c lock
    { base := base, len := x.len.toNat, handle := h, hv := true, dst := false, part := x.part }

/-- DRAINING to FREE: the lock is released (R92). -/
def State.freeHandle (s : State) (c h : Nat) : State :=
  let s := s.unlockHandle c h
  s.onHandle c h fun x => { x with st := .free, posted := false }

/-- Whether a range conflicts with a lock of the core, as a source or as a destination (R96). -/
def Ctx.conflicts (cx : Ctx) (dst : Bool) (a : W64) (n : Nat) : Bool := (cx.s.core cx.c).locked cx.part dst a.toNat n

/-- The free entries of the core's range-lock table. -/
def Ctx.freeLocks (cx : Ctx) : List Nat := (cx.s.core cx.c).freeLocks

/-! Engine accesses (R87, R410). -/

/-- The view of an engine command: the tables of its partition; the team's mode when it was issued, and the private block of a team formed for
a system item (R75, log entry 15). -/
def engineWho (c p : Nat) (sys : Bool) (block : Block) : Who := { core := c, part := p, sys := sys, block := block }

/-- What keeps an engine from a part of a range. -/
inductive Trouble where
  | fault (c : FaultCause)
  | form
  | table (tag : Nat)
  deriving DecidableEq, Repr

/-- A part of a range: in memory, or of a page that is not accessed. -/
inductive Piece where
  | here (pa n : Nat)
  | skip (n : Nat)
  deriving DecidableEq, Repr

/-- The page that an answer speaks of. -/
def pageOf (a : Nat) : Nat := a / 0x20000

/-- One part of a range as an engine finds it. -/
def State.piece (s : State) (w : Who) (k : AccessKind) (bad : List Nat) (p : Nat × Nat) : Except (Nat × Trouble) Piece :=
  if bad.contains (pageOf p.1) then .ok (.skip p.2)
  else match s.spot w k 0 p.1 with
    | .memory pa => .ok (.here pa p.2)
    | .fault c => .error (p.1, .fault c)
    | .form | .peer _ _ => .error (p.1, .form)
    | .table t => .error (p.1, .table t)

/-- A range as an engine finds it, or the first thing that keeps it from a part. -/
def State.piecesOf (s : State) (w : Who) (k : AccessKind) (bad : List Nat) : List (Nat × Nat) → Except (Nat × Trouble) (List Piece)
  | [] => .ok []
  | p :: ps => match s.piece w k bad p with
    | .error e => .error e
    | .ok q => match s.piecesOf w k bad ps with
      | .error e => .error e
      | .ok qs => .ok (q :: qs)

/-- The parts of a whole range. -/
def State.rangePieces (s : State) (w : Who) (k : AccessKind) (bad : List Nat) (a n : Nat) : Except (Nat × Trouble) (List Piece) :=
  s.piecesOf w k bad (chunksOf a n)

/-- What an engine meets: a fault stalls its command with a record; an unmappable page is left out; a poisoned table line is consumed,
and its page is left out (R87, R289, R410). R76 gives informational records to lane addresses and fetches alone. -/
def State.engineTrouble (s : State) (w : Who) (r : FaultRecord) (st : Stall) (a : Nat) : Trouble → State × Stall
  | .fault c => (s.queueRecord { r with addr := BitVec.ofNat 64 a, cause := c }, { st with waiting := true, addr := a })
  | .form => (s, { st with badPages := pageOf a :: st.badPages })
  | .table t => (s.consume w.sys t, { st with badPages := pageOf a :: st.badPages })

/-- Bytes that an engine has read: present, or of a page that was left out; and whether their line is poisoned. -/
structure Seg where
  n : Nat
  data : Option (List Byte)
  bad : Option Nat

/-- What some parts hold. -/
def State.readPieces (s : State) (ps : List Piece) : List Seg :=
  ps.map fun p => match p with
    | .here pa n => { n := n, data := some (s.bytes pa n), bad := if s.lineBad pa n then some (s.ownerTag pa) else none }
    | .skip n => { n := n, data := none, bad := none }

/-- The first bytes of a sequence, and the rest. -/
def takeSegs : Nat → List Seg → List Seg × List Seg
  | _, [] => ([], [])
  | n, g :: gs =>
    if n = 0 then ([], g :: gs)
    else if g.n ≤ n then
      let (t, r) := takeSegs (n - g.n) gs
      (g :: t, r)
    else
      ([{ g with n := n, data := g.data.map fun d => d.take n }],
       { g with n := g.n - n, data := g.data.map fun d => d.drop n } :: gs)

/-- A line poisoned; the poisoned lines are kept in ascending order (R378). -/
def State.poisonLine (s : State) (l : Nat) : State :=
  if s.poisoned.contains l then s else { s with poisoned := insertBy (fun a b => a < b) l s.poisoned }

/-- Bytes that an engine of a core writes: to memory and to the core's cached line (R79, R102). -/
def State.engineWrite (s : State) (w : Who) (pa : Nat) (bs : List Byte) : State := (s.write pa bs).patchLine w.core w.part pa bs

/-- Bytes put into a line: those present; the line takes their poison (R289, R378). -/
def State.putSegs (s : State) (w : Who) (pa : Nat) : List Seg → State
  | [] => s
  | gs =>
    let s := if gs.all fun g => g.data.isSome then s.engineWrite w pa ((gs.map fun g => g.data.getD []).flatten)
      else (gs.foldl (fun (r : State × Nat) g => match g.data with
        | some d => (r.1.engineWrite w r.2 d, r.2 + g.n)
        | none => (r.1, r.2 + g.n)) (s, pa)).1
    if gs.any fun g => g.data.isSome && g.bad.isSome then s.poisonLine (pa / 64) else s

/-- A sequence of bytes written over parts of a range. -/
def State.writePieces (s : State) (w : Who) : List Piece → List Seg → State
  | [], _ => s
  | .here pa n :: ps, gs => let (t, r) := takeSegs n gs; (s.putSegs w pa t).writePieces w ps r
  | .skip n :: ps, gs => s.writePieces w ps (takeSegs n gs).2

/-- ERR after a further error: POISON only where none is set, any other always (R289, R291). -/
def errJoin (old new : Nat) : Nat := if new = 0 || (new = errPoison && old != 0) then old else new

/-- The error of a transfer (R93, R289): a page left out at either end, or else poisoned source bytes. -/
def transferErr : List Piece → List Seg → Nat
  | [], _ => 0
  | p :: ps, gs =>
    let n := match p with
      | .here _ n | .skip n => n
    let (t, r) := takeSegs n gs
    let here := match p with
      | .skip _ => errFault
      | .here _ _ =>
        if t.any fun g => g.data.isNone then errFault else if t.any fun g => g.bad.isSome then errPoison else 0
    errJoin here (transferErr ps r)

/-- A range copied by an engine: the new state and the error, or what keeps it from a part. -/
def State.transfer (s : State) (w : Who) (bad : List Nat) (src dst n : Nat) : Except (Nat × AccessKind × Trouble) (State × Nat) :=
  match s.rangePieces w .engineRead bad src n with
  | .error (a, t) => .error (a, .engineRead, t)
  | .ok rs => match s.rangePieces w .engineWrite bad dst n with
    | .error (a, t) => .error (a, .engineWrite, t)
    | .ok ws =>
      let gs := s.readPieces rs
      .ok (s.writePieces w ws gs, transferErr ws gs)

end Sys2Proof.Machine
end

