-- ==== Sys2Proof/Machine/Copy.lean ====
section
/-!
DEFINITION. Copies: `cp`, `cp.sg`, `cp.step` and their completion (R286-R292), and the handle instructions (R293-R295).
-/

namespace Sys2Proof.Machine

/-! Descriptors (R287). -/

/-- A copy descriptor. -/
structure CopyDesc where
  src : W64
  dst : W64
  first : W64
  pred : W64
  len : Nat
  slen : Nat
  bcnt : Nat
  bcore : Nat
  bidx : Nat
  blvl : Nat
  bv : Bool
  scope : Nat
  shv : Bool
  sh : Nat
  pk : Bool
  ph : Nat
  dstr : W32
  sstr : W32
  rsv : Nat
  deriving DecidableEq, Repr

/-- A descriptor from its 64 bytes (R287). -/
def CopyDesc.decode (v : Nat) : CopyDesc :=
  { src := BitVec.ofNat 64 (bits v 448 64), dst := BitVec.ofNat 64 (bits v 384 64), first := BitVec.ofNat 64 (bits v 320 64)
    pred := BitVec.ofNat 64 (bits v 256 64), len := bits v 224 32, slen := bits v 192 32, bcnt := bits v 176 16
    bcore := bits v 168 8, bidx := bits v 162 6, blvl := bits v 160 2, bv := bits v 159 1 == 1, scope := bits v 156 3
    shv := bits v 155 1 == 1, sh := bits v 149 6, pk := bits v 148 1 == 1, ph := bits v 142 6
    dstr := BitVec.ofNat 32 (bits v 110 32), sstr := BitVec.ofNat 32 (bits v 78 32), rsv := bits v 0 78 }

/-- The scope of a code (R171). -/
def scopeCoded : Nat → Option Scope
  | 0 => some .team | 1 => some .core | 2 => some .sector | 3 => some .dev | 4 => some .sys
  | _ => none

/-- The source range of a command: the descriptor's, or that of its source handle (R287, R288). -/
def Ctx.copySource (cx : Ctx) (d : CopyDesc) (sg : Bool) : W64 × Nat :=
  if d.shv then let x := cx.s.handle cx.c d.sh; (x.base, x.len.toNat) else (d.src, if sg then d.slen else d.len)

/-- Whether a descriptor is refused (R288, R292). A `FIRST` or `PRED` that breaks its alignment is taken as one that must be zero. -/
def Ctx.copyRefused (cx : Ctx) (d : CopyDesc) (plan : Bool) (h : Nat) : Bool :=
  let sg := d.pk
  let src := cx.copySource d sg
  d.rsv != 0 || (!plan && (d.ph != 0)) || ((!plan || sg) && (d.dstr != 0 || d.sstr != 0)) ||
    (!sg && (d.first != 0 || d.pred != 0 || d.slen != 0)) ||
    (sg && (d.first.extractLsb' 0 6 != 0 || d.pred.extractLsb' 0 3 != 0)) ||
    (d.shv && (d.src != 0 || d.slen != 0)) || (!d.shv && d.sh != 0) ||
    (!d.bv && (d.bcnt != 0 || d.bcore != 0 || d.bidx != 0 || d.blvl != 0)) || (d.bv && d.blvl != 0 && d.bcore != 0) ||
    d.blvl == 3 || (scopeCoded d.scope).isNone || (d.shv && d.sh == h) ||
    (d.shv && decide ((cx.s.handle cx.c d.sh).len.toNat < d.len)) ||
    (src.2 != 0 && !rangeOk cx.who src.1 src.2) || (d.len != 0 && !rangeOk cx.who d.dst d.len)

/-- Whether a command's barrier fields trap (R288): the barrier is the team's own partition's, as for `bar.arr`. -/
def Ctx.copyBarBad (cx : Ctx) (d : CopyDesc) : Bool :=
  let target := if d.blvl = 0 then d.bcore else cx.c
  d.bv && d.blvl != 3 && (sectorOf target != sectorOf cx.c || decide (barCount d.blvl ≤ d.bidx) ||
    (let b := cx.s.bar d.blvl target d.bidx; !b.owned || b.part != cx.x.pool))

/-- Whether a command's ranges conflict with locks, or with each other (R96, R288). -/
def Ctx.copyConflict (cx : Ctx) (d : CopyDesc) : Bool :=
  let s := cx.copySource d d.pk
  let src := aliasOf cx.who cx.lane s.1
  let dst := aliasOf cx.who cx.lane d.dst
  d.len != 0 &&
    (cx.conflicts false src s.2 || cx.conflicts true dst d.len || overlaps src.toNat s.2 dst.toNat d.len)

/-- Whether a sector's queue and a partition's share of it take one more command (R286); one of a system item is charged to no share (R360). -/
def State.copyRoom (s : State) (c p : Nat) (free : Bool) : Bool :=
  let q := (s.sector (sectorOf c)).copies
  decide (q.length < 64) && (free || decide ((q.filter fun x => x.part == p && !x.free).length < (s.part p).cpmax))

/-- The barrier arrival that a command makes at its end: level, core, index, count, and the generation read at issue (R147, R289). -/
def Ctx.copyArrival (cx : Ctx) (d : CopyDesc) : Option (Nat × Nat × Nat × Nat × Bool) :=
  if !d.bv then none
  else
    let target := if d.blvl = 0 then d.bcore else cx.c
    some (d.blvl, target, d.bidx, d.bcnt, (cx.s.bar d.blvl target d.bidx).gen)

/-- A barrier arrival made (R289). -/
def State.arriveAt (s : State) : Option (Nat × Nat × Nat × Nat × Bool) → State
  | none => s
  | some (lvl, c, i, n, g) => s.arrive lvl c i n g

/-- A command put into its sector's queue, its ranges registered (R289, R290). -/
def Ctx.acceptCopy (cx : Ctx) (s : State) (h : Nat) (d : CopyDesc) (l1 l2 : Nat) : State :=
  let w := cx.who
  let src := cx.copySource d d.pk
  let base := aliasOf w cx.lane src.1
  let dst := aliasOf w cx.lane d.dst
  let s := s.fillHandle cx.c h dst d.len ((scopeCoded d.scope).getD .core) (some l1)
  let s := if d.shv then s.drainHandle cx.c d.sh l2 base
    else s.lock cx.c l2 { base := base, len := src.2, part := cx.part }
  let x : CopyCmd :=
    { core := cx.c, slot := cx.t, part := cx.part, pc := cx.iaddr, handle := h, sg := d.pk, src := base, dst := dst, len := d.len
      slen := src.2, first := d.first, pred := d.pred, srcLock := if d.shv then none else some l2, sh := if d.shv then some d.sh else none
      bar := cx.copyArrival d, sysMode := cx.sys, free := cx.x.formed, privAt := w.privAt + cx.lane * w.priv, priv := w.priv
      block := w.block, next := d.first }
  s.onSector (sectorOf cx.c) fun k => { k with copies := k.copies ++ [x] }

/-- A command that copies no bytes: its source handle is used up, and its own passes through FILLING to FULL at once (R92, R286). -/
def Ctx.emptyCopy (cx : Ctx) (h : Nat) (d : CopyDesc) : State :=
  let s := cx.s.fillHandle cx.c h (aliasOf cx.who cx.lane d.dst) 0 ((scopeCoded d.scope).getD .core) none
  let s := if d.shv then s.freeHandle cx.c d.sh else s
  (s.fullHandle cx.c h 0).arriveAt (cx.copyArrival d)

/-- What a stage of a plan does besides its copy: when it issues, and when it traps after its read (R292). -/
structure StageEnd where
  issued : State → State := id
  trapped : State → State := id

/-- A command of a descriptor that has been read (R288-R290, R292). Of SHV = 1 with SH = h, which R288 both has wait for one handle to be FREE and
FULL and lists as refused, the model waits for FREE alone, checks overlap with what the handle last held, and then refuses (DEDUCED, log entry
46). -/
def Ctx.runCopy (cx : Ctx) (h : Nat) (d : CopyDesc) (plan : Bool) (e : StageEnd) : Did :=
  if (d.shv && !cx.ownsHandle d.sh) || (plan && !cx.ownsHandle h) then .trap (e.trapped cx.s) .handle 0 none cx.act
  else if (cx.s.handle cx.c h).st != .free || (d.shv && d.sh != h && (cx.s.handle cx.c d.sh).st != .full) then .wait cx.s .issue
  else if cx.copyBarBad d then .trap (e.trapped cx.s) .barrier 0 none cx.act
  else if cx.copyConflict d then .trap (e.trapped cx.s) .range 0 none cx.act
  else if cx.copyRefused d plan h then
    .done (e.issued ((cx.s.fillHandle cx.c h d.dst d.len .core none).fullHandle cx.c h errRefused)) 0
  else if !(cx.s.copyRoom cx.c cx.part cx.x.formed) then .wait cx.s .issue
  else if d.len = 0 then .done (e.issued (cx.emptyCopy h d)) 0
  else match cx.freeLocks with
    | l1 :: l2 :: _ => .done (e.issued (cx.acceptCopy cx.s h d l1 l2)) 0
    | _ => .wait cx.s .issue

/-- A record that the instruction reads for itself, by loads of the lowest active lane (R288); `bad` is what a trap on its poison does
besides. -/
def Ctx.readOwn (cx : Ctx) (seat : Nat) (a : W64) (k : Ctx → Nat → Did) (bad : State → State := id) : Did :=
  if a.extractLsb' 0 6 != 0 then .trap cx.s .align 0 (some a) (laneBit cx.lane)
  else cx.awaitAccess { cx.ownAccess (.record 64) (laneBit cx.lane) (fun _ => a) with seat := seat } fun cx =>
    cx.soundReads (fun _ => a) (bad := bad) fun cx => k cx (leNat (cx.p.reads.atD (cx.lane + 1024 * seat) []))

def copyRules (x : Operand) : Rules := { ops := [x], ok := fun cx => cx.isU x }

/-- `cp` and `cp.sg`: a descriptor with PK set is no stage of a plan, and is refused (R292). -/
def Ctx.copyAt (cx : Ctx) (x : Operand) (h : Nat) (sg : Bool) : Did :=
  cx.behind 1 fun cx => cx.blockOn [x] fun cx => cx.withHandle h fun cx =>
    cx.readOwn 0 (cx.uval x) fun cx v =>
      let d := CopyDesc.decode v
      cx.runCopy h { d with pk := sg, rsv := if d.pk then 1 else d.rsv } false {}

/-- `cp` (R289). -/
def execCp (x : Operand) (h : BitVec 6) : State → Host.Outcome State Fault Refusal :=
  perform (copyRules x) fun cx => cx.copyAt x h.toNat false

/-- `cp.sg` (R290). -/
def execCpSg (x : Operand) (h : BitVec 6) : State → Host.Outcome State Fault Refusal :=
  perform (copyRules x) fun cx => cx.copyAt x h.toNat true

/-- The team's stage counter. -/
def Ctx.stage (cx : Ctx) : Nat := cx.x.stage.toNat

/-- A stage of a plan with its strides applied (R292). -/
def CopyDesc.stride (d : CopyDesc) (k : Nat) : CopyDesc :=
  if d.pk then d
  else { d with
    src := d.src + BitVec.ofNat 64 k * d.sstr.signExtend 64, dst := d.dst + BitVec.ofNat 64 k * d.dstr.signExtend 64 }

/-- The team's stage counter after a stage. -/
def Ctx.nextStage (cx : Ctx) (s : State) : State := s.onTeam cx.c cx.t fun y => { y with stage := y.stage + 1 }

/-- `cp.step` (R292): of a stage that traps after its read, poison in it among these traps, only the counter advances. -/
def execCpStep (x : Operand) : State → Host.Outcome State Fault Refusal :=
  perform { ops := [x], ok := fun cx => cx.dstU x } fun cx => cx.behind 1 fun cx =>
    let plan := cx.x.entry.plan
    if plan = 0 then .trap cx.s .xfer 0 none cx.act
    else if cx.destWaits x then .wait cx.s .issue
    else cx.readOwn 0 plan fun cx hd =>
      if hd / 64 != 0 then .trap cx.s .xfer 0 none cx.act
      else
        let nst := hd % 64 + 1
        let n := cx.stage
        cx.readOwn 1 (plan + BitVec.ofNat 64 (64 * (1 + n % nst))) (bad := cx.nextStage) fun cx v =>
          let d := (CopyDesc.decode v).stride (n / nst)
          cx.runCopy d.ph d true
            { issued := fun s => cx.nextStage (cx.write s x (fun _ => BitVec.ofNat 64 n) noOrigin), trapped := cx.nextStage }

/-! Completion (R289-R291). -/

/-- The engine record of a command (R88). -/
def CopyCmd.record (x : CopyCmd) (k : AccessKind) : FaultRecord :=
  { pc := x.pc, core := x.core, fbi := x.handle, tslot := x.slot % 32, part := x.part, kind := k, size := 8 }

/-- A command of a sector's queue replaced. -/
def State.setCopy (s : State) (n i : Nat) (x : CopyCmd) : State := s.onSector n fun k => { k with copies := setAt k.copies i x }

/-- The source of a command released (R289, step 6). -/
def State.releaseSource (s : State) (x : CopyCmd) : State :=
  let s := match x.srcLock with
    | some l => s.unlock x.core l
    | none => s
  match x.sh with
  | some h => s.freeHandle x.core h
  | none => s

/-- A command ended: its locks are released, its handle passes to FULL, then its barrier arrival is made (R289, steps 6 and 7). -/
def State.endCopy (s : State) (n i : Nat) (x : CopyCmd) (err : Nat) : State :=
  let s := s.onSector n fun k => { k with copies := dropAt k.copies i }
  let s := if x.free then s else s.counted x.part .copy
  ((s.releaseSource x).fullHandle x.core x.handle err).arriveAt x.bar

/-- A command's view of memory. -/
def CopyCmd.who (x : CopyCmd) : Who := engineWho x.core x.part x.sysMode x.block

/-- What an engine meets on behalf of a command. -/
def State.copyTrouble (s : State) (n i : Nat) (x : CopyCmd) (a : Nat) (k : AccessKind) (t : Trouble) : State :=
  let st := (s.engineTrouble x.who (x.record k) x.stall a t).2
  (s.setCopy n i { x with stall := st }).engineTrouble x.who (x.record k) x.stall a t |>.1

/-- An address that a chain gives, with the private window of its lane (R285). -/
def CopyCmd.alias_ (x : CopyCmd) (a : W64) : W64 := aliasOf { core := x.core, part := x.part, privAt := x.privAt, priv := x.priv } 0 a

/-- Whether a range lies within an envelope (R291). -/
def inEnvelope (a : W64) (n : Nat) (env : W64) (len : Nat) : Bool :=
  decide (env.toNat ≤ a.toNat) && decide (a.toNat + n ≤ env.toNat + len)

/-- What a chain's element does next. -/
inductive Link_ where
  | stop (err : Nat)
  | trouble (a : Nat) (k : AccessKind) (t : Trouble)
  | go (s : State) (next : W64) (err : Nat)

/-- The bytes of some parts: none where a page is left out, with their poison. -/
def State.pieceBytes (s : State) (ps : List Piece) : Option (List Byte) × Option Nat :=
  let gs := s.readPieces ps
  (if gs.all fun g => g.data.isSome then some (gs.map fun g => g.data.getD []).flatten else none,
    (gs.find? fun g => g.bad.isSome).bind fun g => g.bad)

/-- The bytes that an engine reads for itself. -/
def State.engineBytes (s : State) (w : Who) (bad : List Nat) (a n : Nat) : Except (Nat × Trouble) (Option (List Byte) × Option Nat) :=
  (s.rangePieces w .engineRead bad a n).map s.pieceBytes

/-- Whether an element is skipped, by its predicate word (R290, R291). -/
def State.elementSkipped (s : State) (w : Who) (x : CopyCmd) (v : Nat) : Except (Nat × Trouble) (Option Bool × Nat) :=
  if bits v 280 1 = 0 then .ok (some false, 0)
  else match s.engineBytes w x.stall.badPages (x.alias_ x.pred).toNat 8 with
    | .error e => .error e
    | .ok (none, _) => .ok (none, errFault)
    | .ok (some _, some _) => .ok (none, errPoison)
    | .ok (some bs, none) => .ok (some (bits (leNat bs) (bits v 282 6) 1 == bits v 281 1), 0)

/-- One element of a chain (R290, R291). An element or a predicate word that cannot be read, or is poisoned, ends the chain. The ranges of an
element with ELEN = 0 must lie in the envelopes like others (DEDUCED, log entry 46: R291 makes no exception for it). -/
def State.element (s : State) (x : CopyCmd) : Link_ :=
  let w := x.who
  match s.engineBytes w x.stall.badPages (x.alias_ x.next).toNat 64 with
  | .error (a, t) => .trouble a .engineRead t
  | .ok (none, _) => .stop errFault
  | .ok (some _, some _) => .stop errPoison
  | .ok (some bs, none) =>
    let v := leNat bs
    let next := BitVec.ofNat 64 (bits v 448 64)
    let src := x.alias_ (BitVec.ofNat 64 (bits v 384 64))
    let dst := x.alias_ (BitVec.ofNat 64 (bits v 320 64))
    let n := bits v 288 32
    if bits v 0 280 != 0 || next.extractLsb' 0 6 != 0 || (bits v 280 1 == 1 && x.pred == 0) ||
      !inEnvelope src n x.src x.slen || !inEnvelope dst n x.dst x.len then .stop errRefused
    else match s.elementSkipped w x v with
      | .error (a, t) => .trouble a .engineRead t
      | .ok (none, e) => .stop e
      | .ok (some true, _) => .go s next 0
      | .ok (some false, _) => match s.transfer w x.stall.badPages src.toNat dst.toNat n with
        | .error (a, k, t) => .trouble a k t
        | .ok (s, e) => .go s next e

/-- A chain run as far as it goes (R291). -/
def State.runChain (s : State) (n i : Nat) (x : CopyCmd) : Nat → State
  | 0 => s.setCopy n i x
  | f + 1 =>
    if x.next = 0 then s.endCopy n i x x.err
    else if 65536 ≤ x.count then s.endCopy n i x errRefused
    else match s.element x with
      | .stop e => s.endCopy n i x (errJoin x.err e)
      | .trouble a k t => s.copyTrouble n i x a k t
      | .go s next e => s.runChain n i { x with next := next, count := x.count + 1, err := errJoin x.err e } f

/-- `copy_completion` (R289-R291): a command of a sector's queue runs to its end, or to a page that stalls it; the sector's
six engines run the first six commands of the queue (R17), any of which may be the next, since no engine and no order are architectural (R286, log
entry 4). -/
def execCopyCompletion (sector index : Nat) (s : State) : Host.Outcome State Fault Refusal :=
  .next (match (s.sector sector).copies[index]? with
    | none => s
    | some x =>
      if x.stall.waiting || 6 ≤ index then s
      else if x.sg then s.runChain sector index x 65538
      else match s.transfer x.who x.stall.badPages x.src.toNat x.dst.toNat x.len with
        | .error (a, k, t) => s.copyTrouble sector index x a k t
        | .ok (s, e) => s.endCopy sector index x e)

/-! Handle instructions (R293-R295). -/

/-- `h.wait` (R293): the return is an acquire at the handle's scope. -/
def execHWait (h : BitVec 6) : State → Host.Outcome State Fault Refusal :=
  perform { ops := [.lane], p15 := true } fun cx =>
    cx.withHandle h.toNat fun cx =>
      let x := cx.s.handle cx.c h.toNat
      if x.st != .full then .wait cx.s .issue
      else
        let s := cx.s.discardLines cx.c cx.who.part x.scope
        .done (cx.writeP15 s fun _ => x.err != 0) 0

/-- `h.set` with a range: FREE to FULL, a release (R294). -/
def execHSet (x y : Operand) (h : BitVec 6) : State → Host.Outcome State Fault Refusal :=
  perform { ops := [x, y], ok := fun cx => cx.isU x && cx.isU y && x != .zero && y != .zero } fun cx =>
    cx.blockOn [x, y] fun cx => cx.withHandle h.toNat fun cx =>
      let v := cx.uval y
      match scopeCoded (v.extractLsb' 32 3).toNat with
      | none => .trap cx.s .handle 0 none cx.act
      | some sc =>
        if v >>> 35 != 0 || (cx.s.handle cx.c h.toNat).st != .free then .trap cx.s .handle 0 none cx.act
        else if cx.unsettled then .wait cx.s .issue
        else
          .done (cx.s.onHandle cx.c h.toNat fun k => { k with
            base := cx.uval x, len := v.setWidth 32, scope := sc, err := 0, st := .full, lv := false, posted := false, job := false }) 0

/-- ERR of a posted handle takes its first error (R304). -/
def State.noteErr (s : State) (c h e : Nat) : State :=
  let x := s.handle c h
  if e = 0 || x.err != 0 || x.st != .filling || !x.posted then s else s.setHandle c h { x with err := e }

/-- The place of a handle's arrival record (R324). -/
def State.arrivalAt (s : State) (c h : Nat) : Nat := (s.part (s.handle c h).part).arrt.toNat + 64 * (64 * c + h)

/-- An arrival record with its first four argument words replaced (R324). -/
def ItemRecord.arrival (r : ItemRecord) (x : Handle) : ItemRecord :=
  { r with args := [x.base.setWidth 32, (x.base >>> 32).setWidth 32, x.len, BitVec.ofNat 32 x.err] ++ r.args.drop 4 }

/-- A posted handle passes to FULL; where a message came over Ultra Ethernet, its arrival record is offered after the release, or
refused (R304, R324). -/
def State.fullPosted (s : State) (c h : Nat) : State :=
  let x := s.handle c h
  let full (s : State) : State := s.fullHandle c h 0
  if !x.ueSeen then full s
  else
    let s := s.walks (deviceWho c x.part) .load (s.arrivalAt c h) 64
    let refused : State := (full (s.raise 0x0005 c (some x.part) 0 (BitVec.ofNat 32 x.uePort))).onHandle c h fun y => { y with err := errRefused }
    match s.readRange (deviceWho c x.part) (s.arrivalAt c h) 64 with
    | none => refused
    | some bs =>
      if bs.all fun b => b == 0 then full s
      else
        let (r, z) := ItemRecord.decode (leNat bs)
        let r := r.arrival x
        if s.itemOk r z false true x.part then (full s).offer r x.part else refused

/-- The requests for a receive handle. -/
def PullEntry.to (r : PullEntry) (c h : Nat) : Bool := r.dcore == c && r.dh == h

/-- A post cancelled: its requests leave the Caller's list, and their senders are told that they are refused (R294, R306). -/
def State.cancelPost (s : State) (c h : Nat) : State :=
  let p := (s.handle c h).part
  let gone := ((s.part p).requests ++ (s.part p).savedRequests).filter fun r => r.to c h
  let s := gone.foldl (fun s r => s.sendVia p r.ue r.sdev fun port => .notice (r.sender s.devid.toNat) p port r.score r.sh false) s
  let s := s.onPart p fun q =>
    { q with requests := q.requests.filter fun r => !r.to c h, savedRequests := q.savedRequests.filter fun r => !r.to c h }
  (s.noteErr c h errCancelled).fullPosted c h

/-- `h.set` without a range: FULL to FREE, or a post cancelled, which is a release (R294). -/
def execHSetFree (h : BitVec 6) : State → Host.Outcome State Fault Refusal :=
  perform {} fun cx => cx.withHandle h.toNat fun cx =>
    let x := cx.s.handle cx.c h.toNat
    match x.st with
    | .full => .done (cx.s.freeHandle cx.c h.toNat) 0
    | .filling =>
      if !x.posted then .trap cx.s .handle 0 none cx.act
      else if cx.unsettled then .wait cx.s .issue
      else .done (cx.s.cancelPost cx.c h.toNat) 0
    | .free | .draining => .trap cx.s .handle 0 none cx.act

/-- The code of a handle's state (R91). -/
def HandleState.code : HandleState → Nat
  | .free => 0 | .filling => 1 | .full => 2 | .draining => 3

/-- Bits [63:0] of a handle entry (R91). LOCK means nothing while LV is 0 (log entry 9). -/
def Handle.word (x : Handle) (idle : Nat) : W64 :=
  BitVec.ofNat 64 (x.len.toNat * 2 ^ 32 + x.part % 8 * 2 ^ 22 + x.scope.code.toNat * 2 ^ 19 + x.err % 16 * 2 ^ 15 +
    (if x.lv then 2 ^ 14 + x.lock % 64 * 2 ^ 8 else (Config.idleField idle).toNat % 64 * 2 ^ 8) + x.st.code)

/-- `h.q` (R295). -/
def execHQ (x : Operand) (h : BitVec 6) : State → Host.Outcome State Fault Refusal :=
  perform { ops := [x], ok := fun cx => cx.dstU x } fun cx => cx.withHandle h.toNat fun cx =>
    if cx.destWaits x then .wait cx.s .issue
    else .done (cx.write { cx.s with fresh := cx.s.fresh + 1 } x (fun _ => (cx.s.handle cx.c h.toNat).word cx.s.fresh) noOrigin) 0

end Sys2Proof.Machine
end

