-- ==== Sys2Proof/Machine/Memory.lean ====
section
/-!
DEFINITION. Majors 0x20 to 0x26: loads, stores, prefetch, zeroing, address queries, allocation and atomics (R214-R230).
-/

namespace Sys2Proof.Machine

/-! Loads (R219). -/

def loadRules (d a b : Operand) (wide : Bool) : Rules :=
  { ops := [d, a, b], exts := 1, mods := ({ sx := !wide, acq := true, rem := true } : MemMods).ok
    ok := fun cx => (if wide then cx.dstEvenU d || d == .zero else cx.dstVU d) && cx.isU a && cx.isVU b && noMix d [b] }

def loadReq (n : Nat) (d a b : Operand) (m : ModHint) : Req :=
  { op := .load n m.sx, base := a, idx := b, dest := some d, wide := n == 8 }

/-- `ld.b` (R219). -/
def execLdB (d a b : Operand) : State → Host.Outcome State Fault Refusal :=
  perform (loadRules d a b false) fun cx => cx.startAccess (loadReq 1 d a b cx.mods)

/-- `ld.h` (R219). -/
def execLdH (d a b : Operand) : State → Host.Outcome State Fault Refusal :=
  perform (loadRules d a b false) fun cx => cx.startAccess (loadReq 2 d a b cx.mods)

/-- `ld.w` (R219). -/
def execLdW (d a b : Operand) : State → Host.Outcome State Fault Refusal :=
  perform (loadRules d a b false) fun cx => cx.startAccess (loadReq 4 d a b cx.mods)

/-- `ld.d` (R219). -/
def execLdD (d a b : Operand) : State → Host.Outcome State Fault Refusal :=
  perform (loadRules d a b true) fun cx => cx.startAccess (loadReq 8 d a b cx.mods)

/-! Stores (R220, R221). -/

/-- A uniform data operand, 0xFF among them, stands with no vector index (R187, R214). -/
def dataMix (d b : Operand) : Bool := !uniformOp d || !vectorOp b

def storeRules (d a b : Operand) (wide : Bool) : Rules :=
  { ops := [d, a, b], exts := 1, mods := ({ rel := true, o := true } : MemMods).ok
    ok := fun cx => (if wide then cx.isEvenU d else cx.isVU d) && cx.isU a && cx.isVU b && dataMix d b }

def storeReq (n : Nat) (d a b : Operand) : Req := { op := .store n, base := a, idx := b, data := some d, wide := n == 8 }

/-- `st.b` (R220). -/
def execStB (d a b : Operand) : State → Host.Outcome State Fault Refusal :=
  perform (storeRules d a b false) fun cx => cx.startAccess (storeReq 1 d a b)

/-- `st.h` (R220). -/
def execStH (d a b : Operand) : State → Host.Outcome State Fault Refusal :=
  perform (storeRules d a b false) fun cx => cx.startAccess (storeReq 2 d a b)

/-- `st.w` (R220). -/
def execStW (d a b : Operand) : State → Host.Outcome State Fault Refusal :=
  perform (storeRules d a b false) fun cx => cx.startAccess (storeReq 4 d a b)

/-- `st.d` (R220). -/
def execStD (d a b : Operand) : State → Host.Outcome State Fault Refusal :=
  perform (storeRules d a b true) fun cx => cx.startAccess (storeReq 8 d a b)

/-! Prefetch and zeroing (R223, R224). -/

def zeroReq (a b : Operand) : Req := { op := .zeroLine, base := a, idx := b }

/-- What `pref` and `zero` admit: an extension, as R179 names them, where R217's last row gives none to what it does not name (log entry 62). -/
def lineRules (a b : Operand) : Rules := { ops := [a, b], exts := 1, ok := fun cx => cx.isU a && cx.isVU b }

/-- A line of bulk memory, or of a peer window, put into the read cache (R223): bulk memory where it translates, a peer's when it answers. The
request stands for no lane and orders nothing; the tags of poisoned table lines that the walk reads are answered beside (R410). -/
def State.prefetch (s : State) (w : Who) (t l v : Nat) : State × List Nat :=
  match regionOf v, s.spot w .load l v with
  | .bulk, .memory pa => ((s.fillSpot w l v).fillLine w.core w.part pa, [])
  | .bulk, .table tag => (s, [tag])
  | .peer, .peer d o =>
    (s.request w t { op := .fence 0 0, part := w.part, sys := w.sys } .read { peer := d, size := 8, lines := [v / 64] }
      ((List.range 8).map fun k => (o / 64 * 64 + 8 * k, 0, 0)), [])
  | _, _ => (s, [])

/-- The lines of some lanes fetched; poison that their walks read is consumed (R223, R410). -/
def State.prefetchAll (s : State) (w : Who) (t : Nat) (vs : List (Nat × Nat)) : State :=
  let (s, tags) := vs.foldl (fun (r : State × List Nat) v =>
    let (s, ts) := r.1.prefetch w t v.1 v.2
    (s, r.2 ++ ts)) (s, [])
  s.consumeAll w.sys tags.eraseDups

/-- `pref` (R223): a symbolic address blocks. A poisoned one fetches nothing: memory poison is consumed (R70), and of address poison `pref`
never traps. -/
def execPref (a b : Operand) : State → Host.Outcome State Fault Refusal :=
  perform (lineRules a b) fun cx =>
    if [a, b].any cx.symbolic then .wait cx.s .issue
    else
      let q := cx.accessOf (zeroReq a b)
      let tags := tagsOf q.origins
      let s := cx.s.consumeAll cx.sys tags
      if cx.endsTeam tags then .gone s
      else .done (s.prefetchAll cx.who cx.t ((lanesOf cx.act).filterMap fun l =>
        if (q.addrPois l).isSome then none else some (l, (q.addr l).toNat))) 0

/-- `zero` (R224). -/
def execZeroLine (a b : Operand) : State → Host.Outcome State Fault Refusal :=
  perform (lineRules a b) fun cx => cx.startAccess (zeroReq a b)

/-! Address queries (R225). -/

/-- The global alias of a generic address for a lane (R225). -/
def gaddrOf (w : Who) (lane : Nat) (a : W64) : W64 :=
  if regionOf a.toNat != .priv then a
  else
    let o := a.toNat - privBase
    if o < w.priv then BitVec.ofNat 64 (w.privAt + lane * w.priv + o) else 0

/-- The code of R77 of a generic address. -/
def spaceOf (w : Who) (dev : Nat) (a : W64) : W64 :=
  match w.place dev 0 a.toNat with
  | none => 0
  | some _ => match regionOf a.toNat with
    | .near => 1
    | .priv => 2
    | .bulk => 3
    | .peer => 4
    | .system => 5
    | .null | .hole => 0

/-- `gaddr` (R225). -/
def execGaddr (d a : Operand) : State → Host.Outcome State Fault Refusal :=
  perform { ops := [d, a], ok := fun cx => (cx.dstEvenU d || d == .zero) && cx.isEvenU a && noMix d [a] } fun cx =>
    cx.compute64 d [a] fun cx l => gaddrOf cx.who (if cx.sys then 0 else l) ((cx.read64 a).at_ l)

/-- `space` (R225). -/
def execSpace (d a : Operand) : State → Host.Outcome State Fault Refusal :=
  perform { ops := [d, a], ok := fun cx => cx.dstVU d && cx.isEvenU a && noMix d [a] } fun cx =>
    if cx.destWaits d then .wait cx.s .issue
    else cx.blockOn64 [a] fun cx =>
      .done (cx.write cx.s d (fun l => spaceOf cx.who cx.s.devid.toNat ((cx.read64 a).at_ l)) noOrigin) 0

/-! Allocation (R81-R83, R226, R227). -/

/-- A run taken from a near pool of a core within the quota (R82, R148). -/
def State.allocNear (s : State) (p c pool n : Nat) : Option (Nat × State) :=
  let q := s.part p
  let runs := if pool = 0 then q.nearRuns.atD c [] else q.anyRuns.atD c []
  if quotaNear (s.quota c p) < s.nearHeld p c + n then none
  else (takeRun s.fresh runs n).map fun r =>
    (r.1, { (s.onPart p fun q =>
      { q with
        nearRuns := if pool = 0 then q.nearRuns.put c r.2 else q.nearRuns
        anyRuns := if pool = 0 then q.anyRuns else q.anyRuns.put c r.2
        live := q.live ++ [{ base := r.1, len := n, pool := pool, core := c }] }) with fresh := s.fresh + 1 })

/-- The first core of a list with room in the near pool of all slices (R81). -/
def State.allocAny (s : State) (p n : Nat) : List Nat → Option (Nat × State)
  | [] => none
  | c :: cs => match s.allocNear p c 1 n with
    | some r => some r
    | none => s.allocAny p n cs

/-- A run taken from the bulk pool (R82). -/
def State.allocBulk (s : State) (p n : Nat) : Option (Nat × State) :=
  (takeRun s.fresh (s.part p).bulkRuns n).map fun r =>
    (r.1, { (s.onPart p fun q =>
      { q with bulkRuns := r.2, live := q.live ++ [{ base := r.1, len := n, pool := 2 }] }) with fresh := s.fresh + 1 })

/-- One lane's request: an address, or 0 (R81, R82). -/
def State.allocOne (s : State) (p c pool z : Nat) : W64 × State :=
  let n := roundUp z 256
  if z = 0 || (if pool = 2 then 0x80000000 else 0x1000000) < z then (0, s)
  else match (if pool = 0 then s.allocNear p c 0 n else if pool = 1 then s.allocAny p n (List.range 256) else s.allocBulk p n) with
    | none => (0, s)
    | some (a, s) => (BitVec.ofNat 64 a, s)

/-- Requests of lanes served in ascending order (R82): the addresses by lane. -/
def State.allocLanes (s : State) (w : Who) (zeroed : Bool) (pool : Nat) (size : Nat → Nat) : List Nat → SMap W64 × State
  | [] => ([], s)
  | l :: ls =>
    let (a, s) := s.allocOne w.part w.core pool (size l)
    let s := if a = 0 then s
      else if zeroed then s.zeroRange { w with sys := true } a.toNat (roundUp (size l) 256)
      else s.dropRange { w with sys := true } a.toNat (roundUp (size l) 256)
    let (r, s) := s.allocLanes w zeroed pool size ls
    ((l, a) :: r, s)

/-- `alloc` and `alloc.z`: with a uniform destination, one request by the lowest active lane (R226). -/
def Ctx.allocate (cx : Ctx) (zeroed : Bool) (d a b : Operand) : Did :=
  if cx.destWaits64 d then .wait cx.s .issue
  else cx.blockOn [a, b] fun cx =>
      let pool := ((cx.read b).at_ 0).toNat
      let size := cx.read a
      let lanes := if uniformOp d && uniformOp a then [lowLane cx.act] else lanesOf cx.act
      if 2 < pool then .done (cx.write64 cx.s d (fun _ => 0) noOrigin) (flagAt Flag.allocerr lanes)
      else
        let (m, s) := cx.s.allocLanes cx.who zeroed pool (fun l => (size.at_ l).toNat) lanes
        .done (cx.write64 s d (fun l => SMap.atD m l 0) noOrigin) 0

def allocRules (d a b : Operand) : Rules :=
  { ops := [d, a, b], ok := fun cx => (cx.dstEvenU d || d == .zero) && cx.isVU a && cx.isU b && noMix d [a] }

/-- `alloc` (R226). -/
def execAlloc (d a b : Operand) : State → Host.Outcome State Fault Refusal :=
  perform (allocRules d a b) fun cx => cx.allocate false d a b

/-- `alloc.z` (R226). -/
def execAllocZ (d a b : Operand) : State → Host.Outcome State Fault Refusal :=
  perform (allocRules d a b) fun cx => cx.allocate true d a b

/-- One address freed: the state, and whether it was an error (R83). -/
def State.freeOne (s : State) (p : Nat) (a : W64) : State × Bool :=
  if a = 0 then (s, false)
  else match (s.part p).live.find? fun e => e.base == a.toNat with
    | none => (s, true)
    | some e =>
      (s.onPart p fun q =>
        { q with
          live := q.live.erase e
          nearRuns := if e.pool = 0 then q.nearRuns.put e.core (giveRun (q.nearRuns.atD e.core []) e.base e.len) else q.nearRuns
          anyRuns := if e.pool = 1 then q.anyRuns.put e.core (giveRun (q.anyRuns.atD e.core []) e.base e.len) else q.anyRuns
          bulkRuns := if e.pool = 2 then giveRun q.bulkRuns e.base e.len else q.bulkRuns }, false)

/-- `free` (R83, R227). -/
def execFreeMem (a : Operand) : State → Host.Outcome State Fault Refusal :=
  perform { ops := [a], ok := fun cx => cx.isEvenU a } fun cx =>
    cx.blockOn64 [a] fun cx =>
      let v := cx.read64 a
      let lanes := if uniformOp a then [lowLane cx.act] else lanesOf cx.act
      let (s, bad) := lanes.foldl (fun (r : State × List Nat) l =>
        let (s, e) := r.1.freeOne cx.part (v.at_ l)
        (s, if e then l :: r.2 else r.2)) (cx.s, [])
      .done s (flagAt Flag.allocerr bad)

/-! Atomics (R228, R229). -/

/-- An atomic: D is operand and destination; S3 is the compare value of `atom.cas`. -/
def atomRules (op : AtomOp) (d a b : Operand) : Rules :=
  { ops := [d, a, b], exts := 1, p15 := op == .addSatN
    mods := ({ acq := true, rel := true, rem := true, w64 := op != .fadd, s3 := op == .cas } : MemMods).ok
    ok := fun cx =>
      let m := cx.mods
      (if m.w64 then cx.dstEvenU d || d == .zero else cx.dstVU d) && cx.isU a && cx.isVU b &&
        (if m.w64 then cx.isEvenU m.s3 else cx.isVU m.s3) && dataMix d b && noMix d [m.s3] }

def atomReq (op : AtomOp) (d a b : Operand) (m : ModHint) : Req :=
  { op := .atom op (if m.w64 then 8 else 4), base := a, idx := b, data := some d
    s3 := if op == .cas then some m.s3 else none, dest := some d, wide := m.w64, p15 := op == .addSatN }

def Ctx.atomic (cx : Ctx) (op : AtomOp) (d a b : Operand) : Did := cx.startAccess (atomReq op d a b cx.mods)

/-- `atom.add` (R228). -/
def execAtomAdd (d a b : Operand) : State → Host.Outcome State Fault Refusal :=
  perform (atomRules .add d a b) fun cx => cx.atomic .add d a b

/-- `atom.add.sat.n` (R228). -/
def execAtomAddSatN (d a b : Operand) : State → Host.Outcome State Fault Refusal :=
  perform (atomRules .addSatN d a b) fun cx => cx.atomic .addSatN d a b

/-- `atom.fadd` (R228). -/
def execAtomFadd (d a b : Operand) : State → Host.Outcome State Fault Refusal :=
  perform (atomRules .fadd d a b) fun cx => cx.atomic .fadd d a b

/-- `atom.xchg` (R228). -/
def execAtomXchg (d a b : Operand) : State → Host.Outcome State Fault Refusal :=
  perform (atomRules .xchg d a b) fun cx => cx.atomic .xchg d a b

/-- `atom.min.i` (R228). -/
def execAtomMinI (d a b : Operand) : State → Host.Outcome State Fault Refusal :=
  perform (atomRules .minI d a b) fun cx => cx.atomic .minI d a b

/-- `atom.max.i` (R228). -/
def execAtomMaxI (d a b : Operand) : State → Host.Outcome State Fault Refusal :=
  perform (atomRules .maxI d a b) fun cx => cx.atomic .maxI d a b

/-- `atom.min.n` (R228). -/
def execAtomMinN (d a b : Operand) : State → Host.Outcome State Fault Refusal :=
  perform (atomRules .minN d a b) fun cx => cx.atomic .minN d a b

/-- `atom.max.n` (R228). -/
def execAtomMaxN (d a b : Operand) : State → Host.Outcome State Fault Refusal :=
  perform (atomRules .maxN d a b) fun cx => cx.atomic .maxN d a b

/-- `atom.and` (R228). -/
def execAtomAnd (d a b : Operand) : State → Host.Outcome State Fault Refusal :=
  perform (atomRules .andB d a b) fun cx => cx.atomic .andB d a b

/-- `atom.or` (R228). -/
def execAtomOr (d a b : Operand) : State → Host.Outcome State Fault Refusal :=
  perform (atomRules .orB d a b) fun cx => cx.atomic .orB d a b

/-- `atom.xor` (R228). -/
def execAtomXor (d a b : Operand) : State → Host.Outcome State Fault Refusal :=
  perform (atomRules .xorB d a b) fun cx => cx.atomic .xorB d a b

/-- `atom.cas` (R228). -/
def execAtomCas (d a b : Operand) : State → Host.Outcome State Fault Refusal :=
  perform (atomRules .cas d a b) fun cx => cx.atomic .cas d a b

end Sys2Proof.Machine
end

