-- ==== Sys2Proof/Machine/Remote.lean ====
section
/-!
DEFINITION. Major 0x2C: remote loads, stores and atomics, and multicast stores (R325-R332), with the events that answer them at
the issuing device (R318, R321) and those that arrive from peers (R317, R321).
-/

namespace Sys2Proof.Machine

/-! Instructions (R325-R330). -/

/-- Whether S1 is a peer operand. -/
def peerForm (a : Operand) : Bool := vectorOp a

/-- The operand classes of R325. -/
def Ctx.remoteOk (cx : Ctx) (a b : Operand) : Bool := cx.isVU a && cx.isVU b

def rldReq (d a b : Operand) (m : ModHint) : Req := { op := .rload m.sx, base := a, idx := b, peer := peerForm a, dest := some d }

def rstReq (d a b : Operand) : Req := { op := .rstore, base := a, idx := b, peer := peerForm a, data := some d }

def ratomReq (d a b : Operand) (m : ModHint) : Req :=
  { op := .ratom m.sat (if m.w64 then 8 else 4), base := a, idx := b, peer := peerForm a, data := some d, dest := some d
    wide := m.w64, p15 := m.sat }

def mcstReq (d a b : Operand) : Req := { op := .mcst, base := a, idx := b, data := some d, dest := some d, p15 := true }

/-- The passes of an access to peers: one for each mask word of the lanes at each peer, where it is performed at issue (R326). -/
def Ctx.replayPasses (cx : Ctx) (r : Req) : Nat :=
  let a := cx.accessOf r
  if !a.ready || !(cx.s.mayPerform cx.c cx.t cx.who a) then cx.wordPasses
  else
    let at_ := (lanesOf a.lanes).filterMap fun l => match a.remoteFate cx.s.devid.toNat l with
      | .remote p _ _ => some (p, l / 32)
      | _ => none
    max 1 at_.eraseDups.length

def rldRules (d a b : Operand) : Rules :=
  { ops := [d, a, b], exts := 1, mods := ({ sx := true, acq := true } : MemMods).ok
    ok := fun cx => cx.dstVU d && cx.remoteOk a b && noMix d [a, b]
    passes := fun cx => cx.replayPasses (rldReq d a b cx.mods) }

/-- `rld` (R327). -/
def execRld (d a b : Operand) : State → Host.Outcome State Fault Refusal :=
  perform (rldRules d a b) fun cx => cx.startAccess (rldReq d a b cx.mods)

def rstRules (d a b : Operand) : Rules :=
  { ops := [d, a, b], exts := 1, mods := ({ rel := true } : MemMods).ok, ok := fun cx => cx.isVU d && cx.remoteOk a b
    passes := fun cx => cx.replayPasses (rstReq d a b) }

/-- `rst` (R328); uniform data stands with a vector of peers or an index too (R325). -/
def execRst (d a b : Operand) : State → Host.Outcome State Fault Refusal :=
  perform (rstRules d a b) fun cx => cx.startAccess (rstReq d a b)

def ratomRules (d a b : Operand) : Rules :=
  { ops := [d, a, b], exts := 1, p15 := true, mods := ({ acq := true, rel := true, w64 := true, sat := true } : MemMods).ok
    ok := fun cx => (if cx.mods.w64 then cx.dstEvenU d || d == .zero else cx.dstVU d) && cx.remoteOk a b && noMix d [a, b]
    passes := fun cx => cx.replayPasses (ratomReq d a b cx.mods) }

/-- `ratom` (R329). -/
def execRatom (d a b : Operand) : State → Host.Outcome State Fault Refusal :=
  perform (ratomRules d a b) fun cx => cx.startAccess (ratomReq d a b cx.mods)

/-- `mcst` (R330). -/
def execMcst (d a b : Operand) : State → Host.Outcome State Fault Refusal :=
  perform
    { ops := [d, a, b], exts := 1, p15 := true, mods := ({ rel := true } : MemMods).ok
      ok := fun cx => cx.dstVU d && cx.isU a && cx.isVU b && noMix d [b] } fun cx =>
    cx.startAccess (mcstReq d a b)

/-! Answers at the issuing device (R318, R327-R332). -/

/-- Whether the device takes what arrives from the fabric (R377, R400). -/
def State.intakes (s : State) : Bool := s.power == .run

/-- The transaction of a tag that this device's teams, or its router, await. -/
def State.tx? (s : State) (tag : Nat) : Option Transaction := s.txs.find? fun x => x.tag == tag

/-- A transaction ended. -/
def State.endTx (s : State) (x : Transaction) : State := { s with txs := s.txs.filter fun y => y != x }

/-- The view of the team that a transaction belongs to. -/
def State.txWho (s : State) (x : Transaction) : Who :=
  match s.team? x.core x.slot with
  | some y => y.whoOf x.core x.acc
  | none => { core := x.core, part := x.acc.part }

/-- Whether a transaction is one of lanes at one peer, or a prefetch. -/
def Transaction.ofLanes (x : Transaction) : Bool := x.relay.isNone && x.acc.op != .mcst

/-- Whether a transaction is another part of the same lane's access (R78). -/
def Transaction.beside (x y : Transaction) (l : Nat) : Bool :=
  y.core == x.core && y.slot == x.slot && y.acc.order == x.acc.order && y.acc.sys == x.acc.sys && y.acc.lanes.getLsbD l && y.tag != x.tag

/-- The lanes of a transaction that wait for their peer. -/
def Transaction.waits (x : Transaction) : List Nat := x.lanes.filter fun l => x.acc.lanes.getLsbD l

/-- The read cache after a peer has answered some lines of a load, or has performed a store or an atomic (R79): a load fills its lines; a
store updates the lines that it alone has written since, and what is left of the line goes, as it does at an atomic. -/
def State.cacheAnswer (s : State) (x : Transaction) (lines : SMap (List Byte)) (good : List Nat) : State :=
  let p := x.acc.part
  if x.acc.op.writes then
    let s := s.stopFills x.core p fun n => x.lines.contains n
    match x.acc.op, x.fill with
    | .atom _ _, _ | .ratom _ _, _ | _, false =>
      s.onCore x.core fun k => x.lines.foldl (fun k n => k.dropLine p n) k
    | _, true => good.foldl (fun s l =>
        let bs := if x.acc.op == .zeroLine then List.replicate 64 0 else x.acc.bytes l
        ((lineParts (x.acc.addr l).toNat x.acc.op.size).foldl (fun (r : State × List Byte) q =>
          (r.1.patchLine x.core p q.1 (r.2.take q.2), r.2.drop q.2)) (s, bs)).1) s
  else if x.fill then
    lines.foldl (fun s e => s.onCore x.core fun k => k.setLine s.fresh p e.1 e.2) s
  else s

/-- Lanes answered with their values: they reach their lanes, with the bits of p15 (R327-R329). -/
def State.giveLanes (s : State) (w : Who) (x : Transaction) (vals : List (Nat × BitVec 64)) : State :=
  let a := x.acc
  let m := maskOf (vals.map fun e => e.1)
  let s := vals.foldl (fun s e => s.deliver x.core x.slot a e.1 (leBytes a.op.size e.2.toNat) none) s
  let clamped (e : Nat × BitVec 64) : Bool := match a.op.request with
    | .atomic op => atomClamps op (8 * a.op.size) e.2.toNat (a.dataAt e.1).toNat
    | _ => false
  let sat := maskOf ((vals.filter clamped).map fun e => e.1)
  (s.returnP15 x.core x.slot a m fun l => sat.getLsbD l).saturated w x.slot a sat

/-- Lanes that a peer refuses or does not answer: they are unmappable (R76, R318). -/
def State.refuseLanes (s : State) (w : Who) (x : Transaction) (ls : List Nat) : State :=
  if ls = [] then s
  else
    let a := x.acc
    let m := maskOf ls
    let s := s.queueRecords (recordsOf w x.slot a true 0 0 (ls.map fun l => (l, FaultCause.unmappable)))
    let s := s.deliverPoison x.core x.slot a m
    let s := s.returnP15 x.core x.slot a m fun _ => false
    if a.op.writes then s.pendAccess w x.slot a .poison m (some (a.addr (lowLane m))) else s

/-- The transaction after some of its lanes have been answered: it goes on with the others, or is over. -/
def State.leaveTx (s : State) (x : Transaction) (ls : List Nat) : State :=
  let left := x.waits.filter fun l => !ls.contains l
  if left = [] then s.endTx x
  else { s with txs := s.txs.map fun y => if y.tag == x.tag then { y with acc := { y.acc with lanes := maskOf left } } else y }

/-- Answers of a peer to some lanes: `good` performed, with the lines that came, `bad` refused. A lane that another peer has yet to answer waits for
it; one that any of its peers refuses is unmappable (R76, R78, R318). -/
def State.peerAnswers (s : State) (x : Transaction) (lines : SMap (List Byte)) (good bad : List Nat) (vals : List (Nat × BitVec 64)) : State :=
  let w := s.txWho x
  let good := good.filter fun l => x.waits.contains l
  let bad := bad.filter fun l => x.waits.contains l && !good.contains l
  let s := s.cacheAnswer x lines good
  let s := s.leaveTx x (good ++ bad)
  let shared (l : Nat) : Bool := s.txs.any fun y => x.beside y l
  let done := (good ++ bad).filter fun l => !shared l
  let tell (y : Transaction) : Transaction :=
    if (good ++ bad).any (x.beside y) then
      { y with
        got := (x.got ++ lines).foldl (fun m e => SMap.put m e.1 e.2) y.got
        lost := y.lost ++ (x.lost ++ bad).filter fun l => y.lanes.contains l }
    else y
  let s : State := { s with txs := s.txs.map tell }
  let all := (x.got ++ lines).foldl (fun m e => SMap.put m e.1 e.2) []
  let lost := done.filter fun l => bad.contains l || x.lost.contains l
  let won := done.filter fun l => !lost.contains l
  let s := if x.acc.op.cached then
      won.foldl (fun s l => s.deliver x.core x.slot x.acc l ((s.peerRead w x.slot x.acc l all).getD []) none) s
    else s.giveLanes w x (vals.filter fun v => won.contains v.1)
  let s := s.refuseLanes w x lost
  (s.finishAccess w x.slot { x.acc with done := x.acc.lanes } true).drain x.core x.slot

/-- A request that no peer answers: its lanes, or what is left of them, are refused (R318). -/
def State.refuseTx (s : State) (x : Transaction) : State :=
  if x.lanes = [] then s.endTx x else s.peerAnswers x [] [] x.waits []

/-- The lines of a load of which a peer has sent all words. -/
def Transaction.linesOf (x : Transaction) (vals : List (Nat × BitVec 64)) : SMap (List Byte) :=
  ((List.range x.lines.length).zip x.lines).foldl (fun m e =>
    let ws := (List.range 8).filterMap fun k => (vals.find? fun v => v.1 == 8 * e.1 + k).map fun v => leBytes 8 v.2.toNat
    if ws.length = 8 then SMap.put m e.2 ws.flatten else m) []

/-- Values from a peer (R327). A load, or a prefetch, takes whole lines (R79). -/
def State.answerTx (s : State) (x : Transaction) (vals : List (Nat × BitVec 64)) : State :=
  if x.acc.op.cached || x.lanes = [] then
    let lines := x.linesOf vals
    let good := x.lanes.filter fun l => (x.acc.lines l).all fun n => !x.lines.contains n || (lines.at? n).isSome
    if x.lanes = [] then (s.cacheAnswer x lines []).endTx x else s.peerAnswers x lines good [] []
  else
    let vs := vals.filterMap fun v => (x.lanes[v.1]?).map fun l => (l, v.2)
    s.peerAnswers x [] (vs.map fun v => v.1) [] vs

/-- The places of a request that a peer refuses, as lanes (R318). -/
def Transaction.refused (x : Transaction) (at_ : List Nat) : List Nat :=
  if x.acc.op.cached then
    let lines := at_.filterMap fun i => x.lines[i / 8]?
    x.lanes.filter fun l => (x.acc.lines l).any fun n => lines.contains n
  else at_.filterMap fun i => x.lanes[i]?

/-! Releases (R38, R39, R106). -/

/-- A position's release is over: the lines that waited for their peers leave the buffer, and the position its flow (R38). -/
def State.finishRelease (s : State) (id : Nat) : State :=
  if s.txs.any (fun x => x.release == id) then s
  else match s.position id with
    | none => s
    | some (_, q) => match q.core with
      | none => s.dropPosition id
      | some c => ((s.onCore c fun k => { k with osb := k.osb.filter fun (e : OsEntry) => e.pos != id }).dropPosition id).drainCore c

/-- The bytes that a held line holds, with their places. -/
def OsEntry.held (e : OsEntry) : List (Nat × Byte) :=
  (List.range 64).filterMap fun k => if e.mask.getLsbD k then some (k, e.data.atD k 0) else none

/-- Whether a held line lies at a peer. -/
def OsEntry.far (e : OsEntry) : Bool := decide (peerBase ≤ 64 * e.line)

/-- A held line sent to its peer; the release awaits the answer (R39, R318). -/
def State.sendLine (s : State) (c t : Nat) (e : OsEntry) : State :=
  let bs := e.held
  let a : Access :=
    { pc := e.pc, op := .store 1, base := .const (BitVec.ofNat 64 (64 * e.line + (bs.headD (0, 0)).1)), lanes := laneBit e.lane, part := e.view }
  s.request { core := c, part := e.view } t a .write
    { peer := (linePeer e.line).1, lanes := [e.lane], size := 1, lines := [e.line], release := e.pos }
    (bs.map fun b => ((linePeer e.line).2 + b.1, b.2.setWidth 64, 0))

/-- A held line performed: in memory, with the core's cached line (R79), or at its peer; one whose 64 bytes it replaces loses its poison (R378). -/
def State.performLine (s : State) (c t : Nat) (e : OsEntry) : State :=
  if e.far then s.sendLine c t e
  else
    (e.held.foldl (fun s b => (s.write (64 * e.line + b.1) [b.2]).patchLine c e.view (64 * e.line + b.1) [b.2]) s).clearWhole
      (e.held.map fun b => (64 * e.line + b.1, 1))

/-- A position's release performed: its held stores, then the position leaves, once every peer has answered (R38, R39, R106). -/
def State.performRelease (s : State) (q : Position) : State :=
  let s := s.onPosition q.id fun q => { q with sent := true }
  let s := match q.core with
    | none => s
    | some c =>
      let es := (s.core c).osb.filter fun (e : OsEntry) => e.pos == q.id
      let s := es.foldl (fun (s : State) e => s.performLine c q.slot e) s
      s.onCore c fun k => { k with osb := k.osb.filter fun (e : OsEntry) => e.pos != q.id || e.far }
  s.finishRelease q.id

/-- A peer's answer to a held line; refused or unanswered, the line is unmappable, as at any store (R76, R318). -/
def State.lineAnswered (s : State) (x : Transaction) (ok : Bool) : State :=
  let w : Who := { core := x.core, part := x.acc.part }
  let s := (s.endTx x).onCore x.core fun k => x.lines.foldl (fun k n => k.dropLine x.acc.part n) k
  (if ok then s else s.refuseLanes w x x.lanes).finishRelease x.release

/-- Multicasts of a core's team that await no column any more finished (R321). -/
def State.finishMcasts (s : State) : State :=
  (s.txs.filter fun x => x.acc.op == .mcst && x.relay.isNone && x.columns.isEmpty).foldl
    (fun s x => (s.finishMcast (s.txWho x) x true).drain x.core x.slot) s

/-- `read_response` (R327). -/
def execReadResponse (tag : Nat) (vals : List (Nat × BitVec 64)) (s : State) : Host.Outcome State Fault Refusal :=
  .next (match s.tx? tag with
    | none => s
    | some x => if s.intakes && x.ofLanes && x.acc.op.request == .read then s.answerTx x vals else s)

/-- `ack` (R328, R329), and a member's ack to its router (R321). -/
def execAck (tag : Nat) (olds : List (Nat × BitVec 64)) (s : State) : Host.Outcome State Fault Refusal :=
  .next (match s.tx? tag with
    | none => s
    | some x =>
      if !s.intakes then s
      else match x.relay with
        | some key => (s.memberAnswer x key true).finishMcasts
        | none =>
          if x.release != 0 then s.lineAnswered x true
          else if x.ofLanes && x.acc.op.request != .read then s.answerTx x olds else s)

/-- `nack` (R318, R321). -/
def execNack (msg : NackMsg) (s : State) : Host.Outcome State Fault Refusal :=
  .next (match s.tx? msg.tag with
    | none => s
    | some x =>
      if !s.intakes then s
      else match x.relay with
        | some key => (s.memberAnswer x key false).finishMcasts
        | none =>
          if x.release != 0 then s.lineAnswered x false
          else if !x.ofLanes then s
          else if x.lanes = [] then s.endTx x
          else s.peerAnswers x [] [] (x.refused msg.lanes) [])

/-- `peer_timeout` (R318): 1 ms after the request left. -/
def execPeerTimeout (tag : Nat) (s : State) : Host.Outcome State Fault Refusal :=
  .next (match s.tx? tag with
    | none => s
    | some x =>
      if !(x.ofLanes && s.elapsed x.since cyclesPerMs) then s
      else if x.release != 0 then s.lineAnswered x false else s.refuseTx x)

/-- `multicast_ack` (R332): a column's ack arrives at the issuing router. -/
def execMulticastAck (tag column : Nat) (bits : BitVec 512) (s : State) : Host.Outcome State Fault Refusal :=
  .next (if s.intakes then (s.joinColumn s.devid.toNat 0 tag column bits).finishMcasts else s)

/-- The issuing router's wait ends: the copies of its own column that are unanswered count as nacks, and the multicast is complete
with the acks it has (R321). -/
def State.expireMcast (s : State) (x : Transaction) : State :=
  let key := (s.devid.toNat, x.tag)
  let s := (s.txs.filter fun y => y.relay == some key).foldl (fun s y => s.memberAnswer y key false) s
  let end_ (y : Transaction) : Transaction := if y.tag == x.tag && y.relay.isNone && y.acc.op == .mcst then { y with columns := [] } else y
  State.finishMcasts { s with txs := s.txs.map end_ }

/-- `multicast_timeout` (R321): 1 ms after the write left, whoever has not answered counts as a nack. -/
def execMulticastTimeout (tag : Nat) (s : State) : Host.Outcome State Fault Refusal :=
  .next (match s.tx? tag with
    | none => s
    | some x =>
      if !s.elapsed x.since cyclesPerMs then s
      else match x.relay with
        | some key => (s.memberAnswer x key false).finishMcasts
        | none =>
          if x.acc.op == .mcst then s.expireMcast x else s)

/-! Arrivals from peers (R317, R318, R321). -/

/-- `peer_request` (R317, R318). -/
def execPeerRequest (req : PeerMsg) (s : State) : Host.Outcome State Fault Refusal :=
  .next (if s.intakes then s.servePeer req else s)

/-- A flit of a multicast write at the device: a router of the issuing device's row replicates it in its column; any other device is a
member, which answers for itself when all flits have come (R321, R332). -/
def State.multicast (s : State) (m : McastMsg) : State :=
  if devRow m.src = devRow s.devid.toNat then (s.replicate m).finishMcasts
  else
    let p := (s.groups.atD m.group {}).part
    match s.memberTakes m with
    | (s, none) => s
    | (s, some ok) => s.send (if ok then .ack m.src p m.tag [] else .nack m.src p m.tag [])

/-- `multicast_write` (R321, R332). -/
def execMulticastWrite (msg : McastMsg) (s : State) : Host.Outcome State Fault Refusal :=
  .next (if s.intakes then s.multicast msg else s)

end Sys2Proof.Machine
end

