-- ==== Sys2Proof/Machine/Pull.lean ====
section
/-!
DEFINITION. Pull transfers: `pull.req`, `grant.cfg` and `xfer.q` (R296-R300, R307), the sender's engine (R298, R306), the Caller
(R301-R305, R308), and arrivals over Ultra Ethernet (R323, R324).
-/

namespace Sys2Proof.Machine

/-! Ultra Ethernet (R10, R12, R322, R323). -/

/-- The endpoint entry that a message over Ultra Ethernet matches by ADDR and JOB: the lowest that does (R323, log entry 4). -/
def State.endpointFrom (s : State) (p : Nat) (u : UeFrom) : Option Nat :=
  (List.range 512).find? fun i => match s.endpoint? p i with
    | some e => e.addr == u.addr && e.job == u.job
    | none => false

/-- A port at which a message has arrived; its ECN mark is counted (R322). -/
def State.arrivedAt (s : State) (u : UeFrom) : State :=
  let x := s.ports.atD u.port {}
  { s with ports := s.ports.put u.port { x with up := true, ecn := if u.ecn then x.ecn + 1 else x.ecn } }

/-- A message for a partition that comes over Ultra Ethernet, taken in with the index of its sender's entry: one that matches no valid entry is
discarded with a report; a port that is idle, and that the entry does not name, receives nothing (R12, R323). -/
def State.overUe (s : State) (c p : Nat) (u : UeFrom) (k : State → Nat → State) : State :=
  let open_ := (s.ports.atD u.port {}).up
  match s.endpointFrom p u with
  | some i =>
    if open_ || ((s.endpoint? p i).map fun e => e.port) == some u.port then
      k ((s.arrivedAt u).walks (deviceWho 0 p) .load (s.part p).ept.toNat (32 * (i + 1))) i
    else s
  | none =>
    if open_ then ((s.arrivedAt u).walks (deviceWho 0 p) .load (s.part p).ept.toNat 16384).raise 0x0005 c (some p) 0 (BitVec.ofNat 32 u.port) else s

/-- A message of the pull protocol taken in, from the fabric or over Ultra Ethernet, by the path that its transfer has. -/
def State.overPath (s : State) (c p : Nat) (ue : Bool) (u : Option UeFrom) (k : State → State) : State :=
  match u with
  | none => if ue then s else k s
  | some u => s.overUe c p u fun s _ => if ue then k s else s

/-! The Caller's list (R302, R309). -/

/-- Bytes of a pull token (R296). -/
def tokenBytes : Nat := 16384

/-- The first offset of a token, and its size (R302). -/
def PullEntry.tokenAt (r : PullEntry) (t : Nat) : Nat := r.pfxl + tokenBytes * t
def PullEntry.tokenLen (r : PullEntry) (t : Nat) : Nat := min r.len (r.tokenAt (t + 1)) - r.tokenAt t

def TokenSlot.isOut : TokenSlot → Bool
  | .out _ _ _ => true
  | _ => false

def TokenSlot.isFree : TokenSlot → Bool
  | .free => true
  | _ => false

/-- The token of a slot that is a HOLE, with what has arrived of it. -/
def TokenSlot.holeOf : TokenSlot → Option (Nat × List (Nat × Nat))
  | .hole t seen => some (t, seen)
  | _ => none

/-- Bytes of a request that are outstanding (R302). -/
def PullEntry.outBytes (r : PullEntry) : Nat :=
  r.slots.foldl (fun n k => match k with
    | .out t _ _ => n + r.tokenLen t
    | _ => n) 0

/-- The granted bytes of a partition that are outstanding (R299, R302). -/
def Partition.outstanding (p : Partition) : Nat := (p.requests ++ p.savedRequests).foldl (fun n r => n + r.outBytes) 0

/-- Whether a token can be issued to a request: it has a HOLE, or a free slot and bytes left to grant (R302). -/
def PullEntry.grantable (r : PullEntry) : Bool :=
  r.slots.any (fun k => k.holeOf.isSome) || (r.slots.any TokenSlot.isFree && decide (r.gnext < r.len))

/-- Whether a request's orphan clock runs (R305). -/
def PullEntry.ticking (r : PullEntry) : Bool := r.slots.any fun k => !k.isFree

/-- A request's orphan clock. -/
def PullEntry.clockAt (r : PullEntry) (now : W64) : Nat := r.orph + (if r.ticking then (now - r.since).toNat else 0)

/-- A request whose slots change: what its clock has counted so far stays (R305). -/
def PullEntry.fold (r : PullEntry) (now : W64) : PullEntry := { r with orph := r.clockAt now, since := now }

/-- A request whose slots change in a partition that may be pre-empted: its clock stands still there (R305, R308). -/
def PullEntry.foldIn (r : PullEntry) (stopped : Bool) (now : W64) : PullEntry := if stopped then { r with since := now } else r.fold now

/-- Requests by their level, in their order within it (R302, R308). -/
def byLevel (rs : List PullEntry) : List PullEntry := sortBy (fun (a b : PullEntry) => a.pri < b.pri) rs

/-- Whether a message is complete (R304). -/
def PullEntry.finished (r : PullEntry) : Bool := decide (r.len ≤ r.gnext) && r.slots.all TokenSlot.isFree && r.stalled.isEmpty

/-- A request of a partition, in the list that grants or in the saved one. -/
def State.request? (s : State) (p id : Nat) : Option PullEntry :=
  ((s.part p).requests ++ (s.part p).savedRequests).find? fun r => r.id == id

/-- A function applied to a request where it stands. -/
def State.onRequest (s : State) (p id : Nat) (f : PullEntry → PullEntry) : State :=
  let g (r : PullEntry) : PullEntry := if r.id = id then f r else r
  s.onPart p fun q => { q with requests := q.requests.map g, savedRequests := q.savedRequests.map g }

/-- A request that has left its level's list re-enters at its tail when a token can be issued to it again (R302, R303). -/
def State.reenter (s : State) (p id : Nat) : State :=
  match (s.part p).requests.find? fun r => r.id == id with
  | none => s
  | some r =>
    if r.inLevel || !r.grantable then s
    else s.onPart p fun q => { q with requests := (q.requests.filter fun x => x.id != id) ++ [{ r with inLevel := true }] }

/-- A request taken from the lists. -/
def State.dropRequest (s : State) (p id : Nat) : State :=
  s.onPart p fun q =>
    { q with requests := q.requests.filter fun r => r.id != id, savedRequests := q.savedRequests.filter fun r => r.id != id }

/-- A message completed: the done notice, then DONE, and FULL at COUNT (R304). -/
def State.completePull (s : State) (p : Nat) (r : PullEntry) : State :=
  let s := (s.dropRequest p r.id).sendVia p r.ue r.sdev fun port => .notice (r.sender s.devid.toNat) p port r.score r.sh true
  let x := s.handle r.dcore r.dh
  if x.st != .filling || !x.posted then s
  else
    let s := s.setHandle r.dcore r.dh { x with got := x.got + 1, ueSeen := x.ueSeen || r.ue, uePort := (s.uePort p r.ue r.sdev).getD x.uePort }
    if x.got + 1 = x.count then s.fullPosted r.dcore r.dh else s

/-- A request that is complete is ended (R304). -/
def State.settlePull (s : State) (p id : Nat) : State :=
  match s.request? p id with
  | none => s
  | some r => if r.finished then s.completePull p r else s

/-! Beats at the receiver (R302, R304). -/

/-- How far pieces cover a range from its start. -/
def reachOf (seen : List (Nat × Nat)) : Nat → Nat → Nat
  | 0, lo => lo
  | f + 1, lo => reachOf seen f (seen.foldl (fun m e => if e.1 ≤ lo && m < e.1 + e.2 then e.1 + e.2 else m) lo)

/-- A slot after a beat of its token has been written: FREE when its range is complete (R302). -/
def PullEntry.landed (r : PullEntry) (off n : Nat) (k : TokenSlot) : TokenSlot :=
  match k with
  | .out t seen since =>
    if r.tokenAt t ≤ off && off < r.tokenAt t + tokenBytes then
      let seen := seen ++ [(off, n)]
      if r.tokenAt t + r.tokenLen t ≤ reachOf seen seen.length (r.tokenAt t) then .free else .out t seen since
    else k
  | _ => k

/-- The engine record of a beat's write: no instruction of the receiver issued it (R88, R304, log entry 15). -/
def PullEntry.record (r : PullEntry) (p : Nat) : FaultRecord :=
  { core := r.dcore, fbi := r.dh, part := p, kind := .engineWrite, size := 8 }

/-- The bytes of a beat as an engine writes them; the tag of poison that has travelled is that of the frame written. -/
def StalledBeat.seg (b : StalledBeat) : Seg :=
  { n := b.data.length, data := if b.status = .fault then none else some b.data, bad := if b.status = .poison then some 0 else none }

/-- A beat written at BASE + OFF + its offset, or stalled at a page that does not translate (R296, R304). -/
def State.putBeat (s : State) (p id : Nat) (b : StalledBeat) : Nat → State
  | 0 => s
  | f + 1 => match s.request? p id with
    | none => s
    | some r =>
      let w := engineWho r.dcore p false (s.handle r.dcore r.dh).block
      let a := (s.handle r.dcore r.dh).base.toNat + r.off + b.off
      match s.rangePieces w .engineWrite r.stall.badPages a b.data.length with
      | .ok ps =>
        let s := (s.writePieces w ps [b.seg]).noteErr r.dcore r.dh (transferErr ps [b.seg])
        let s := s.onRequest p id fun r => { r.foldIn (s.part p).preempted s.clock with slots := r.slots.map (r.landed b.off b.data.length) }
        s.reenter p id
      | .error (a, t) =>
        let again := match t with
          | .fault _ => r.stall.waiting
          | _ => false
        if again then s.onRequest p id fun r => { r with stalled := r.stalled ++ [b] }
        else
          let (s, st) := s.engineTrouble w (r.record p) r.stall a t
          if st.waiting then s.onRequest p id fun r => { r with stall := st, stalled := r.stalled ++ [b] }
          else (s.onRequest p id fun r => { r with stall := st }).putBeat p id b f

/-- Fuel for a beat: the pages that it may touch. -/
def beatFuel (n : Nat) : Nat := n / 0x20000 + 4

/-- The stalled beats of a request tried again, after an answer (R304, R374). -/
def State.retryBeats (s : State) (p id : Nat) : State :=
  match s.request? p id with
  | none => s
  | some r =>
    (r.stalled.foldl (fun s b => s.putBeat p id b (beatFuel b.data.length)) (s.onRequest p id fun r => { r with stalled := [] })).settlePull p id

/-- The pieces of a prefix with their offsets. -/
def beatsOf : Nat → List (BeatStatus × List Byte) → List StalledBeat
  | _, [] => []
  | off, (st, d) :: r => { off := off, data := d, status := st } :: beatsOf (off + d.length) r

/-- Whether an announcement is accepted (R301). -/
def State.accepts (s : State) (a : Announcement) : Bool :=
  let x := s.handle a.dcore a.dh
  x.st == .filling && x.posted && x.part == a.part && decide (a.off + a.len ≤ x.len.toNat)

/-- The request of an accepted announcement, from a device or an endpoint. -/
def requestOf (a : Announcement) (from_ id own : Nat) (now : W64) : PullEntry :=
  let p := a.pieces.foldl (fun n e => n + e.2.length) 0
  { id := id, off := a.off, len := a.len, gnext := p, since := now, sdev := from_, score := a.score, sh := a.sh, ue := a.ue.isSome
    path := if a.ue.isSome then 2 else if from_ = own then 0 else 1, pri := a.pri, dcore := a.dcore, dh := a.dh, pfxl := p, inLevel := decide (p < a.len) }

/-- An accepted announcement: its request enters the list, or the saved list, and its prefix is written (R301, R308). -/
def State.announce (s : State) (a : Announcement) (from_ : Nat) : State :=
  let id := s.fresh
  let r := requestOf a from_ id s.devid.toNat s.clock
  let s : State := { s with fresh := s.fresh + 1 }
  let s := s.onPart a.part fun q =>
    if q.callerSaved then { q with savedRequests := byLevel (q.savedRequests ++ [r]) } else { q with requests := q.requests ++ [r] }
  ((beatsOf 0 a.pieces).foldl (fun s b => s.putBeat a.part id b (beatFuel b.data.length)) s).settlePull a.part id

/-- An announcement taken in from a device or an endpoint: accepted, or refused with a notice and a report (R301). -/
def State.announced (s : State) (a : Announcement) (from_ : Nat) : State :=
  if s.accepts a then s.announce a from_
  else (s.sendVia a.part a.ue.isSome from_ fun port => .notice from_ a.part port a.score a.sh false).raise 0x0002 a.dcore (some a.part) 0 0

/-- `pull_announcement` (R301, R323). -/
def execPullAnnouncement (ann : Announcement) (s : State) : Host.Outcome State Fault Refusal :=
  .next (
    if !s.intakes then s
    else match ann.ue with
      | none => s.announced ann ann.sdev
      | some u => s.overUe ann.dcore ann.part u fun s i => s.announced ann i)

/-- A beat of a request: its orphan clock returns to zero, and it is written when its token is OUT (R302, R303, R305). -/
def State.beatArrives (s : State) (p : Nat) (r : PullEntry) (b : StalledBeat) : State :=
  let n := b.data.length
  let s := s.onRequest p r.id fun r => { r with orph := 0, since := s.clock }
  let mine (t : Nat) : Bool := r.tokenAt t ≤ b.off && b.off + n ≤ r.tokenAt t + r.tokenLen t
  let isOut := r.slots.any fun k => match k with
    | .out t _ _ => mine t
    | _ => false
  if n = 0 || !isOut then s
  else
    let touch (k : TokenSlot) : TokenSlot := match k with
      | .out t seen since => if mine t then .out t seen s.clock else .out t seen since
      | k => k
    ((s.onRequest p r.id fun r => { r with slots := r.slots.map touch }).putBeat p r.id b (beatFuel n)).settlePull p r.id

/-- `pull_beat` (R302-R305). -/
def execPullBeat (beat : PullBeat) (s : State) : Host.Outcome State Fault Refusal :=
  .next (
    if !s.intakes then s
    else match s.request? beat.part beat.req with
      | none => s
      | some r =>
        s.overPath r.dcore beat.part r.ue beat.ue fun s =>
          s.beatArrives beat.part r { off := beat.off, data := beat.data, status := beat.status })

/-! Grants (R302, R303, R305, R308). -/

/-- The head of a partition's highest level that is not empty (R302, steps 1 and 2). -/
def Partition.headRequest (p : Partition) : Option PullEntry :=
  leastBy (fun (a b : PullEntry) => a.pri < b.pri) (p.requests.filter fun r => r.inLevel)

/-- The token that a request is issued next: the lowest HOLE, with what has arrived of it, else the next one (R302). -/
def PullEntry.nextToken (r : PullEntry) : Nat × List (Nat × Nat) :=
  (leastBy (fun (a b : Nat × List (Nat × Nat)) => a.1 < b.1) (r.slots.filterMap TokenSlot.holeOf)).getD ((r.gnext - r.pfxl) / tokenBytes, [])

/-- The slot that a token takes: its HOLE, else the first that is FREE. -/
def PullEntry.slotFor (r : PullEntry) (t : Nat) : Option Nat :=
  match indexOf? (fun (k : TokenSlot) => (k.holeOf.map fun e => e.1) == some t) r.slots with
  | some i => some i
  | none => indexOf? TokenSlot.isFree r.slots

/-- A request that has been issued a token in a slot. -/
def PullEntry.granted (r : PullEntry) (t i : Nat) (seen : List (Nat × Nat)) (now : W64) : PullEntry :=
  let r' := { r.fold now with
    gnext := max r.gnext (min r.len (r.tokenAt (t + 1)))
    slots := setAt r.slots i (.out t seen now) }
  { r' with inLevel := r'.grantable }

/-- Whether the budget of a partition has room for a token (R302, step 3). -/
def Partition.affords (q : Partition) (n : Nat) : Bool := decide (q.outstanding + n ≤ bits q.caller.toNat 32 16 * tokenBytes)

/-- Whether a request of the highest level that is not empty can be issued a token: the Caller comes to it by itself. -/
def Partition.canGrant (q : Partition) : Bool :=
  match q.headRequest with
  | none => false
  | some h => q.requests.any fun r => r.inLevel && r.pri == h.pri && (r.slotFor r.nextToken.1).isSome && q.affords (r.tokenLen r.nextToken.1)

/-- The Caller takes the head of the highest level of a partition, issues it one token when the budget has room for it, and moves it to the
tail of its level (R302). -/
def State.grantToken (s : State) (p : Nat) : State :=
  let q := s.part p
  match q.headRequest with
  | none => s
  | some r =>
    let (t, seen) := r.nextToken
    let tail (s : State) (r : PullEntry) : State :=
      s.onPart p fun q => { q with requests := (q.requests.filter fun x => x.id != r.id) ++ [r] }
    match r.slotFor t with
    | none => tail s r
    | some i =>
      if !(q.affords (r.tokenLen t)) then tail s r
      else
        tail (s.sendVia p r.ue r.sdev fun port => .token (r.sender s.devid.toNat) p port
          { core := r.score, handle := r.sh, off := r.tokenAt t, len := r.tokenLen t, ue := none }) (r.granted t i seen s.clock)

/-- `caller_grant` (R302, R308): none while the partition is pre-empted. -/
def execCallerGrant (part : Nat) (s : State) : Host.Outcome State Fault Refusal :=
  .next (if !s.intakes || (s.part part).preempted then s else s.grantToken part)

/-- A slot whose token expires becomes HOLE (R303). -/
def TokenSlot.expire : TokenSlot → TokenSlot
  | .out t seen _ => .hole t seen
  | k => k

/-- Whether a slot's token has expired: 20 µs without a beat, and no beat of it stalls (R303, R304). -/
def State.expired (s : State) (r : PullEntry) (slot : Nat) : Bool :=
  match r.slots[slot]? with
  | some (.out t _ since) =>
    s.elapsed since (20 * cyclesPerUs) &&
      !(r.stalled.any fun b => decide (r.tokenAt t ≤ b.off) && decide (b.off < r.tokenAt t + tokenBytes))
  | _ => false

/-- `token_expiry` (R303). -/
def execTokenExpiry (part req slot : Nat) (s : State) : Host.Outcome State Fault Refusal :=
  .next (match s.request? part req with
    | none => s
    | some r =>
      if s.expired r slot then
        (s.onRequest part req fun r => { r with slots := modAt TokenSlot.expire r.slots slot }).reenter part req
      else s)

/-- `orphan` (R305): 1 ms without a beat; the clock stops while the partition is pre-empted. -/
def execOrphan (part req : Nat) (s : State) : Host.Outcome State Fault Refusal :=
  .next (match s.request? part req with
    | none => s
    | some r =>
      if r.ticking && !(s.part part).preempted && decide (cyclesPerMs ≤ r.clockAt s.clock) then
        (s.noteErr r.dcore r.dh errOrphan).completePull part r
      else s)

/-- `caller_save` (R308): once no slot of a pre-empted partition is OUT, its Caller's list is saved. -/
def execCallerSave (part : Nat) (s : State) : Host.Outcome State Fault Refusal :=
  .next (
    let q := s.part part
    if q.preempted && !q.callerSaved && q.requests.all (fun r => !(r.slots.any TokenSlot.isOut)) then
      s.onPart part fun q => { q with requests := [], savedRequests := byLevel q.requests, callerSaved := true }
    else s)

/-! The sender's engine (R298, R306). -/

/-- The engine record of a sender (R88). -/
def Handle.sendRecord (x : Handle) (c h : Nat) : FaultRecord :=
  { pc := x.sending.pc, core := c, fbi := h, tslot := x.sending.slot % 32, part := x.part, kind := .engineRead, size := 8 }

/-- A sender's view of memory. -/
def Handle.sendWho (x : Handle) (c : Nat) : Who := engineWho c x.part x.sending.sysMode x.sending.block

/-- What the engine meets on behalf of a sender. -/
def State.sendTrouble (s : State) (c h : Nat) (a : Nat) (t : Trouble) : State :=
  let x := s.handle c h
  let (s, st) := s.engineTrouble (x.sendWho c) (x.sendRecord c h) x.sending.stall a t
  s.onHandle c h fun x => { x with sending := { x.sending with stall := st } }

/-- Bytes read by the sender's engine as they travel: with the poison of their line, or as those of a page left out. -/
def Seg.travels (g : Seg) : BeatStatus × List Byte :=
  match g.data with
  | none => (.fault, List.replicate g.n 0)
  | some d => (if g.bad.isSome then .poison else .ok, d)

/-- The announcement of a sender, with its prefix (R298). -/
def Handle.announcement (x : Handle) (own c h : Nat) (gs : List Seg) : Announcement :=
  { part := x.part, ue := none, sdev := own, score := c, sh := h, dcore := x.sending.dcore, dh := x.sending.dh
    pri := x.sending.pri, off := x.sending.off, len := x.len.toNat, pieces := gs.map Seg.travels }

/-- The device, or the endpoint, that a sender sends to; its own device for PATH 00 (R297). -/
def Handle.target (x : Handle) (own : Nat) : Nat := if x.sending.path = 0 then own else x.sending.ddev

/-- A sender's message to its endpoint, or over the fabric (R323). -/
def State.sendFor (s : State) (x : Handle) (m : Option Nat → OutMsg) : State := s.sendVia x.part (x.sending.path == 2) x.sending.ddev m

/-- The sender's engine runs as far as it goes: the announcement with its prefix, then the granted ranges, line by line (R298). -/
def State.pump (s : State) (c h : Nat) : Nat → State
  | 0 => s
  | f + 1 =>
    let x := s.handle c h
    let k := x.sending
    let own := s.devid.toNat
    let w := x.sendWho c
    if x.st != .draining || x.sst != 1 || k.stall.waiting then s
    else if !k.announced then
      match s.rangePieces w .engineRead k.stall.badPages k.base.toNat k.prefixed with
      | .error (a, t) => (s.sendTrouble c h a t).pump c h f
      | .ok ps =>
        ((s.sendFor x fun port => .announce (x.target own) port (x.announcement own c h (s.readPieces ps))).onHandle c h fun x =>
          { x with sending := { x.sending with announced := true } }).pump c h f
    else match k.todo with
      | [] => s
      | (o, n) :: rest =>
        let m := min n (64 - (k.base.toNat + o) % 64)
        let left := if m < n then (o + m, n - m) :: rest else rest
        match s.piece w .engineRead k.stall.badPages (k.base.toNat + o, m) with
        | .error (a, t) => (s.sendTrouble c h a t).pump c h f
        | .ok q =>
          let s := (s.readPieces [q]).foldl (fun s g =>
            let (st, d) := g.travels
            s.sendFor x fun port => .beat (x.target own) x.part port k.dcore k.dh c h o d st) s
          (s.onHandle c h fun x => { x with sending := { x.sending with todo := left } }).pump c h f

/-- Fuel for the engine: a line or a page left out at each turn. -/
def Handle.pumpFuel (x : Handle) : Nat := x.sending.todo.foldl (fun n e => n + e.2 / 32 + 4) (x.sending.prefixed / 64 + 8)

/-- The sender's engine of a handle runs. -/
def State.pumpAll (s : State) (c h : Nat) : State := s.pump c h (s.handle c h).pumpFuel

/-- `pull_token` (R298, R306): a token of a message that is no longer in flight is ignored. -/
def execPullToken (tok : PullToken) (s : State) : Host.Outcome State Fault Refusal :=
  .next (
    let x := s.handle tok.core tok.handle
    if !s.intakes || x.st != .draining || x.sst != 1 || x.len.toNat < tok.off + tok.len then s
    else s.overPath tok.core x.part (x.sending.path == 2) tok.ue fun s =>
      (s.setHandle tok.core tok.handle { x with
        sending := { x.sending with since := s.clock, todo := x.sending.todo ++ (if tok.len = 0 then [] else [(tok.off, tok.len)]) } }).pumpAll
        tok.core tok.handle)

/-- A sender's handle freed with a status (R306, R307). -/
def State.endSend (s : State) (c h sst : Nat) : State :=
  (s.freeHandle c h).onHandle c h fun x => { x with sst := sst, sending := {} }

/-- `pull_notice` (R306). -/
def execPullNotice (core handle : Nat) (note : PullNote) (s : State) : Host.Outcome State Fault Refusal :=
  .next (
    let x := s.handle core handle
    if !s.intakes || x.st != .draining || x.sst != 1 then s
    else s.overPath core x.part (x.sending.path == 2) note.ue fun s => s.endSend core handle (if note.delivered then 2 else 3))

/-- `abandon` (R306): 2 ms without a token or a notice. -/
def execAbandon (core handle : Nat) (s : State) : Host.Outcome State Fault Refusal :=
  .next (
    let x := s.handle core handle
    if x.st == .draining && x.sst == 1 && s.elapsed x.sending.since (2 * cyclesPerMs) then s.endSend core handle 4 else s)

/-! Messages of the device to itself (R297). -/

/-- The request that a beat of the device to itself belongs to. -/
def State.requestFrom (s : State) (dcore dh score sh : Nat) : Option (Nat × PullEntry) :=
  let p := (s.handle dcore dh).part
  (((s.part p).requests ++ (s.part p).savedRequests).find? fun r =>
    r.path == 0 && r.dcore == dcore && r.dh == dh && r.score == score && r.sh == sh).map fun r => (p, r)

/-- The oldest message of the device to itself arrives. -/
def State.arriveSelf (s : State) : Host.Outcome State Fault Refusal :=
  match s.toSelf with
  | [] => .next s
  | m :: rest =>
    let s := { s with toSelf := rest }
    match m with
    | .announce _ _ a => execPullAnnouncement a s
    | .token _ _ _ k => execPullToken k s
    | .notice _ _ _ core handle delivered => execPullNotice core handle { delivered := delivered, ue := none } s
    | .beat _ _ _ dcore dh score sh off data status => match s.requestFrom dcore dh score sh with
      | none => .next s
      | some (p, r) => execPullBeat { part := p, req := r.id, off := off, data := data, status := status, ue := none } s
    | _ => .next s

/-! Instructions (R297-R300, R307). -/

/-- Whether a request word, or the handle's range, is refused (R298). -/
def Ctx.pullBad (cx : Ctx) (w : Nat) (x : Handle) : Bool :=
  bits w 62 2 == 3 || bits w 32 4 != 0 || (bits w 62 2 == 0 && bits w 53 9 != 0) ||
    (bits w 62 2 == 1 && bits w 53 9 == cx.s.devid.toNat) || x.len == 0 || decide (0x1000000 < x.len.toNat) ||
    !inNearOrBulk x.base.toNat x.len.toNat

/-- A handle that the instruction uses as its source, its base converted where its range lies below P; a range that reaches P of the private window
stays as it is, and lies in no region that R298 admits (R75, R285). -/
def Ctx.sourceHandle (cx : Ctx) (h : Nat) : Handle :=
  let k := cx.s.handle cx.c h
  { k with base := if rangeOk cx.who k.base k.len.toNat then aliasOf cx.who cx.lane k.base else k.base }

/-- What a sender keeps of its request word (R297, R298). -/
def Ctx.sendingOf (cx : Ctx) (w : Nat) (x : Handle) : Sending :=
  { base := x.base, slot := cx.t, pc := cx.iaddr, path := bits w 62 2, ddev := bits w 53 9, dcore := bits w 45 8, dh := bits w 39 6, pri := bits w 36 3
    off := bits w 0 32, since := cx.s.clock, prefixed := min x.len.toNat (256 * bits (cx.s.part x.part).caller.toNat 0 7), sysMode := cx.sys
    block := cx.who.block }

/-- A sender started: its endpoint's entry is read, and its engine runs (R298, R323). A system item's is counted to no partition (R360). -/
def Ctx.startSend (cx : Ctx) (w h l : Nat) (k : Handle) : State :=
  let s := if bits w 62 2 = 2 then cx.s.walkEndpoint k.part (bits w 53 9) else cx.s
  let s := if cx.x.formed then s else s.counted k.part .pull
  ((s.drainHandle cx.c h l k.base).onHandle cx.c h fun y => { y with sst := 1, sending := cx.sendingOf w k }).pumpAll cx.c h

/-- `pull.req` (R298). -/
def execPullReq (x : Operand) (h : BitVec 6) : State → Host.Outcome State Fault Refusal :=
  perform { ops := [x], ok := fun cx => cx.isU x } fun cx =>
    cx.behind 1 fun cx => cx.blockOn [x] fun cx => cx.withHandle h.toNat fun cx =>
      let k := cx.sourceHandle h.toNat
      let w := (cx.uval x).toNat
      if k.st != .full then .wait cx.s .issue
      else if cx.pullBad w k then .trap cx.s .xfer 0 none cx.act
      else if cx.conflicts false k.base k.len.toNat then .trap cx.s .range 0 none cx.act
      else if bits w 62 2 == 2 && (cx.s.endpoint? k.part (bits w 53 9)).isNone then
        .done ((cx.s.walkEndpoint k.part (bits w 53 9)).endSend cx.c h.toNat 3) 0
      else match cx.freeLocks with
        | [] => .wait cx.s .issue
        | l :: _ =>
          .done (cx.startSend w h.toNat l k) 0

/-- Whether a range lies wholly in the slice of a core (R72, R300). -/
def inSlice (c : Nat) (a : W64) (n : Nat) : Bool :=
  decide (nearBase + c * sliceSize ≤ a.toNat) && decide (a.toNat + n ≤ nearBase + (c + 1) * sliceSize)

/-- A receive handle posted (R92, R300). -/
def State.post (s : State) (c h : Nat) (base : W64) (len count : Nat) (sc : Scope) (lock : Option Nat) (block : Block) : State :=
  (s.fillHandle c h base len sc lock).onHandle c h fun x => { x with block := block, posted := true, count := count, got := 0, ueSeen := false, uePort := 0 }

/-- `grant.cfg` (R300); it is no engine command (R285). -/
def execGrantCfg (x y : Operand) (h : BitVec 6) : State → Host.Outcome State Fault Refusal :=
  perform { ops := [x, y], ok := fun cx => cx.isU x && cx.isU y } fun cx =>
    cx.blockOn [x, y] fun cx => cx.withHandle h.toNat fun cx =>
      let w := (cx.uval y).toNat
      let base := cx.uval x
      let len := bits w 0 32
      if (cx.s.handle cx.c h.toNat).st != .free then .wait cx.s .issue
      else match scopeCoded (bits w 48 3) with
        | none => .trap cx.s .xfer 0 none cx.act
        | some sc =>
          if bits w 32 16 == 0 || bits w 51 13 != 0 || !inSlice cx.c base len then .trap cx.s .xfer 0 none cx.act
          else if cx.conflicts true base len then .trap cx.s .range 0 none cx.act
          else if len = 0 then .done (cx.s.post cx.c h.toNat base 0 (bits w 32 16) sc none cx.who.block) 0
          else match cx.freeLocks with
            | [] => .wait cx.s .issue
            | l :: _ => .done (cx.s.post cx.c h.toNat base len (bits w 32 16) sc (some l) cx.who.block) 0

/-- The transfer state of a handle (R307). -/
def State.xferWord (s : State) (c h : Nat) : Nat :=
  let x := s.handle c h
  let q := s.part x.part
  let pend := ((q.requests ++ q.savedRequests).filter fun r => r.to c h).length
  (if x.posted then x.count % 65536 * 2 ^ 48 + x.got % 65536 * 2 ^ 32 else 0) + min pend 255 * 2 ^ 8 + x.sst % 8

/-- `xfer.q` (R307). -/
def execXferQ (x : Operand) (h : BitVec 6) : State → Host.Outcome State Fault Refusal :=
  perform { ops := [x], ok := fun cx => cx.dstU x } fun cx => cx.withHandle h.toNat fun cx =>
    if cx.destWaits x then .wait cx.s .issue
    else .done (cx.write cx.s x (fun _ => BitVec.ofNat 64 (cx.s.xferWord cx.c h.toNat)) noOrigin) 0

end Sys2Proof.Machine
end

