-- ==== Sys2Proof/Machine/Chain.lean ====
section
/-!
DEFINITION. The arithmetic of the sampler (R341-R347, R349, R350): the working vector, its stages, EXP2, Philox, the draw, the acceptance
test and the grammar automaton's choices.
-/

namespace Sys2Proof.Machine

/-! FP32 helpers; the sampler sets no flag (R333). -/

def smpAdd (a b : W32) : W32 := (fpAdd .rn a b).1
def smpSub (a b : W32) : W32 := (fpSub .rn a b).1
def smpMul (a b : W32) : W32 := (fpMul .rn a b).1

/-- A finite FP32 value (R340). -/
def finite32 (x : W32) : Bool :=
  match f32 x with
  | .fin _ _ _ => true
  | _ => false

/-! The working vector (R341). -/

/-- A token's working value and legal bit. -/
abbrev Working := List (W32 × Bool)

/-- A vector after the start or a stage: NaN and −∞ leave the legal set, +∞ becomes the largest finite value (R341). -/
def settleWork (v : Working) : Working :=
  v.map fun e =>
    match f32 e.1 with
    | .nan => (e.1, false)
    | .inf true => (e.1, false)
    | .inf false => (0x7F7FFFFF, e.2)
    | .fin _ _ _ => e

/-- The legal tokens with their values, ascending. -/
def legalTokens (v : Working) : List (Nat × W32) :=
  ((List.range v.length).zip v).filterMap fun e => if e.2.2 then some (e.1, e.2.1) else none

/-- A function of the legal tokens' values. -/
def mapLegal (f : Nat → W32 → W32) (v : Working) : Working :=
  ((List.range v.length).zip v).map fun e => if e.2.2 then (f e.1 e.2.1, true) else e.2

/-- The legal tokens cut down to those that a condition keeps. -/
def keepLegal (p : Nat → Bool) (v : Working) : Working :=
  ((List.range v.length).zip v).map fun e => (e.2.1, e.2.2 && p e.1)

/-- A BIAS entry applied (R341). -/
def biasOne (v : Working) (e : Nat × W32) : Working :=
  modAt (fun x => if x.2 then (smpAdd x.1 e.2, true) else x) v e.1

/-- PENALTY on a token that occurs `c` times (R341). -/
def penalize (rp pa pf : W32) (c : Nat) (z : W32) : W32 :=
  if c = 0 then z
  else
    let z := if fpLt 0 z then (fpDiv .rn z rp).1 else smpMul z rp
    let k := (fvAdd .rn (f32 pa) (fvMul (f32 pf) (.fin false c 0)).1).1
    rne32 (fvAdd .rn (f32 z) k.opp).1

/-! Weights (R342). -/

/-- The largest m whose 64th power does not exceed a number, from its bits. -/
def root64 : Nat → Nat → Nat → Nat
  | 0, _, r => r
  | k + 1, n, r => let c := r + 2 ^ k; root64 k n (if c ^ 64 ≤ n then c else r)

/-- TBL[i]: 2^(i/64) rounded to the nearest FP32 value; none lies midway (R342). -/
def expTable (i : Nat) : FVal :=
  let m := root64 24 (2 ^ (64 * 23 + i)) 0
  .fin false (if (2 * m + 1) ^ 64 < 2 ^ (64 * 24 + i) then m + 1 else m) (-23)

/-- `RNE32` of an exact value, as a value. -/
def rneValue (v : FVal) : FVal := f32 (rne32 v)

/-- The polynomial of EXP2 at x (R342). -/
def expPoly (x : FVal) : FVal :=
  let add (a : W32) (b : FVal) : FVal := rneValue (fvAdd .rn (f32 a) b).1
  let mul (a b : FVal) : FVal := rneValue (fvMul a b).1
  let h := add 0x3E75FDF0 (mul (f32 0x3D635847) x)
  let h := add 0x3F317218 (mul h x)
  add 0x3F800000 (mul h x)

/-- EXP2 (R342). -/
def exp2Weight (d : W32) : W32 :=
  match f32 d with
  | .nan | .inf _ => 0
  | .fin neg m e =>
    let v : Int := sgn neg (m * 2 ^ (e + 149).toNat)
    let n := v / 2 ^ 149
    if n < -126 then 0
    else
      let f := (v - n * 2 ^ 149).toNat
      let i := f / 2 ^ 143
      match rneValue (fvMul (expTable i) (expPoly (.fin false (f % 2 ^ 143) (-149)))).1 with
      | .fin _ q t => rne32 (.fin false q (t + n))
      | _ => 0

/-- The largest of some values. -/
def highestLogit (ts : List (Nat × W32)) : W32 :=
  ts.foldl (fun z t => if valueKey z < valueKey t.2 then t.2 else z) ((ts.head?.map fun t => t.2).getD 0)

/-- The legal tokens with their weights (R342). -/
def weights (v : Working) : List (Nat × W32) :=
  let ts := legalTokens v
  let zmax := highestLogit ts
  ts.map fun t => (t.1, exp2Weight (smpSub t.2 zmax))

/-- The sequential RNE32 sum of some weights. -/
def weightSum (ws : List (Nat × W32)) : W32 := ws.foldl (fun c w => smpAdd c w.2) 0

/-! FILTER (R343). -/

/-- The legal tokens in descending order of their values, the lower token first among equals. -/
def sortedTokens (v : Working) : List Nat :=
  (sortBy (fun (a b : Nat × W32) => valueKey b.2 < valueKey a.2 || (valueKey a.2 == valueKey b.2 && a.1 < b.1)) (legalTokens v)).map
    fun t => t.1

/-- The tokens up to and including the first at which the running sum reaches a target. -/
def topP (target : W32) : W32 → List (Nat × W32) → List Nat
  | _, [] => []
  | run, w :: ws =>
    let run := smpAdd run w.2
    if fpLt run target then w.1 :: topP target run ws else [w.1]

/-- A FILTER stage; every filter keeps at least the first token. A K of 0, a P of 1.0 and an M of 0 are off (R339, R343). -/
def filterStage (k : Nat) (p m : W32) (v : Working) : Working :=
  let ws := weights v
  let at_ (t : Nat) : Nat × W32 := (t, ((ws.find? fun w => w.1 == t).map fun w => w.2).getD 0)
  let order := (sortedTokens v).map at_
  let order := if k = 0 then order else order.take k
  let order := order.take 1 ++ (order.drop 1).filter fun w => !fpLt w.2 m
  let keep := if p = 0x3F800000 then order.map fun w => w.1 else topP (smpMul p (weightSum order)) 0 order
  keepLegal (fun t => keep.contains t) v

/-! Random numbers (R345). -/

/-- One round of Philox-4x32. -/
def philoxRound (k0 k1 : Nat) (c : Nat × Nat × Nat × Nat) : Nat × Nat × Nat × Nat :=
  let (c0, c1, c2, c3) := c
  let p0 := 0xD2511F53 * c0
  let p1 := 0xCD9E8D57 * c2
  (((p1 / 2 ^ 32 ^^^ c1) ^^^ k0) % 2 ^ 32, p1 % 2 ^ 32, ((p0 / 2 ^ 32 ^^^ c3) ^^^ k1) % 2 ^ 32, p0 % 2 ^ 32)

/-- Rounds of Philox-4x32. -/
def philoxRounds : Nat → Nat → Nat → Nat × Nat × Nat × Nat → Nat × Nat × Nat × Nat
  | 0, _, _, c => c
  | n + 1, k0, k1, c => philoxRounds n ((k0 + 0x9E3779B9) % 2 ^ 32) ((k1 + 0xBB67AE85) % 2 ^ 32) (philoxRound k0 k1 c)

/-- The uniform value of a draw index (R345). -/
def uniformAt (seed req pos idx : Nat) : W32 :=
  rne32 (.fin false ((philoxRounds 10 (bits seed 0 32) (bits seed 32 32) (req, pos, idx, 0)).1 / 256) (-24))

/-! Draw and acceptance (R346, R347). -/

/-- The first token at which the running sum passes a target. -/
def walkDraw (target : W32) : W32 → List (Nat × W32) → Option Nat
  | _, [] => none
  | c, w :: ws => let c := smpAdd c w.2; if fpLt target c then some w.1 else walkDraw target c ws

/-- DRAW over weights in ascending token order (R346). -/
def drawFrom (u : W32) (ws : List (Nat × W32)) : Nat :=
  match walkDraw (smpMul u (weightSum ws)) 0 ws with
  | some t => t
  | none => ((ws.filter fun w => fpLt 0 w.2).getLast?.map fun w => w.1).getD 0

/-- An exact comparison of finite values. -/
def finLt (a b : FVal) : Bool :=
  match a, b with
  | .fin na ma ea, .fin nb mb eb => decide ((dyAdd (sgn na ma) ea (-(sgn nb mb)) eb).1 < 0)
  | _, _ => false

/-- A draft probability: NaN, negative or infinite counts as 0 (R347). -/
def draftProb (q : W32) : W32 := if finite32 q && !q.msb then q else 0

/-- ACCEPT: the token, and whether it is the draft (R347). -/
def acceptToken (v : Working) (dt : Nat) (q : List W32) (u0 u1 : W32) : Nat × Bool :=
  let ws := weights v
  let total := weightSum ws
  let prob (t : Nat) : W32 := draftProb (q.getD t 0)
  let accepted := match ws.find? fun w => w.1 == dt with
    | none => false
    | some w => finLt (fvMul (fvMul (f32 u0) (f32 (prob dt))).1 (f32 total)).1 (f32 w.2)
  if accepted then (dt, true)
  else
    let ys := ws.map fun w =>
      let r := smpSub w.2 (smpMul (prob w.1) total)
      (w.1, if fpLt 0 r then r else 0)
    if ys.all fun y => y.2 == 0 then ((sortedTokens v).headD 0, false) else (drawFrom u1 ys, false)

/-! The grammar (R348, R349). -/

/-- An action entry. -/
structure Action where
  token : Nat
  op : Nat
  symbol : Nat
  next : Nat
  rsv : Nat
  deriving DecidableEq, Repr

/-- An action from its 8 bytes (R348). -/
def Action.decode (v : Nat) : Action :=
  { token := bits v 46 18, op := bits v 44 2, symbol := bits v 28 16, next := bits v 4 24, rsv := bits v 0 4 }

/-- The grammar of a job at its state: the mask, the actions, the stack's top and depth. -/
structure Grammar where
  mask : List Byte
  acts : List Action
  top : Nat
  sp : Nat
  deriving DecidableEq, Repr

/-- A token's bit in a bitmap (R339). -/
def bitmapAt (bs : List Byte) (t : Nat) : Bool := (bs.getD (t / 8) 0).getLsbD (t % 8)

/-- L(t) (R349). -/
def Grammar.legal (g : Grammar) (t : Nat) : Bool :=
  bitmapAt g.mask t && (match g.acts.find? fun a => a.token == t with
    | none => true
    | some a => !((a.op == 1 && g.sp == 256) || (a.op == 2 && (g.sp == 0 || g.top != a.symbol)) || (a.op == 3 && g.sp == 0)))

/-! Stages (R339, R341). -/

/-- A stage with the words that it has read. -/
inductive Stage where
  | scale (f : W32)
  | bias (entries : List (Nat × W32))
  | mask (bitmap : List Byte)
  | grammar
  | penalty (hist : List Nat) (rp pa pf : W32)
  | filter (k : Nat) (p m : W32)
  | draw
  | accept (dt : Nat) (q : List W32)
  deriving DecidableEq, Repr

/-- A stage's effect on the working vector; the last stage has none (R341, R343, R349, R352). -/
def Stage.apply (g : Grammar) (v : Working) : Stage → Working
  | .scale f => settleWork (mapLegal (fun _ z => smpMul z f) v)
  | .bias es => settleWork (es.foldl biasOne v)
  | .mask bs => settleWork (keepLegal (bitmapAt bs) v)
  | .grammar => settleWork (keepLegal g.legal v)
  | .penalty h rp pa pf => settleWork (mapLegal (fun t z => penalize rp pa pf (h.filter fun x => x == t).length z) v)
  | .filter k p m => settleWork (filterStage k p m v)
  | .draw | .accept _ _ => v

/-- STATUS codes (R350). -/
def stDrawn : Nat := 0
def stAccepted : Nat := 1
def stResampled : Nat := 2
def stNoLegal : Nat := 3
def stRefused : Nat := 4
def stFault : Nat := 5
def stPoison : Nat := 6

/-- `TOKEN` of a job that chose none (R337, R350). -/
def noToken : Nat := 0xFFFFFFFF

/-- The choice of the last stage: STATUS and TOKEN (R346, R347, R350). -/
def Stage.choose (v : Working) (u : Nat → W32) : Stage → Nat × Nat
  | .accept dt q =>
    if (legalTokens v).isEmpty then (stNoLegal, noToken)
    else let (t, own) := acceptToken v dt q (u 0) (u 1); (if own then stAccepted else stResampled, t)
  | _ => if (legalTokens v).isEmpty then (stNoLegal, noToken) else (stDrawn, drawFrom (u 0) (weights v))

end Sys2Proof.Machine
end

