-- ==== Sys2Proof/Machine/Sampler.lean ====
section
/-!
DEFINITION. The sampler's jobs: `smp` and `smp.q` (R335, R336, R338), what a job reads and when it is refused (R334, R337, R339, R340,
R344, R348), and its end (R337, R349-R352).
-/

namespace Sys2Proof.Machine

/-! Request records (R334). -/

/-- A request record. -/
structure SampleRecord where
  chain : Nat
  seed : Nat
  pda : Nat
  req : Nat
  pos : Nat
  state : Nat
  voc : Nat
  bf16 : Bool
  scope : Nat
  sp : Nat
  rsv : Bool
  raw : Nat
  deriving DecidableEq, Repr

/-- A record from its first 512 bytes (R334). -/
def SampleRecord.decode (bs : List Byte) : SampleRecord :=
  let v := leNat (bs.take 64)
  { chain := bits v 448 64, seed := bits v 384 64, pda := bits v 320 64, req := bits v 288 32, pos := bits v 256 32, state := bits v 224 32
    voc := bits v 205 19, bf16 := bits v 204 1 == 1, scope := bits v 201 3, sp := bits v 192 9
    rsv := bits v 0 152 == 0 && ((bs.drop 64).take 448).all fun b => b == 0, raw := v }

/-- A word of a list of bytes. -/
def wordAt (bs : List Byte) (n i : Nat) : Nat := leNat ((bs.drop (n * i)).take n)

/-! Reads (R337). -/

/-- Why a job stops before its end: a page keeps it waiting, or it is refused, or a page was left out, or a word is poisoned. -/
inductive JobStop where
  | trouble (a : Nat) (k : AccessKind) (t : Trouble)
  | refused
  | fault
  | poison
  deriving DecidableEq, Repr

/-- A job's view of memory. -/
def SamplerJob.who (x : SamplerJob) : Who := engineWho x.core x.part x.sysMode x.block

/-- A range of a job as its sector finds it: near, bulk, or in the private window of its lane (R75, R285, R337). -/
def State.jobPieces (s : State) (x : SamplerJob) (k : AccessKind) (a n : Nat) : Except (Nat × Trouble) (List Piece) :=
  s.piecesOf x.who k x.stall.badPages ((aliasParts { core := x.core, part := x.part, privAt := x.privAt, priv := x.priv } 0 a n).flatMap
    fun p => chunksOf p.1 p.2)

/-- Bytes that a job reads (R337). -/
def State.jobRead (s : State) (x : SamplerJob) (a n : Nat) : Except JobStop (List Byte) :=
  match (s.jobPieces x .engineRead a n).map s.pieceBytes with
  | .error (b, t) => .error (.trouble b .engineRead t)
  | .ok (none, _) => .error .fault
  | .ok (some _, some _) => .error .poison
  | .ok (some bs, none) => .ok bs

/-- A condition whose failure refuses the job. -/
def require (ok : Bool) : Except JobStop Unit := if ok then .ok () else .error .refused

/-! Stage blocks (R339, R340). -/

/-- The lowest named bit of a block of a kind; every bit below it is reserved (R339). -/
def blockFloor (kind : Nat) : Nat :=
  if kind = 0 then 412 else if kind = 1 then 367 else if kind = 2 then 379 else if kind = 3 then 267 else if kind = 4 then 361
  else if kind = 5 then 444 else 362

/-- The blocks of a chain, each checked by itself; the chain ends in the first DRAW or ACCEPT block (R340). -/
def State.jobChain (s : State) (x : SamplerJob) : Nat → Nat → Except JobStop (List Nat)
  | 0, _ => .error .refused
  | f + 1, a => do
    require (a % 64 == 0)
    let bs ← s.jobRead x a 64
    let b := leNat bs
    let kind := bits b 444 4
    let next := bits b 448 64
    require (decide (kind < 7) && bits b 0 (blockFloor kind) == 0 && (decide (5 ≤ kind) == (next == 0)))
    if next = 0 then return [b]
    else
      let r ← s.jobChain x f next
      return b :: r

/-- An FP32 field of a block. -/
def field32 (b lo : Nat) : W32 := BitVec.ofNat 32 (bits b lo 32)

/-- A block's checks, and the words that it reads (R339, R340). The bounds that R339 gives for an N refuse nothing (R352). -/
def State.jobStage (s : State) (x : SamplerJob) (v b : Nat) : Except JobStop Stage :=
  match bits b 444 4 with
  | 0 => do
    let f := field32 b 412
    require (finite32 f && fpLt 0 f)
    return .scale f
  | 1 => do
    let list := bits b 380 64
    let n := bits b 367 13
    require (list % 8 == 0)
    let bs ← s.jobRead x list (8 * n)
    let es := (List.range n).map fun i => (wordAt bs 4 (2 * i), (BitVec.ofNat 32 (wordAt bs 4 (2 * i + 1)) : W32))
    require (es.all fun e => decide (e.1 < v))
    return .bias es
  | 2 =>
    let base := bits b 379 64
    do
      require (base % 64 == 0)
      if bits b 443 1 = 1 then return .grammar
      let bs ← s.jobRead x base ((v + 7) / 8)
      return .mask bs
  | 3 => do
    let hist := bits b 380 64
    let n := bits b 363 17
    let rp := field32 b 331
    require (hist % 4 == 0 && finite32 rp && fpLe 0x3F800000 rp && finite32 (field32 b 299) && finite32 (field32 b 267))
    let bs ← s.jobRead x hist (4 * n)
    return .penalty ((List.range n).map fun i => wordAt bs 4 i) rp (field32 b 299) (field32 b 267)
  | 4 => do
    let k := bits b 425 19
    let p := field32 b 393
    let m := field32 b 361
    require (k ≤ v && fpLt 0 p && fpLe p 0x3F800000 && fpLe 0 m && fpLt m 0x3F800000)
    return .filter k p m
  | 5 => .ok .draw
  | _ => do
    let dt := bits b 426 18
    let q := bits b 362 64
    require (dt < v && q % 64 == 0)
    let bs ← s.jobRead x q (4 * v)
    return .accept dt ((List.range v).map fun i => BitVec.ofNat 32 (wordAt bs 4 i))

/-- The stages of some blocks, in order. -/
def State.jobStages (s : State) (x : SamplerJob) (v : Nat) : List Nat → Except JobStop (List Stage)
  | [] => .ok []
  | b :: bs => do
    let g ← s.jobStage x v b
    let r ← s.jobStages x v bs
    return g :: r

/-! The automaton (R344, R348). -/

/-- Whether a list of actions is strictly ascending by token. -/
def ascending : List Action → Bool
  | a :: b :: r => decide (a.token < b.token) && ascending (b :: r)
  | _ => true

/-- The grammar at the record's state, with the checks of R344; a reserved bit of the header is refused by R6. No other check is made: the
bounds that R348 gives for NS and NACT refuse nothing (R352). The mask must lie in near or bulk memory as the automaton's records must (DEDUCED,
log entry 48: R337 lists bitmasks apart from automaton records, and R344 does not say which of them the state's mask is). -/
def State.jobGrammar (s : State) (x : SamplerJob) (r : SampleRecord) (stack : List Byte) : Except JobStop Grammar := do
  require (r.pda != 0 && r.pda % 64 == 0 && inNearOrBulk r.pda 64)
  let hd ← s.jobRead x r.pda 64
  let h := leNat hd
  let ns := bits h 352 32
  let states := bits h 448 64
  let masks := bits h 384 64
  require (bits h 0 333 == 0 && bits h 333 19 == r.voc && decide (r.state < ns) &&
    states % 16 == 0 && masks % 64 == 0 && inNearOrBulk (states + 16 * r.state) 16)
  let sr ← s.jobRead x (states + 16 * r.state) 16
  let v := leNat sr
  let acts := bits v 64 64
  let n := bits v 32 32
  let mb := 64 * ((r.voc + 511) / 512)
  let mask := masks + bits v 0 32 * mb
  require (acts % 8 == 0 && (n == 0 || inNearOrBulk acts (8 * n)) && inNearOrBulk mask mb)
  let al ← s.jobRead x acts (8 * n)
  let as := (List.range n).map fun i => Action.decode (wordAt al 8 i)
  require (ascending as && as.all fun a => decide (a.next < ns) && a.rsv == 0 && (a.op != 0 || a.symbol == 0))
  let bits_ ← s.jobRead x mask mb
  return { mask := bits_, acts := as, top := if r.sp = 0 then 0 else wordAt stack 2 (r.sp - 1), sp := r.sp }

/-! The job (R337, R340, R341). -/

/-- The logits as working values (R333, R341). -/
def logits (bf16 : Bool) (v : Nat) (bs : List Byte) : Working :=
  (List.range v).map fun t =>
    if bf16 then (BitVec.ofNat 32 (wordAt bs 2 t * 2 ^ 16), true) else (BitVec.ofNat 32 (wordAt bs 4 t), true)

/-- The chosen token's action applied to the record (R349). -/
def applyAction (g : Grammar) (r : SampleRecord) (res : JobResult) : JobResult :=
  match g.acts.find? fun a => a.token == res.token with
  | none => res
  | some a =>
    let res := { res with state := a.next }
    if a.op = 1 then { res with push := some (r.sp, a.symbol), sp := r.sp + 1 }
    else if a.op = 2 then { res with sp := r.sp - 1 }
    else if a.op = 3 then { res with push := some (r.sp - 1, a.symbol) }
    else res

/-- A job on a record that has been read (R340-R350). -/
def State.jobRun (s : State) (x : SamplerJob) (r : SampleRecord) (sc : Scope) (stack : List Byte) : Except JobStop JobResult := do
  let lh := s.handle x.core x.lh
  require (r.rsv && decide (r.sp ≤ 256) && decide (1 ≤ r.voc) && decide (r.voc ≤ 262144) &&
    lh.len.toNat == r.voc * (if r.bf16 then 2 else 4))
  let bs ← s.jobChain x 16 r.chain
  let stages ← s.jobStages x r.voc bs
  let grams := (stages.filter fun g => g == .grammar).length
  require (grams ≤ 1 && (grams == 0 || r.pda != 0))
  let g ← if grams = 0 then .ok ({ mask := [], acts := [], top := 0, sp := 0 } : Grammar) else s.jobGrammar x r stack
  let data ← s.jobRead x lh.base.toNat lh.len.toNat
  let v := stages.foldl (Stage.apply g) (settleWork (logits r.bf16 r.voc data))
  let (status, token) := (stages.getLast?.getD .draw).choose v (uniformAt r.seed r.req r.pos)
  let res : JobResult :=
    { status := status, token := token, state := r.state, sp := r.sp, scope := sc, raw := some r.raw, whole := true }
  return if grams = 1 && status ≤ stResampled then applyAction g r res else res

/-- The end of a job that does not run: STATUS, with the error of its handle (R337). -/
def JobStop.result (sc : Scope) (raw : Option Nat) : JobStop → JobResult
  | .refused => { status := stRefused, token := noToken, err := errRefused, scope := sc, raw := raw }
  | .poison => { status := stPoison, token := noToken, err := errPoison, scope := sc, raw := raw }
  | _ => { status := stFault, token := noToken, err := errFault, scope := sc, raw := raw }

/-- What is read of a record besides its first 64 bytes, which hold SP: the reserved bytes, and the stack entries below SP (R334). -/
def State.jobRest (s : State) (x : SamplerJob) (head : List Byte) : Except JobStop (SampleRecord × List Byte) := do
  let rsv ← s.jobRead x (x.record.toNat + 64) 448
  let r := SampleRecord.decode (head ++ rsv)
  let stack ← if r.sp ≤ 256 then s.jobRead x (x.record.toNat + 512) (2 * r.sp) else .error .refused
  return (r, stack)

/-- What a job comes to. Its release is at the record's SCOPE wherever the line that holds SCOPE can be read and holds no reserved
code; at core scope otherwise (R337). -/
def State.jobResult (s : State) (x : SamplerJob) : Except (Nat × AccessKind × Trouble) JobResult :=
  match s.jobRead x x.record.toNat 64 with
  | .error (.trouble a k t) => .error (a, k, t)
  | .error .fault => .ok (JobStop.result .core none .fault)
  | .error e => .ok (JobStop.result .core (some 0) e)
  | .ok head =>
    let raw := leNat head
    let sc := scopeCoded (bits raw 201 3)
    let run : Except JobStop JobResult := do
      let (r, stack) ← s.jobRest x head
      require sc.isSome
      s.jobRun x r (sc.getD .core) stack
    match run with
    | .ok res => .ok res
    | .error (.trouble a k t) => .error (a, k, t)
    | .error e => .ok (JobStop.result (sc.getD .core) (some raw) e)

/-- The bytes that a result writes: TOKEN and STATUS; of a job that ran, STATE, SP and a stack entry too (R337, R349, R350). -/
def JobResult.writes (res : JobResult) (rec : Nat) : List (Nat × List Byte) :=
  match res.raw with
  | none => []
  | some raw =>
    let out := [(rec + 19, leBytes 1 res.status), (rec + 20, leBytes 4 res.token)]
    if !res.whole then out
    else
      let top := match res.push with
        | none => []
        | some (i, y) => [(rec + 512 + 2 * i, leBytes 2 y)]
      out ++ [(rec + 24, leBytes 2 (bits raw 201 7 * 2 ^ 9 + res.sp)), (rec + 28, leBytes 4 res.state)] ++ top

/-- Some bytes written by the sampler to mapped memory. -/
def State.jobWrite (s : State) (x : SamplerJob) (p : Nat × List Byte) : State :=
  match s.jobPieces x .engineWrite p.1 p.2.length with
  | .ok ps => s.writePieces x.who ps [{ n := p.2.length, data := some p.2, bad := none }]
  | .error _ => s

/-- A job ended: LH is freed, then h passes to FULL at its scope, and X resolves (R336, R337). A system item's job is counted to no partition
(R360). -/
def State.endJob (s : State) (n : Nat) (x : SamplerJob) (res : JobResult) : State :=
  let s := s.onSector n fun k => { k with jobs := k.jobs.drop 1 }
  let s := if x.free then s else s.counted x.part .sampler
  let s := s.freeHandle x.core x.lh
  let s := (s.onHandle x.core x.h fun y => { y with scope := res.scope }).fullHandle x.core x.h res.err
  s.resultOf x.core x.h (BitVec.ofNat 64 (res.status * 2 ^ 32 + res.token))

/-- The engine record of a job (R88, R337). -/
def SamplerJob.faultRecord (x : SamplerJob) (k : AccessKind) : FaultRecord :=
  { pc := x.pc, core := x.core, fbi := x.h, tslot := x.slot % 32, part := x.part, kind := k, size := 8 }

/-- What the sampler meets on behalf of its running job, with what the job has come to already. -/
def State.jobTrouble (s : State) (n : Nat) (x : SamplerJob) (done : Option JobResult) (a : Nat) (k : AccessKind) (t : Trouble) : State :=
  let (s, st) := s.engineTrouble x.who (x.faultRecord k) x.stall a t
  s.onSector n fun q => { q with jobs := q.jobs.map fun y => if y == x then { x with stall := st, done := done } else y }

/-- The running job of a sector runs to its end, or to a page that stalls it. A record whose page is left out is not written, and the
handle takes FAULT, at the record's SCOPE where the record had been read (R337). -/
def State.runJob (s : State) (n : Nat) (x : SamplerJob) : State :=
  match x.done.elim (s.jobResult x) .ok with
  | .error (a, k, t) => s.jobTrouble n x none a k t
  | .ok res =>
    if res.raw.isNone then s.endJob n x res
    else match s.jobPieces x .engineWrite x.record.toNat 1024 with
      | .error (a, t) => s.jobTrouble n x (some res) a .engineWrite t
      | .ok ps =>
        if ps.any fun p => match p with
          | .skip _ => true
          | .here _ _ => false
        then s.endJob n x (JobStop.result res.scope none .fault)
        else ((res.writes x.record.toNat).foldl (fun s p => s.jobWrite x p) s).endJob n x res

/-- `sampler_job_start` (R333): the job at the head of the queue starts. -/
def execSamplerJobStart (sector : Nat) (s : State) : Host.Outcome State Fault Refusal :=
  .next (match (s.sector sector).jobs with
    | [] => s
    | x :: r => if x.running then s else s.onSector sector fun k => { k with jobs := { x with running := true } :: r })

/-- `sampler_job_completion` (R337). -/
def execSamplerJobCompletion (sector : Nat) (s : State) : Host.Outcome State Fault Refusal :=
  .next (match (s.sector sector).jobs with
    | [] => s
    | x :: _ => if !x.running || x.stall.waiting then s else s.runJob sector x)

/-! Instructions (R335, R336, R338). -/

/-- Jobs that a sector's queue holds (R333). -/
def samplerDepth : Nat := 32

/-- The waiting job of this instruction, once its handles and ranges are registered (R336, step 5). -/
def Ctx.offeredJob (cx : Ctx) (x : SamplerJob) : Option SamplerJob :=
  ((cx.s.sector (sectorOf cx.c)).offered.find? fun y =>
    y.core == cx.c && y.slot == cx.t && y.away.isNone && y.lane == x.lane && y.pc == x.pc && y.h == x.h && y.lh == x.lh &&
      y.record == x.record && y.part == x.part)

/-- Step 5: the job enters the queue, and X becomes symbolic (R63, R336). -/
def Ctx.enterJob (cx : Ctx) (x : Operand) (j : SamplerJob) : Did :=
  if samplerDepth ≤ (cx.s.sector (sectorOf cx.c)).jobs.length then .wait cx.s .issue
  else
    let enter (s : State) : State :=
      s.onSector (sectorOf cx.c) fun k => { k with
        jobs := k.jobs ++ [j], offered := k.offered.filter fun y => !(y.core == cx.c && y.h == j.h) }
    if !takesSymbol x then .done (enter cx.s) 0
    else match cx.s.allocSym cx.c cx.t cx.sys (laneBit cx.lane) true true (.handle j.h) with
      | none => .wait cx.s .issue
      | some (n, s) => .done (enter (cx.bind s x false n)) 0

/-- `smp` (R336). -/
def execSmp (x y : Operand) (h : BitVec 6) : State → Host.Outcome State Fault Refusal :=
  perform { ops := [x, y], ok := fun cx => cx.dstU x && cx.isU y } fun cx =>
    cx.behind 1 fun cx => cx.blockOn [y] fun cx => cx.withHandle h.toNat fun cx =>
      let w := (cx.uval y).toNat
      let lh := bits w 4 6
      if bits w 56 8 != 0 || bits w 0 4 != 0 || lh == h.toNat then .trap cx.s .sample 0 none cx.act
      else cx.withHandle lh fun cx =>
        let at_ := BitVec.ofNat 64 (bits w 10 46 * 2 ^ 10)
        let rec_ := aliasOf cx.who cx.lane at_
        let j : SamplerJob :=
          { core := cx.c, slot := cx.t, lane := cx.lane, part := cx.part, pc := cx.iaddr, h := h.toNat, lh := lh, record := at_
            sysMode := cx.sys, free := cx.x.formed, block := cx.who.block, privAt := cx.who.privAt + cx.lane * cx.who.priv, priv := cx.who.priv }
        match cx.offeredJob j with
        | some j => cx.enterJob x j
        | none =>
          let l := cx.s.handle cx.c lh
          let base := aliasOf cx.who cx.lane l.base
          if l.st != .full || (cx.s.handle cx.c h.toNat).st != .free then .wait cx.s .issue
          else if cx.conflicts false base l.len.toNat || cx.conflicts true rec_ 1024 then .trap cx.s .range 0 none cx.act
          else match cx.freeLocks with
            | l1 :: l2 :: _ =>
              let s := (cx.s.fillHandle cx.c h.toNat rec_ 1024 .core (some l1)).drainHandle cx.c lh l2 base
              let s := s.onHandle cx.c h.toNat fun k => { k with job := true }
              let s := s.onSector (sectorOf cx.c) fun k => { k with offered := k.offered ++ [j] }
              Ctx.enterJob { cx with s := s } x j
            | _ => .wait cx.s .issue

/-- The number of stages of a job's chain, as far as it can be read. -/
def State.jobLength (s : State) (x : SamplerJob) : Nat :=
  match s.jobRead x x.record.toNat 64 with
  | .error _ => 1
  | .ok head => match s.jobChain x 16 (bits (leNat head) 448 64) with
    | .ok bs => max 1 bs.length
    | .error _ => 1

/-- The state of the job on a handle (R338). A job runs whole at its completion, so the stage that runs in between is a free
value below the length of its chain (log entry 28). -/
def State.jobWord (s : State) (c h : Nat) : Nat :=
  let q := (s.sector (sectorOf c)).jobs
  let busy := (q.head?.map fun x => x.running).getD false
  match indexOf? (fun (x : SamplerJob) => x.core == c && x.h == h) q with
  | some i =>
    if i = 0 && busy then Config.pick s.fresh % (min 16 ((q.head?.map s.jobLength).getD 1)) * 2 ^ 4 + 2
    else min (if busy then i else i + 1) 31 * 2 ^ 8 + 1
  | none => let x := s.handle c h; if x.st == .full && x.job then 3 else 0

/-- `smp.q` (R338). -/
def execSmpQ (x : Operand) (h : BitVec 6) : State → Host.Outcome State Fault Refusal :=
  perform { ops := [x], ok := fun cx => cx.dstU x } fun cx => cx.withHandle h.toNat fun cx =>
    if cx.destWaits x then .wait cx.s .issue
    else .done (cx.write { cx.s with fresh := cx.s.fresh + 1 } x (fun _ => BitVec.ofNat 64 (cx.s.jobWord cx.c h.toNat)) noOrigin) 0

end Sys2Proof.Machine
end

