-- ==== Sys2Proof/Machine/Tile.lean ====
section
/-!
DEFINITION. Format records and the places of elements, masks and scales in a claim (R122-R125, R266-R268), and the arithmetic of
`mma` (R126-R132, R277).
-/

namespace Sys2Proof.Machine

/-! Format records (R266-R268). -/

/-- A format record's fields. -/
structure TileFormat where
  fmt : Nat
  mode : Nat
  role : Bool
  sp : Nat
  kd : Bool
  soff : Nat
  moff : Nat
  boff : Nat
  rsv : Nat
  deriving DecidableEq, Repr

/-- A format record read (R266). -/
def TileFormat.decode (w : W64) : TileFormat :=
  let v := w.toNat
  { fmt := bits v 60 4, mode := bits v 58 2, role := bits v 57 1 == 1, sp := bits v 55 2, kd := bits v 54 1 == 1, soff := bits v 40 12
    moff := bits v 28 12, boff := bits v 16 12, rsv := bits v 52 2 + bits v 0 16 }

/-- The dense K of a format (R20), and the bits of an element. -/
def TileFormat.k0 (f : TileFormat) : Nat := if f.fmt = 0 then 256 else if f.fmt = 3 then 64 else 128
def TileFormat.ebits (f : TileFormat) : Nat := if f.fmt = 0 then 4 else if f.fmt = 3 then 16 else 8

/-- Kc (R267). -/
def TileFormat.kc (f : TileFormat) : Nat := if f.kd then 2 * f.k0 else f.k0

/-- The elements kept of a group of 8 (R125); 8 of a dense operand. -/
def TileFormat.kept (f : TileFormat) : Nat := if f.sp = 1 then 2 else if f.sp = 2 then 4 else 8

/-- Bytes of a line in the element area, in the masks and in the block scales (R267). -/
def TileFormat.rowBytes (f : TileFormat) : Nat := f.kc * f.ebits / 8 * f.kept / 8
def TileFormat.maskBytes (f : TileFormat) : Nat := f.kc / 8
def TileFormat.scaleBytes (f : TileFormat) : Nat := if f.mode = 1 then f.kc / 8 else f.kc / 32

/-- The areas that are present: first byte and size (R267). -/
def TileFormat.areas (f : TileFormat) : List (Nat × Nat) :=
  [(0, 128 * f.rowBytes)] ++ (if f.sp = 0 then [] else [(16 * f.moff, 128 * f.maskBytes)]) ++
    (if f.mode = 0 then [] else [(16 * f.soff, 128 * f.scaleBytes)]) ++ (if f.mode = 1 then [(16 * f.boff, 4)] else [])

/-- The extent of a claim (R267). -/
def TileFormat.extent (f : TileFormat) : Nat := f.areas.foldl (fun m a => max m (a.1 + a.2)) 0

/-- Bytes of an operand slot (R265). -/
def slotBytes : Nat := 24576

/-- Whether the claim takes a pair (R267). -/
def TileFormat.pair (f : TileFormat) : Bool := decide (slotBytes < f.extent)

/-- Whether two of some areas overlap. -/
def areasMeet : List (Nat × Nat) → Bool
  | [] => false
  | a :: r => r.any (fun b => overlaps a.1 a.2 b.1 b.2) || areasMeet r

/-- Whether `tclaim` refuses a record (R268). -/
def TileFormat.refused (f : TileFormat) : Bool :=
  f.rsv != 0 || decide (5 < f.fmt) || f.mode == 3 || f.sp == 3 || (f.mode == 1 && f.fmt != 0) || (f.mode == 2 && decide (2 < f.fmt)) ||
    (f.mode == 0 && f.fmt == 0) || (f.role && f.sp != 0) || (!f.role && f.kd != (f.sp != 0)) || (f.mode == 0 && f.soff != 0) ||
    (f.sp == 0 && f.moff != 0) || (f.mode != 1 && f.boff != 0) || areasMeet f.areas || decide (2 * slotBytes < f.extent)

/-- Whether two records form a legal pair (R277). -/
def legalPair (a b : TileFormat) : Bool :=
  !a.role && b.role && a.mode == b.mode && a.kd == b.kd &&
    (a.fmt == b.fmt || ((a.fmt == 1 || a.fmt == 2) && (b.fmt == 1 || b.fmt == 2)) || ((a.fmt == 4 || a.fmt == 5) && (b.fmt == 4 || b.fmt == 5)))

/-! Elements (R122, R125, R267). -/

/-- A byte of a claim. -/
def Claim.byte (c : Claim) (a : Nat) : Nat := (SMap.atD c.bytes a 0).toNat

/-- The mask of a group of a line (R125, R267). -/
def Claim.mask (c : Claim) (f : TileFormat) (line g : Nat) : Nat := c.byte (16 * f.moff + line * f.maskBytes + g)

/-- Whether a group's mask has the number of bits that its format keeps (R125). -/
def Claim.groupOk (c : Claim) (f : TileFormat) (line g : Nat) : Bool := f.sp == 0 || popNat 8 (c.mask f line g) == f.kept

/-- The stored element at a place of a line (R122). -/
def Claim.stored (c : Claim) (f : TileFormat) (line n : Nat) : Nat :=
  let base := line * f.rowBytes
  if f.ebits = 4 then bits (c.byte (base + n / 2)) (4 * (n % 2)) 4
  else if f.ebits = 16 then c.byte (base + 2 * n) + 256 * c.byte (base + 2 * n + 1)
  else c.byte (base + n)

/-- The code of element k of a line, none where its mask does not keep it (R125). -/
def Claim.code (c : Claim) (f : TileFormat) (line k : Nat) : Option Nat :=
  if f.sp = 0 then some (c.stored f line k)
  else
    let m := c.mask f line (k / 8)
    if bits m (k % 8) 1 = 0 then none else some (c.stored f line (k / 8 * f.kept + popNat (k % 8) m))

/-- The floating-point format of an element (R266). -/
def TileFormat.float (f : TileFormat) : Fmt :=
  if f.fmt = 0 then .e2m1 else if f.fmt = 1 then .e4m3 else if f.fmt = 2 then .e5m2 else .bf16

/-- An element as a value; zero where it is not kept. -/
def Claim.value (c : Claim) (f : TileFormat) (line k : Nat) : FVal :=
  match c.code f line k with
  | none => .fin false 0 0
  | some x => f.float.decode x

/-- An INT8 element, with its own signedness (R132). -/
def Claim.int (c : Claim) (f : TileFormat) (line k : Nat) : Int :=
  match c.code f line k with
  | none => 0
  | some x => if f.fmt = 4 then (BitVec.ofNat 8 x).toInt else x

/-- The block scale of a line (R123, R124, R267). -/
def Claim.scale (c : Claim) (f : TileFormat) (line b : Nat) : Nat := c.byte (16 * f.soff + line * f.scaleBytes + b)

/-- A band scale; a NaN or an infinity counts as a NaN (R123). -/
def Claim.band (c : Claim) (f : TileFormat) (line : Nat) : FVal :=
  let a := 16 * f.boff + 2 * (line / 64)
  match Fmt.bf16.decode (c.byte a + 256 * c.byte (a + 1)) with
  | .inf _ => .nan
  | v => v

/-! The dot product (R126-R132). -/

/-- `RNEI` (R116). -/
def rnei : FVal → FVal
  | .fin neg m e =>
    if m = 0 then .fin false 0 0
    else
      let t := e + bitLen m - 24
      let (q, _) := roundAt .rn neg m e t
      if t ≤ e then .fin neg m e else .fin neg q t
  | v => v

/-- A zero inside BLOCK is +0 (R126). -/
def FVal.plusZero : FVal → FVal
  | .fin neg m e => .fin (neg && m != 0) m e
  | v => v

/-- The exact sum of two values inside BLOCK. -/
def blockAdd (a b : FVal) : FVal := (fvAdd .rn a b).1.plusZero

/-- `RNE32` inside BLOCK, as a value. -/
def blockRne (v : FVal) : FVal := (f32 (rne32 v)).plusZero

/-- The product of two values inside BLOCK, with the negation of `mma` (R126). -/
def blockMul (neg : Bool) (a b : FVal) : FVal := (if neg then (fvMul a b).1.opp else (fvMul a b).1).plusZero

/-- The exact sum of some values: NaN where one is, or where both infinities meet. -/
def blockSum (vs : List FVal) : FVal := vs.foldl blockAdd (.fin false 0 0)

/-- One level of a binary tree: adjacent values added, each sum rounded with RNEI (R128). -/
def treeLevel : List FVal → List FVal
  | a :: b :: r => rnei (blockAdd a b) :: treeLevel r
  | r => r

/-- A UE3M5 scale as a value (R114). -/
def ueValue (c : Nat) : FVal :=
  match ue3m5 c with
  | none => .nan
  | some (m, e) => .fin false m e

/-- The operands of an `mma`: claims, their records, and whether products are negated. -/
structure MmaIn where
  a : Claim
  b : Claim
  fa : TileFormat
  fb : TileFormat
  neg : Bool

/-- The product at k of row i and column j; of a group whose mask is invalid, NaN (R125). -/
def MmaIn.product (m : MmaIn) (i j k : Nat) : FVal :=
  if m.a.groupOk m.fa i (k / 8) then blockMul m.neg (m.a.value m.fa i k) (m.b.value m.fb j k) else .nan

/-- BLOCK in native mode (R127). -/
def MmaIn.native (m : MmaIn) (i j kb : Nat) : FVal :=
  let e (q : Nat) : FVal :=
    let k0 := 32 * kb + 8 * q
    let s := blockSum ((List.range 8).map fun d => m.product i j (k0 + d))
    blockMul false s (blockMul false (ueValue (m.a.scale m.fa i (k0 / 8))) (ueValue (m.b.scale m.fb j (k0 / 8))))
  let t := blockRne (blockAdd (blockRne (blockAdd (e 0) (e 1))) (blockRne (blockAdd (e 2) (e 3))))
  rnei (blockMul false t (blockMul false (m.a.band m.fa i) (m.b.band m.fb j)))

/-- The 32 products of a block. -/
def MmaIn.products (m : MmaIn) (i j kb : Nat) : List FVal := (List.range 32).map fun d => m.product i j (32 * kb + d)

/-- BLOCK without scales: a tree of five levels (R128). -/
def MmaIn.plain (m : MmaIn) (i j kb : Nat) : FVal :=
  ((treeLevel (treeLevel (treeLevel (treeLevel (treeLevel (m.products i j kb)))))).headD (.fin false 0 0))

/-- BLOCK in MX mode: an exact sum, scaled exactly (R129). -/
def MmaIn.scaled (m : MmaIn) (i j kb : Nat) : FVal :=
  let ea := m.a.scale m.fa i kb
  let eb := m.b.scale m.fb j kb
  if ea = 0xFF || eb = 0xFF then .nan
  else blockMul false (blockSum (m.products i j kb)) (.fin false 1 ((ea : Int) + eb - 254))

/-- BLOCK of a floating-point mode (R127-R129). -/
def MmaIn.block (m : MmaIn) (i j kb : Nat) : FVal :=
  if m.fa.mode = 1 then m.native i j kb else if m.fa.mode = 2 then m.scaled i j kb else m.plain i j kb

/-- `ACCF` (R131). -/
def accf (c : W32) (v : FVal) : W32 × FlagSet :=
  match fvAdd .rn (f32 c) v with
  | (.nan, _) => (CNAN, Flag.inv)
  | (.inf neg, _) => (BitVec.ofNat 32 (Fmt.f32.infCode neg), 0)
  | (.fin neg m e, _) =>
    let (r, fl) := Fmt.f32.roundFin .rn neg m e
    if fl &&& Flag.ofl = 0 then (BitVec.ofNat 32 r, 0) else (BitVec.ofNat 32 (Fmt.f32.signed neg Fmt.f32.maxCode), Flag.ovf)

/-- `ACCI` (R132). -/
def acci (c : W32) (s : Int) : W32 × FlagSet :=
  let v := c.toInt + s
  if v < -(2 ^ 31) then (0x80000000, Flag.isat) else if 2 ^ 31 - 1 < v then (0x7FFFFFFF, Flag.isat) else (BitVec.ofInt 32 v, 0)

/-- A block of INT8 products; a group whose mask is invalid contributes 0 (R132, R277). -/
def MmaIn.intBlock (m : MmaIn) (i j kb : Nat) : Int :=
  (List.range 32).foldl (fun s d =>
    let k := 32 * kb + d
    let p := m.a.int m.fa i k * m.b.int m.fb j k
    if m.a.groupOk m.fa i (k / 8) then s + (if m.neg then -p else p) else s) 0

/-- INV where a group of a row has an invalid mask (R125). -/
def MmaIn.maskFlags (m : MmaIn) (i : Nat) : FlagSet :=
  if (List.range (m.fa.kc / 8)).all fun g => m.a.groupOk m.fa i g then 0 else Flag.inv

/-- One block added into an element. -/
def MmaIn.addBlock (m : MmaIn) (i j : Nat) (r : W32 × FlagSet) (kb : Nat) : W32 × FlagSet :=
  let (c, fl) := if m.fa.fmt = 4 || m.fa.fmt = 5 then acci r.1 (m.intBlock i j kb) else accf r.1 (m.block i j kb)
  (c, r.2 ||| fl)

/-- Element D[i][j] from its accumulator value, with its flags (R126, R277). -/
def MmaIn.element (m : MmaIn) (i j : Nat) (c : W32) : W32 × FlagSet :=
  (List.range (m.fa.kc / 32)).foldl (m.addBlock i j) (c, m.maskFlags i)

/-- Words of an accumulator. -/
def accWords : Nat := 16384

/-- All elements of an accumulator after an `mma` (R277). -/
def MmaIn.all (m : MmaIn) (zc : Bool) (old : SMap W32) : SMap W32 × FlagSet :=
  let rs := (List.range accWords).map fun e => (e, m.element (e / 128) (e % 128) (if zc then 0 else SMap.atD old e 0))
  (rs.filterMap fun r => if r.2.1 = 0 then none else some (r.1, r.2.1), rs.foldl (fun f r => f ||| r.2.2) 0)

end Sys2Proof.Machine
end

