-- ==== Sys2Proof/Machine/Tensor.lean ====
section
/-!
DEFINITION. Major 0x2D: claims and accumulators (R265-R270, R274, R275), tensor operations and their completion (R271, R276, R277,
R279), batches (R272, R278), `acc.mv` (R280) and `tinfo` (R281).
-/

namespace Sys2Proof.Machine

/-! Operands. -/

def isTile : Operand → Bool
  | .t _ => true
  | _ => false

def isAcc : Operand → Bool
  | .a _ => true
  | _ => false

/-- The number of a tile or accumulator operand. -/
def bankNumber : Operand → Nat
  | .t n => n.val
  | .a n => n.val
  | _ => 0

/-- The rules of an instruction of the major: no extension, no modifier field, not in system mode (R271, R357). -/
def tensorRules (ops : List Operand) (ok : Ctx → Bool) : Rules := { ops := ops, ok := ok, inSys := false }

/-! Claims (R265, R267, R274, R275). -/

/-- The slots of a team's reserve that no claim of it takes (R265). -/
def Team.freeReserve (x : Team) : List Nat :=
  let used := ((x.tiles.filter fun e => e.2.reserved).map fun e => slotsOf e.2.first e.2.pair).flatten
  ((x.reserve.map fun r => slotsOf r.1 r.2).flatten).filter fun i => !used.contains i

/-- The places among free slots where a claim fits: aligned pairs; or single slots, which break a free pair only where no lone slot is free
(DESIGN CHOICE, log entry 3: R265 has pairs first of the reserve alone, and leaves the place of a single claim open). -/
def claimPlaces (free : List Nat) (pair : Bool) : List Nat :=
  if pair then freePairs free
  else
    let alone := free.filter fun i => !free.contains (if i % 2 = 0 then i + 1 else i - 1)
    if alone.isEmpty then free else alone

/-- Where a team's claim goes: its reserve, else the core within its partition's quota (R148, R265). -/
def State.claimPlace (s : State) (c : Nat) (x : Team) (pair : Bool) : Option (Nat × Bool) :=
  match choose s.fresh (claimPlaces x.freeReserve pair) with
  | some i => some (i, true)
  | none =>
    let k := s.core c
    if quotaSlots (s.quota c x.part) < k.slotsUsed x.part + (if pair then 2 else 1) then none
    else (choose s.fresh (claimPlaces k.freeSlots pair)).map fun i => (i, false)

/-- A tile register of the team at issue. -/
def Ctx.tile? (cx : Ctx) (o : Operand) : Option Claim := SMap.at? cx.x.tiles (bankNumber o)

/-- `tclaim` (R274). -/
def execTclaim (x y : Operand) : State → Host.Outcome State Fault Refusal :=
  perform (tensorRules [x, y] fun cx => isTile x && cx.isU y) fun cx =>
    cx.blockOn [y] fun cx =>
      let f := TileFormat.decode (cx.uval y)
      if f.refused || (cx.tile? x).isSome then .trap cx.s .tensor 0 none cx.act
      else match cx.s.claimPlace cx.c cx.x f.pair with
        | none => .wait cx.s .issue
        | some (i, own) =>
          let k : Claim := { record := cx.uval y, first := i, pair := f.pair, reserved := own }
          let s : State := { cx.s with fresh := cx.s.fresh + 1 }
          .done (s.onTeam cx.c cx.t fun z => { z with tiles := z.tiles.put (bankNumber x) k }) 0

/-- Whether an operation names a tile register, or an accumulator (R275). -/
def TensorKind.namesTile (k : TensorKind) (n : Nat) : Bool :=
  match k with
  | .tload t _ => t == n
  | .mma _ a b _ _ _ => a == n || b == n
  | _ => false

def TensorKind.namesAcc (k : TensorKind) (n : Nat) : Bool :=
  match k with
  | .tload _ _ => false
  | .mma a _ _ _ _ _ | .zero a | .ld a _ _ | .st a _ _ => a == n

/-- Whether an operation writes an accumulator (R280). -/
def TensorKind.writesAcc (k : TensorKind) (n : Nat) : Bool :=
  match k with
  | .mma a _ _ _ _ _ | .zero a | .ld a _ _ => a == n
  | _ => false

/-- Whether an operation of the team at issue that has a property has not finished. -/
def Ctx.pendingOp (cx : Ctx) (p : TensorKind → Bool) : Bool := (cx.s.core cx.c).tq.any fun o => o.slot == cx.t && p o.kind

/-- `trel` (R275). -/
def execTrel (x : Operand) : State → Host.Outcome State Fault Refusal :=
  perform (tensorRules [x] fun _ => isTile x || isAcc x) fun cx =>
      let n := bankNumber x
      if isTile x then
        (if cx.pendingOp fun k => k.namesTile n then .wait cx.s .issue
         else .done (cx.s.onTeam cx.c cx.t fun z => { z with tiles := z.tiles.del n }) 0)
      else if cx.pendingOp fun k => k.namesAcc n then .wait cx.s .issue
      else
        let s := match SMap.at? cx.x.accs n with
          | none => cx.s
          | some i => cx.s.onCore cx.c fun k => { k with accs := k.accs.del i }
        .done (s.onTeam cx.c cx.t fun z => { z with accs := z.accs.del n }) 0

/-! Accumulators (R270). -/

/-- The free physical accumulators of a core. -/
def Core.freeAccs (k : Core) : List Nat := freeKeys k.accs 0 16

/-- The requests for an accumulator that still wait, in order (R270). -/
def Core.waitingReqs (k : Core) : List AccRequest :=
  k.accReqs.filter fun r => match k.teams.at? r.slot with
    | none => false
    | some x => x.splinters.any fun p => p.st == .waiting .issue && p.pc == r.pc

/-- A request entered, in order. -/
def Core.request (k : Core) (r : AccRequest) : Core := if k.accReqs.contains r then k else { k with accReqs := k.waitingReqs ++ [r] }

/-- An accumulator name bound: to the physical one that it has, or to a free one, all zero, in the order of the requests (R270). -/
def Ctx.withAcc (cx : Ctx) (n : Nat) (k : Ctx → Nat → Did) : Did :=
  match SMap.at? cx.x.accs n with
  | some i => k cx i
  | none =>
    let core := cx.s.core cx.c
    let own : AccRequest := { slot := cx.t, name := n, pc := cx.p.pc }
    let ahead := (core.waitingReqs.takeWhile fun r => r != own).length
    if core.freeAccs.length ≤ ahead then .wait (cx.s.onCore cx.c fun k => k.request own) .issue
    else match choose cx.s.fresh core.freeAccs with
      | none => .wait cx.s .issue
      | some i =>
        let s : State := { cx.s with fresh := cx.s.fresh + 1 }
        let s := s.onCore cx.c fun k => { k with accs := k.accs.put i {}, accReqs := k.accReqs.filter fun r => !(r.slot == cx.t && r.name == n) }
        let s := s.onTeam cx.c cx.t fun z => { z with accs := z.accs.put n i }
        k { cx with s := s, x := { cx.x with accs := cx.x.accs.put n i } } i

/-! Operations (R271, R276, R277, R279). -/

/-- Whether the core's tensor queue takes one more operation (R271). -/
def Ctx.tensorRoom (cx : Ctx) : Bool := decide ((cx.s.core cx.c).tq.length < 64)

/-- An operation accepted into the queue, for the batch that is open (R271, R272). -/
def Ctx.accept (cx : Ctx) (s : State) (k : TensorKind) : Did :=
  let o : TensorOp := { slot := cx.t, part := cx.x.part, pc := cx.iaddr, word := cx.word, batch := cx.x.batch + 1, kind := k }
  .done (s.onCore cx.c fun core => { core with tq := core.tq ++ [o] }) 0

/-- The bytes of a claim's slots. -/
def Claim.room (c : Claim) : Nat := if c.pair then 2 * slotBytes else slotBytes

/-- `tload` (R276). -/
def execTload (x : Operand) (h : BitVec 6) : State → Host.Outcome State Fault Refusal :=
  perform (tensorRules [x] fun _ => isTile x) fun cx =>
    cx.behind 1 fun cx => cx.withHandle h.toNat fun cx =>
      let k := cx.s.handle cx.c h.toNat
      if k.st != .full then .wait cx.s .issue
      else match cx.tile? x with
        | none => .trap cx.s .tensor 0 none cx.act
        | some c =>
          if decide (c.room < k.len.toNat) || !inNearOrBulk k.base.toNat k.len.toNat then .trap cx.s .tensor 0 none cx.act
          else if cx.conflicts false k.base k.len.toNat then .trap cx.s .range 0 none cx.act
          else if !cx.tensorRoom then .wait cx.s .issue
          else match cx.freeLocks with
            | [] => .wait cx.s .issue
            | l :: _ => cx.accept (cx.s.drainHandle cx.c h.toNat l k.base) (.tload (bankNumber x) h.toNat)

/-- `mma` (R277). -/
def execMma (x y : Operand) (zc nb na : Bool) (acc : BitVec 3) : State → Host.Outcome State Fault Refusal :=
  perform (tensorRules [x, y] fun _ => isTile x && isTile y) fun cx =>
    cx.behind 1 fun cx => match cx.tile? x, cx.tile? y with
      | some a, some b =>
        if !legalPair (TileFormat.decode a.record) (TileFormat.decode b.record) then .trap cx.s .tensor 0 none cx.act
        else if !cx.tensorRoom then .wait cx.s .issue
        else cx.withAcc acc.toNat fun cx _ => cx.accept cx.s (.mma acc.toNat (bankNumber x) (bankNumber y) zc nb na)
      | _, _ => .trap cx.s .tensor 0 none cx.act

/-- `acc.zero` (R279). -/
def execAccZero (x : Operand) : State → Host.Outcome State Fault Refusal :=
  perform (tensorRules [x] fun _ => isAcc x) fun cx =>
    cx.behind 1 fun cx =>
      if !cx.tensorRoom then .wait cx.s .issue
      else cx.withAcc (bankNumber x) fun cx _ => cx.accept cx.s (.zero (bankNumber x))

/-- `acc.ld` and `acc.st`: the checks of the range, then its lock (R279). -/
def Ctx.accMemory (cx : Ctx) (acc base : Operand) (dst : Bool) (kind : Nat → W64 → Nat → TensorKind) : Did :=
  cx.behind 1 fun cx => cx.blockOn [base] fun cx =>
    let a := cx.uval base
    if a.extractLsb' 0 6 != 0 then .trap cx.s .align 0 (some a) (laneBit cx.lane)
    else if !inNearOrBulk a.toNat 65536 then .trap cx.s .tensor 0 none cx.act
    else if cx.conflicts dst a 65536 then .trap cx.s .range 0 none cx.act
    else if !cx.tensorRoom then .wait cx.s .issue
    else match cx.freeLocks with
      | [] => .wait cx.s .issue
      | l :: _ => cx.withAcc (bankNumber acc) fun cx _ =>
        cx.accept (cx.s.lock cx.c l { base := a, len := 65536, dst := dst, part := cx.x.part }) (kind (bankNumber acc) a l)

/-- `acc.ld` (R279). -/
def execAccLd (x y : Operand) : State → Host.Outcome State Fault Refusal :=
  perform (tensorRules [x, y] fun cx => isAcc x && cx.isU y) fun cx => cx.accMemory x y false .ld

/-- `acc.st` (R279). -/
def execAccSt (x y : Operand) : State → Host.Outcome State Fault Refusal :=
  perform (tensorRules [x, y] fun cx => isAcc x && cx.isU y) fun cx => cx.accMemory x y true .st

/-! Completion (R271, R272, R276, R277, R279). -/

/-- An operation taken from the queue. -/
def State.endOp (s : State) (c i : Nat) : State :=
  match (s.core c).tq[i]? with
  | none => s
  | some o => (s.counted o.part .tensor).onCore c fun k => { k with tq := dropAt k.tq i }

/-- The poison that some source bytes bring: memory poison of a line, address poison of a page left out (R279). -/
def segsPoison (gs : List Seg) : Option Origin :=
  gs.foldl (fun o g => joinOrigin o (match g.bad with
    | some t => some (.mem t)
    | none => if g.data.isNone then some .addr else none)) none

/-- The bytes of some pieces put into a byte table; those of a page left out keep their contents. -/
def segsInto : Nat → SMap Byte → List Seg → SMap Byte
  | _, m, [] => m
  | a, m, g :: gs => segsInto (a + g.n) (match g.data with
      | some d => storeBytes m a d
      | none => m) gs

/-- The words of an accumulator as bytes, and bytes as its words. -/
def wordsBytes (m : SMap W32) : SMap Byte := m.foldl (fun b e => storeBytes b (4 * e.1) (leBytes 4 e.2.toNat)) []
def bytesWords (b : SMap Byte) : SMap W32 :=
  (List.range accWords).filterMap fun e =>
    let v : W32 := BitVec.ofNat 32 (leNat (bytesAt b (4 * e) 4))
    if v = 0 then none else some (e, v)

/-- A batch marked poisoned (R279). -/
def State.poisonBatch (s : State) (c : Nat) (o : TensorOp) (p : Option Origin) : State :=
  match p with
  | none => s
  | some p => s.onTeam c o.slot fun x =>
    { x with batchPois := match joinOrigin (SMap.at? x.batchPois o.batch.toNat) (some p) with
        | some q => SMap.put x.batchPois o.batch.toNat q
        | none => x.batchPois }

/-- Flags that an operation sets, visible at the `mwait` of its batch (R120, R272). -/
def State.flagBatch (s : State) (c : Nat) (o : TensorOp) (f : FlagSet) : State :=
  if f = 0 then s
  else s.onTeam c o.slot fun x => { x with batchFlags := SMap.put x.batchFlags o.batch.toNat (SMap.atD x.batchFlags o.batch.toNat 0 ||| f) }

/-- A function applied to the physical accumulator that an operation's name is bound to. -/
def State.onAcc (s : State) (c : Nat) (o : TensorOp) (n : Nat) (f : Accumulator → Accumulator) : State :=
  match (s.team? c o.slot).bind fun x => SMap.at? x.accs n with
  | none => s
  | some i => s.onCore c fun k => { k with accs := k.accs.put i (f (k.accs.atD i {})) }

/-- The accumulator that an operation names. -/
def State.accOf (s : State) (c : Nat) (o : TensorOp) (n : Nat) : Accumulator :=
  match (s.team? c o.slot).bind fun x => SMap.at? x.accs n with
  | none => {}
  | some i => (s.core c).accs.atD i {}

/-- The claim that an operation names. -/
def State.claimOf (s : State) (c : Nat) (o : TensorOp) (n : Nat) : Claim :=
  match s.team? c o.slot with
  | none => {}
  | some x => SMap.atD x.tiles n {}

/-- The engine record of an operation; of `acc.ld` and `acc.st` it names the range-lock entry (R88, R279). -/
def TensorOp.record (o : TensorOp) (c : Nat) (k : AccessKind) : FaultRecord :=
  let r : FaultRecord := { pc := o.pc, core := c, tslot := o.slot % 32, part := o.part, kind := k, size := 8 }
  match o.kind with
  | .tload _ h => { r with fbi := h }
  | .ld _ _ l | .st _ _ l => { r with fbi := l, lk := true }
  | _ => r

/-- An operation's view of memory. No system-mode team issues one (R271). -/
def TensorOp.who (o : TensorOp) (c : Nat) : Who := engineWho c o.part false {}

/-- What the engine meets on behalf of an operation. -/
def State.opTrouble (s : State) (c : Nat) (o : TensorOp) (a : Nat) (k : AccessKind) (t : Trouble) : State :=
  let (s, st) := s.engineTrouble (o.who c) (o.record c k) o.stall a t
  s.onCore c fun k => { k with tq := k.tq.map fun p => if p == o then { p with stall := st } else p }

/-- `tload` finishes (R276, R279): a claim that takes poison keeps an older mark of memory poison. -/
def State.finishTload (s : State) (c i : Nat) (o : TensorOp) (n h : Nat) : State :=
  let x := s.handle c h
  match s.rangePieces (o.who c) .engineRead o.stall.badPages x.base.toNat x.len.toNat with
  | .error (a, t) => s.opTrouble c o a .engineRead t
  | .ok ps =>
    let gs := s.readPieces ps
    let p := joinOrigin (segsPoison gs) (if x.err = 0 then none else some .addr)
    let s := s.onTeam c o.slot fun y => { y with
      tiles := match SMap.at? y.tiles n with
        | none => y.tiles
        | some k => SMap.put y.tiles n { k with bytes := segsInto 0 k.bytes gs, pois := if p.isNone then none else joinOrigin k.pois p } }
    (s.freeHandle c h).endOp c i

/-- `mma` finishes (R277, R279). -/
def State.finishMma (s : State) (c i : Nat) (o : TensorOp) (acc ta tb : Nat) (zc nb na : Bool) : State :=
  let a := s.claimOf c o ta
  let b := s.claimOf c o tb
  let m : MmaIn := { a := a, b := b, fa := TileFormat.decode a.record, fb := TileFormat.decode b.record, neg := na != nb }
  let (ws, fl) := m.all zc (s.accOf c o acc).words
  let s := s.onAcc c o acc fun k => { words := ws, pois := joinOrigin k.pois (joinOrigin a.pois b.pois) }
  (s.flagBatch c o fl).endOp c i

/-- `acc.ld` finishes (R279). -/
def State.finishLd (s : State) (c i : Nat) (o : TensorOp) (acc : Nat) (addr : W64) (lock : Nat) : State :=
  match s.rangePieces (o.who c) .engineRead o.stall.badPages addr.toNat 65536 with
  | .error (a, t) => s.opTrouble c o a .engineRead t
  | .ok ps =>
    let gs := s.readPieces ps
    let p := segsPoison gs
    let s := s.onAcc c o acc fun k =>
      { words := bytesWords (segsInto 0 (wordsBytes k.words) gs), pois := if p.isNone then none else joinOrigin k.pois p }
    (s.unlock c lock).endOp c i

/-- `acc.st` finishes: from a poisoned accumulator it writes nothing (R279). -/
def State.finishSt (s : State) (c i : Nat) (o : TensorOp) (acc : Nat) (addr : W64) (lock : Nat) : State :=
  let k := s.accOf c o acc
  if k.pois.isSome then ((s.poisonBatch c o k.pois).unlock c lock).endOp c i
  else match s.rangePieces (o.who c) .engineWrite o.stall.badPages addr.toNat 65536 with
    | .error (a, t) => s.opTrouble c o a .engineWrite t
    | .ok ps =>
      let left := ps.any fun p => match p with
        | .skip _ => true
        | .here _ _ => false
      let s := s.writePieces (o.who c) ps [{ n := 65536, data := some (bytesAt (wordsBytes k.words) 0 65536), bad := none }]
      ((s.poisonBatch c o (if left then some .addr else none)).unlock c lock).endOp c i

/-- An operation runs to its end, or to a page that stalls it. -/
def State.runOp (s : State) (c i : Nat) (o : TensorOp) : State :=
  match o.kind with
  | .tload n h => s.finishTload c i o n h
  | .mma acc ta tb zc nb na => s.finishMma c i o acc ta tb zc nb na
  | .zero acc => (s.onAcc c o acc fun _ => {}).endOp c i
  | .ld acc a l => s.finishLd c i o acc a l
  | .st acc a l => s.finishSt c i o acc a l

/-- `tensor_operation_completion` (R271): the team's operations finish in its program order; those of different teams interleave as the
agenda has it. A team that has ended is forgotten with its last operation (R283). -/
def execTensorOperationCompletion (core index : Nat) (s : State) : Host.Outcome State Fault Refusal :=
  .next (
    let q := (s.core core).tq
    match q[index]? with
    | none => s
    | some o =>
      if o.stall.waiting || (q.take index).any fun p => p.slot == o.slot then s
      else (s.runOp core index o).sweep core o.slot)

/-! Batches (R272, R278). -/

/-- Whether a batch number does not come after another, modulo 2^32. -/
def batchUpTo (b n : BitVec 32) : Bool := (n - b).toNat < 2 ^ 31

/-- Whether a batch of a team has completed: no operation of it or of an earlier batch is left (R272). -/
def Core.batchDone (k : Core) (t : Nat) (n : BitVec 32) : Bool := !(k.tq.any fun o => o.slot == t && batchUpTo o.batch n)

/-- `mfence` (R278). -/
def execMfence (x : Operand) : State → Host.Outcome State Fault Refusal :=
  perform (tensorRules [x] fun cx => cx.dstU x) fun cx =>
    let n := cx.x.batch + 1
    if cx.destWaits x then .wait cx.s .issue
    else .done (cx.write (cx.s.onTeam cx.c cx.t fun y => { y with batch := n }) x (fun _ => n.setWidth 64) noOrigin) 0

/-- The batches up to a number whose poison, or whose flags, an `mwait` takes. -/
def upTo (n : BitVec 32) {α : Type} (m : SMap α) : SMap α := m.filter fun e => batchUpTo (BitVec.ofNat 32 e.1) n
def beyond (n : BitVec 32) {α : Type} (m : SMap α) : SMap α := m.filter fun e => !batchUpTo (BitVec.ofNat 32 e.1) n

/-- An `mwait` returns: the flags of its batches become visible, and an enabled one raises ARITH behind it (R120, R272, R367). -/
def Ctx.batchReturn (cx : Ctx) (n : BitVec 32) : Did :=
  let f : FlagSet := (upTo n cx.x.batchFlags).foldl (fun f e => f ||| e.2) 0
  let s := cx.s.onTeam cx.c cx.t fun y => { y with batchFlags := beyond n y.batchFlags }
  let s := s.setFlags cx.c cx.part f
  let raised := f &&& s.enabled cx.c cx.part
  if raised = 0 then .done s 0
  else
    .done ((s.nextOrder cx.c cx.t).pendOn cx.c cx.t
      { cause := .arith, code := raised.toNat, eiaddr := cx.iaddr, lanes := cx.act, order := cx.x.orderCtr }) 0

/-- `mwait` (R278, R279): memory poison is consumed first; then address poison traps. -/
def execMwait (x : Operand) : State → Host.Outcome State Fault Refusal :=
  perform (tensorRules [x] fun cx => cx.isU x) fun cx =>
    cx.blockOn [x] fun cx =>
      let n : BitVec 32 := (cx.uval x).setWidth 32
      if !batchUpTo n cx.x.batch then .trap cx.s .tensor 0 none cx.act
      else if !(cx.s.core cx.c).batchDone cx.t n then .wait cx.s .issue
      else
        let os := (upTo n cx.x.batchPois).map fun e => (0, e.2)
        let s := cx.s.onTeam cx.c cx.t fun y => { y with batchPois := beyond n y.batchPois }
        let tags := tagsOf os
        let s := s.consumeAll cx.sys tags
        if cx.endsTeam tags then .gone s
        else if os.any fun o => o.2 == .addr then .trap s .poison 0 none cx.act
        else Ctx.batchReturn { cx with s := s } n

/-! `acc.mv` (R280) and `tinfo` (R281). -/

/-- The index register of `acc.mv`. -/
def indexReg (vi : BitVec 6) : Operand := .v ⟨vi.toNat, Nat.lt_of_lt_of_le vi.isLt (by decide)⟩

/-- The accumulator index on a lane. -/
def Ctx.accIndex (cx : Ctx) (vi : BitVec 6) (l : Nat) : Nat := ((cx.read (indexReg vi)).at_ l).toNat % accWords

/-- The read form of `acc.mv`. -/
def Ctx.accRead (cx : Ctx) (x y : Operand) (vi : BitVec 6) : Did :=
  if cx.destWaits x then .wait cx.s .issue
  else cx.blockOn [indexReg vi] fun cx => cx.withAcc (bankNumber y) fun cx i =>
    if cx.pendingOp fun k => k.writesAcc (bankNumber y) then .wait cx.s .issue
    else
      let k := (cx.s.core cx.c).accs.atD i {}
      .done (cx.write cx.s x (fun l => (SMap.atD k.words (cx.accIndex vi l) 0).setWidth 64) fun _ => k.pois) 0

/-- The write form of `acc.mv`. -/
def Ctx.accWrite (cx : Ctx) (x y : Operand) (vi : BitVec 6) : Did :=
  cx.blockOn [y, indexReg vi] fun cx => cx.withAcc (bankNumber x) fun cx i =>
    if cx.pendingOp fun k => k.namesAcc (bankNumber x) then .wait cx.s .issue
    else
      let put (m : SMap W32) (l : Nat) : SMap W32 := SMap.store 0 m (cx.accIndex vi l) (((cx.read y).at_ l).setWidth 32)
      .done (cx.s.onCore cx.c fun k =>
        let a := k.accs.atD i {}
        { k with accs := k.accs.put i { a with words := (lanesOf cx.act).foldl put a.words } }) 0

/-- `acc.mv` (R280): its form is chosen by the class in X. -/
def execAccMv (x y : Operand) (vi : BitVec 6) : State → Host.Outcome State Fault Refusal :=
  perform (tensorRules [x, y, indexReg vi] fun cx =>
      cx.isV (indexReg vi) && (if isAcc x then cx.isV y else cx.dstV x && isAcc y)) fun cx =>
    if isAcc x then cx.accWrite x y vi else cx.accRead x y vi

/-- What `tinfo` reads of a claim (R281). -/
def Claim.info (c : Claim) : W64 :=
  let f := TileFormat.decode c.record
  let blk := if f.mode = 1 then 1 else if f.mode = 2 then 2 else 0
  (c.record &&& ~~~0xFFFF#64) + BitVec.ofNat 64 (c.first * 2 ^ 11 + (if c.pair then 2 ^ 10 else 0) + (if c.pois.isSome then 2 ^ 9 else 0) +
    2 ^ 8 + blk * 2 ^ 6)

/-- What `tinfo` reads of an accumulator name (R281). -/
def Ctx.accInfo (cx : Ctx) (n : Nat) : W64 :=
  match SMap.at? cx.x.accs n with
  | none => 0
  | some i => BitVec.ofNat 64
    (i * 2 ^ 12 + (if ((cx.s.core cx.c).accs.atD i {}).pois.isSome then 2 ^ 9 else 0) + 2 ^ 8 +
      (if cx.pendingOp fun k => k.namesAcc n then 2 ^ 7 else 0))

/-- The last completed batch of the team (R272, R281). -/
def Ctx.lastDone (cx : Ctx) : BitVec 32 :=
  match (cx.s.core cx.c).tq.find? fun o => o.slot == cx.t with
  | none => cx.x.batch
  | some o => o.batch - 1

/-- `tinfo` (R281). -/
def execTinfo (x y : Operand) : State → Host.Outcome State Fault Refusal :=
  perform (tensorRules [x, y] fun cx => cx.dstU x && (isTile y || isAcc y || y == .zero)) fun cx =>
    let v : W64 := match y with
      | .t _ => match cx.tile? y with
        | none => 0
        | some c => c.info
      | .a n => cx.accInfo n.val
      | _ => (cx.x.batch ++ cx.lastDone : BitVec 64)
    if cx.destWaits x then .wait cx.s .issue else .done (cx.write cx.s x (fun _ => v) noOrigin) 0

end Sys2Proof.Machine
end

