-- ==== Sys2Proof/Machine/System.lean ====
section
/-!
DEFINITION. Major 0x3D: `trap`, `sret`, control registers (R363-R371), `tlb.inv` (R372), the fault queue and its answers (R373, R374),
parking (R375) and `halt` (R377), with the event of a trap entry that waited (R355).
-/

namespace Sys2Proof.Machine

/-! Traps and returns (R355, R369, R370). -/

/-- `trap` (R369). -/
def execTrapInstr (n : BitVec 12) : State → Host.Outcome State Fault Refusal :=
  perform { ops := [.lane] } fun cx => .trap cx.s .soft n.toNat none cx.act

/-- `sret` (R370, R382). -/
def execSret : State → Host.Outcome State Fault Refusal :=
  perform { priv := true } fun cx => .moved (cx.s.leaveTrap cx.c cx.t)

/-- `trap_entry` (R354, R355): an entry that waited for memory is completed, or a pending condition of a team that may issue is
taken. -/
def execTrapEntry (core slot : Nat) (s : State) : Host.Outcome State Fault Refusal :=
  .next (match s.team? core slot with
    | none => s
    | some x =>
      if x.inSys then s
      else if x.trap.isSome then (if s.settled core slot then s.enterTrap core slot else s)
      else if s.issues core && x.open_ && x.saver.isNone && decide (slot < 32) then s.takePending core slot
      else s)

/-! Control registers (R363-R367). -/

/-- The control registers of R364. -/
inductive Ctl where
  | epc | estat | eaddr | eiaddr | actp
  | flags (p : Nat) | arithen (p : Nat) | quota (p : Nat)
  | root (p : Nat) | peerroot (p : Nat) | entryt (p : Nat) | fqbase (p : Nat) | fqhead (p : Nat) | fqtail (p : Nat)
  | caller (p : Nat) | tokbud (p : Nat) | ept (p : Nat) | arrt (p : Nat)
  | sysroot | sysent | tvec | ftag | devid
  deriving DecidableEq, Repr

/-- The register of a number; none for a reserved number (R363). -/
def ctlOf (n : Nat) : Option Ctl :=
  let p := n / 16 % 8
  if n < 0x100 then
    match n with
    | 0 => some .epc | 1 => some .estat | 2 => some .eaddr | 3 => some .eiaddr | 4 => some .actp
    | _ => none
  else if n < 0x180 then
    match n % 16 with
    | 0 => some (.flags p) | 1 => some (.arithen p) | 2 => some (.quota p)
    | _ => none
  else if n < 0x200 then
    match n % 16 with
    | 0 => some (.root p) | 1 => some (.peerroot p) | 2 => some (.entryt p) | 3 => some (.fqbase p) | 4 => some (.fqhead p)
    | 5 => some (.fqtail p) | 6 => some (.caller p) | 7 => some (.tokbud p) | 8 => some (.ept p) | 9 => some (.arrt p)
    | _ => none
  else
    match n - 0x200 with
    | 0 => some .sysroot | 1 => some .sysent | 2 => some .tvec | 3 => some .ftag | 4 => some .devid
    | _ => none

/-- A register of the team, which reads zero outside a trapped team (R364). -/
def Team.ctl (x : Team) (f : SysCtx → W64) : W64 :=
  match x.sys with
  | some y => if y.formed then 0 else f y
  | none => 0

/-- A control register read (R364). -/
def State.ctlRead (s : State) (c : Nat) (x : Team) : Ctl → W64
  | .epc => x.ctl SysCtx.epc
  | .estat => x.ctl SysCtx.estat
  | .eaddr => x.ctl SysCtx.eaddr
  | .eiaddr => x.ctl SysCtx.eiaddr
  | .actp => x.ctl fun y => BitVec.ofNat 64 y.actp
  | .flags p => (s.flags c p).setWidth 64
  | .arithen p => (s.enabled c p).setWidth 64
  | .quota p => (s.core c).quota.atD p 0
  | .root p => (s.part p).root
  | .peerroot p => (s.part p).peerroot
  | .entryt p => (s.part p).entryt
  | .fqbase p => (s.part p).fqbase
  | .fqhead p => (s.part p).fqhead.setWidth 64
  | .fqtail p => (s.part p).fqtail.setWidth 64
  | .caller p => (s.part p).caller
  | .tokbud p => (s.part p).tokbud
  | .ept p => (s.part p).ept
  | .arrt p => (s.part p).arrt
  | .sysroot => s.sysroot
  | .sysent => s.sysent
  | .tvec => s.tvec
  | .ftag => s.ftag
  | .devid => s.devid.setWidth 64

/-- The bits of a register that are not reserved (R5, R299, R364, R366). -/
def Ctl.mask : Ctl → W64
  | .epc => ~~~2#64
  | .actp => 7
  | .flags _ | .arithen _ => 0xFF
  | .quota _ => ~~~0x7FF#64
  | .fqhead _ => 0x1FFF
  | .caller _ => 0x0000FFFF0000007F
  | .tokbud _ => 0xFFFFFFFF
  | .devid => 0x1FF
  | _ => ~~~0#64

/-- Whether software may not write a register, so that a write is ignored (R5). -/
def Ctl.readOnly : Ctl → Bool
  | .estat | .eaddr | .eiaddr | .fqtail _ => true
  | _ => false

/-- Whether a write is refused, and changes nothing (R6, R299, R364). -/
def State.ctlRefused (s : State) (r : Ctl) (v : W64) : Bool :=
  v &&& ~~~r.mask != 0 || (match r with
    | .caller _ => decide (64 < bits v.toNat 0 7)
    | .fqhead p => decide (4096 < ((s.part p).fqtail - v.setWidth 13).toNat)
    | _ => false)

/-- The held records of every core retried (R88). -/
def State.retryAll (s : State) : State := (s.cores.map fun e => e.1).foldl State.retryRecords s

/-- A control register written (R364, R366). -/
def State.ctlSet (s : State) (c t : Nat) (v : W64) : Ctl → State
  | .epc => s.onTeam c t fun x => { x with sys := x.sys.map fun y => { y with epc := v } }
  | .actp => s.onTeam c t fun x => { x with sys := x.sys.map fun y => { y with actp := v.toNat } }
  | .flags p => s.onCore c fun k => { k with flags := k.flags.put p (k.flags.atD p 0 &&& ~~~v.setWidth 8) }
  | .arithen p => s.onCore c fun k => { k with arithen := k.arithen.put p (v.setWidth 8) }
  | .quota p => s.onCore c fun k => { k with quota := k.quota.put p v }
  | .root p => s.onPart p fun q => { q with root := v }
  | .peerroot p => s.onPart p fun q => { q with peerroot := v }
  | .entryt p => s.onPart p fun q => { q with entryt := v }
  | .fqbase p => (s.onPart p fun q => { q with fqbase := v }).retryAll
  | .fqhead p => (s.onPart p fun q => { q with fqhead := v.setWidth 13 }).retryAll
  | .caller p => s.onPart p fun q => { q with caller := v }
  | .tokbud p => s.onPart p fun q => { q with tokbud := v }
  | .ept p => s.onPart p fun q => { q with ept := v }
  | .arrt p => s.onPart p fun q => { q with arrt := v }
  | .sysroot => { s with sysroot := v }
  | .sysent => { s with sysent := v }
  | .tvec => { s with tvec := v }
  | .ftag => { s with ftag := v }
  | .devid => { s with devid := v.setWidth 9 }
  | .estat | .eaddr | .eiaddr | .fqtail _ => s

/-- A control register written as software writes it: read-only registers ignore it, and a refused write changes nothing (R5,
R364). -/
def State.ctlWrite (s : State) (c t : Nat) (r : Ctl) (v : W64) : State :=
  if r.readOnly || s.ctlRefused r v then s else s.ctlSet c t v r

/-- `ctl.r` (R371). -/
def execCtlR (d : Operand) (n : BitVec 12) : State → Host.Outcome State Fault Refusal :=
  perform { ops := [d], priv := true, wf := (ctlOf n.toNat).isSome, ok := fun cx => cx.dstU d } fun cx =>
    .done (cx.write cx.s d (fun _ => ((ctlOf n.toNat).map (cx.s.ctlRead cx.c cx.x)).getD 0) noOrigin) 0

/-- A control register written by an instruction (R371). -/
def ctlWriteAs (d : Operand) (r : Option Ctl) : State → Host.Outcome State Fault Refusal :=
  perform { ops := [d], priv := true, wf := r.isSome, ok := fun cx => cx.isU d } fun cx =>
    cx.blockOn [d] fun cx => match r with
      | none => .done cx.s 0
      | some r => .done (cx.s.ctlWrite cx.c cx.t r ((cx.read d).at_ 0)) 0

/-- `ctl.w` (R371). -/
def execCtlW (d : Operand) (n : BitVec 12) : State → Host.Outcome State Fault Refusal := ctlWriteAs d (ctlOf n.toNat)

/-- `ctl.w` of DEVID (R25, R364). -/
def execDevid (d : Operand) : State → Host.Outcome State Fault Refusal := ctlWriteAs d (some .devid)

/-- `ctl.w` of FQHEAD (R88, R364). -/
def execFqhead (d : Operand) (p : BitVec 3) : State → Host.Outcome State Fault Refusal := ctlWriteAs d (some (.fqhead p.toNat))

/-- `ctl.w` of FQBASE (R88, R364). -/
def execFqbase (d : Operand) (p : BitVec 3) : State → Host.Outcome State Fault Refusal := ctlWriteAs d (some (.fqbase p.toNat))

/-! Translations removed (R372). -/

/-- Whether an earlier store of the team at issue has not been performed, of the frozen program's neither, parked and held ones among them (R372,
R374; DEDUCED, log entry 23). -/
def Ctx.storesLeft (cx : Ctx) : Bool :=
  (cx.s.waitingOf cx.c cx.t).any (fun e => e.op.writes) || (cx.s.core cx.c).osb.any fun e => match cx.s.position e.pos with
    | some (_, q) => q.on cx.c cx.t
    | none => false

/-- Whether `tlb.inv` removes a cached translation (R372). -/
def TlbEntry.removed (e : TlbEntry) (k p a : Nat) : Bool :=
  if k = 0 then e.space == p && decide (e.base ≤ a) && decide (a < e.base + e.size)
  else if k = 1 then e.space == p
  else if k = 2 then e.place == .peer && e.space == p
  else true

/-- Whether a held store's line lies in the frame of a cached translation of its space: the store was translated when it entered the buffer, and is
performed at its release (R221). -/
def TlbEntry.serves (t : TlbEntry) (e : OsEntry) : Bool :=
  t.place != .peer && (t.space == e.view || t.space == 8) && decide (t.frame ≤ 64 * e.line) && decide (64 * e.line < t.frame + t.size)

/-- Whether a held store that a removed entry translated waits for its release (R372). -/
def State.invHeld (s : State) (k p a : Nat) : Bool :=
  (s.tlb.filter fun e => e.removed k p a).any fun t => s.cores.any fun c => c.2.osb.any t.serves

/-- `tlb.inv` (R372): any other access is translated and performed in one step, so only the team's earlier stores and the held stores that a removed
entry translated are awaited. Of kinds 2 and 3 wS is ignored, whatever it holds. -/
def execTlbInv (d : Operand) (k : BitVec 2) (p : BitVec 3) : State → Host.Outcome State Fault Refusal :=
  perform { ops := [d], priv := true, ok := fun cx => cx.isU d } fun cx =>
    cx.blockOn (if k.toNat < 2 then [d] else []) fun cx =>
      let a := ((cx.read d).at_ 0).toNat
      if cx.storesLeft || cx.s.invHeld k.toNat p.toNat a then .wait cx.s .issue
      else
        .done { cx.s with tlb := cx.s.tlb.filter fun e => !e.removed k.toNat p.toNat a } 0

/-! The fault queue (R373). -/

/-- Eight registers from D on written with a record. -/
def Ctx.writeRecord (cx : Ctx) (s : State) (d : Operand) (v : Nat) : State :=
  match d with
  | .w n => (List.range 8).foldl (fun s k => s.writeU cx.c cx.t (n.val + k) (BitVec.ofNat 64 (bits v (64 * k) 64)) none) s
  | _ => s

/-- What keeps the device from a record: in system mode a double trap, or consumption of poison (R359, R380, R410). -/
def Ctx.recordTrouble (cx : Ctx) (a : Nat) : Spot → State
  | .fault c => cx.s.doubleTrap cx.c cx.t .xlate c.code (BitVec.ofNat 64 a)
  | .table tag => cx.s.consume true tag
  | _ => cx.s.doubleTrap cx.c cx.t .poison 0xF (BitVec.ofNat 64 a)

/-- The oldest record of a queue taken (R373). -/
def Ctx.takeRecord (cx : Ctx) (d : Operand) (p : Nat) : Did :=
  let q := cx.s.part p
  let a := q.fqbase.toNat + 64 * (q.fqhead.toNat % 4096)
  match cx.s.rangeParts { core := cx.c, part := p, sys := true } .load (chunksOf a 64) with
  | .error (a, sp) => .gone (cx.recordTrouble a sp)
  | .ok ps => match cx.s.badPart ps with
    | some tag => .gone (cx.s.consume true tag)
    | none =>
      let s := (cx.s.onPart p fun q => { q with fqhead := q.fqhead + 1 }).retryAll
      .done (cx.writeP15 (cx.writeRecord s d (leNat (cx.s.readParts ps))) fun _ => true) 0

def popRules (d : Operand) : Rules :=
  { ops := [d], priv := true, p15 := true, ok := fun _ => d == .w 0 || d == .w 8 }

/-- `fault.pop` (R373). -/
def execFaultPop (d : Operand) (p : BitVec 3) : State → Host.Outcome State Fault Refusal :=
  perform (popRules d) fun cx =>
    if (cx.s.part p.toNat).fqCount = 0 then .done (cx.writeP15 (cx.writeRecord cx.s d 0) fun _ => false) 0
    else cx.takeRecord d p.toNat

/-- `fault.pop.w` (R373). -/
def execFaultPopW (d : Operand) (p : BitVec 3) : State → Host.Outcome State Fault Refusal :=
  perform (popRules d) fun cx =>
    if (cx.s.part p.toNat).fqCount = 0 then .wait cx.s .issue else cx.takeRecord d p.toNat

/-! Answers (R90, R374). -/

/-- A parked access put back with the lanes that no answer has named yet. -/
def State.keepParked (s : State) (c i : Nat) (e : Parked) (rest : Mask) : State :=
  match s.team? c e.slot with
  | none => s
  | some x =>
    if !(x.queue.any fun a => a.order == e.acc.order && a.sys == e.acc.sys) then s
    else
      let s := s.onTeam c e.slot fun x => { x with queue := x.queue.filter fun a => !(a.order == e.acc.order && a.sys == e.acc.sys && a.left == rest) }
      s.onCore c fun k => match k.fbuf.at? i with
        | some f => { k with fbuf := k.fbuf.put i { f with acc := { f.acc with done := f.acc.done &&& ~~~rest } } }
        | none => { k with fbuf := k.fbuf.put i { e with acc := { e.acc with done := e.acc.lanes &&& ~~~rest } } }

/-- Lanes of an entry replayed (R90). Those that no answer has named stand in the queue meanwhile, so that the access does not count
as finished; those that find no room for a held store wait in it. -/
def State.replay (s : State) (c i : Nat) (e : Parked) (m : Mask) : State :=
  match s.team? c e.slot with
  | none => s
  | some x =>
    let a := e.acc
    let rest := a.left &&& ~~~m
    let s := if rest = 0 then s else s.queueAccess c e.slot { a with done := a.lanes &&& ~~~rest }
    let r := s.passAccess (x.who c a.sys) e.slot { a with done := a.done ||| rest } (some i) true
    let s := if rest = 0 then r.s else r.s.keepParked c i e rest
    if r.left = 0 then s else s.queueAccess c e.slot { a with lanes := r.left, done := 0 }

/-- Lanes of an entry answered POISON (R90): they are poison, a store or atomic makes its team trap (R70), and the entry is freed with
its last lane. -/
def State.poisonParked (s : State) (c i : Nat) (e : Parked) (m : Mask) : State :=
  match s.team? c e.slot with
  | none => s
  | some x =>
    let a := e.acc
    let w := x.who c a.sys
    let s := s.deliverPoison c e.slot a m
    let s := s.returnP15 c e.slot a m fun _ => false
    let a' := { a with done := a.done ||| m }
    let s := s.onCore c fun k => { k with fbuf := if a'.left = 0 then k.fbuf.del i else k.fbuf.put i { e with acc := a' } }
    let s := if a.op.writes then s.pendAccess w e.slot a .poison m (some (a.addr (lowLane m))) else s
    if a'.left = 0 then s.finishAccess w e.slot a' true else s

/-- The answer for a parked access: it matches when the entry holds an access of that generation whose lanes are all still parked. -/
def State.answerAccess (s : State) (c i gen : Nat) (m : Mask) (poison : Bool) : State × Bool :=
  let k := s.core c
  match k.fbuf.at? i with
  | none => (s, false)
  | some e =>
    if (k.fgen.atD i 0 + 65535) % 65536 != gen || m = 0 || m &&& ~~~e.acc.left != 0 then (s, false)
    else ((if poison then s.poisonParked c i e m else s.replay c i e m).drainCore c, true)

/-- The answer for a fetch: the held splinter tries again, or traps (R374). A team whose trap is under way, or that is in system mode,
takes the condition later (R354). -/
def State.answerFetch (s : State) (c t p : Nat) (poison : Bool) : State × Bool :=
  match s.team? c t with
  | none => (s, false)
  | some x =>
    let held (q : Splinter) : Bool := match q.st with
      | .fetchHeld _ => true
      | _ => false
    if x.part != p || x.formed then (s, false)
    else match indexOf? held x.splinters with
      | none => (s, false)
      | some n => match x.splinters[n]? with
        | none => (s, false)
        | some q =>
          let a : W64 := match q.st with
            | .fetchHeld a => a
            | _ => 0
          let s := s.onSplinter c t n fun q => { q with st := .able }
          let cd : Condition :=
            { cause := .fetch, eaddr := a, eiaddr := if q.half then q.pc ||| 1 else q.pc, lanes := q.mask
              glen := s.groupLen (x.who c false) (lowLane q.mask) q.pc.toNat, order := x.orderCtr }
          if !poison then (s, true)
          else if x.inSys || x.trap.isSome then (s.pendOn c t cd, true)
          else (s.takeTrap c t n cd, true)

/-- A stall after an answer: tried again, or its page taken as poisoned. -/
def Stall.answered (st : Stall) (poison : Bool) : Stall :=
  { st with waiting := false, badPages := if poison then pageOf st.addr :: st.badPages else st.badPages }

/-- Whether an operation stalls on a handle, or on a range-lock entry. -/
def TensorOp.stallsOn (o : TensorOp) (lk : Bool) (i : Nat) : Bool :=
  o.stall.waiting && (match o.kind with
    | .tload _ h => !lk && h == i
    | .ld _ _ l | .st _ _ l => lk && l == i
    | _ => false)

/-- The first stalled request of a core's receive handle, and its partition. -/
def State.stalledRequest (s : State) (c h : Nat) : Option (Nat × Nat) :=
  let p := (s.handle c h).part
  (((s.part p).requests ++ (s.part p).savedRequests).find? fun r => r.stall.waiting && r.to c h).map fun r => (p, r.id)

/-- The answer for an engine: the command that stalls on a handle, or on a range-lock entry (R374). -/
def State.answerEngine (s : State) (c i : Nat) (lk poison : Bool) : State × Bool :=
  let k := s.core c
  let sec := s.sector (sectorOf c)
  let copy (x : CopyCmd) : Bool := !lk && x.stall.waiting && x.core == c && x.handle == i
  let job (x : SamplerJob) : Bool := !lk && x.stall.waiting && x.core == c && x.h == i
  let h := s.handle c i
  if k.tq.any fun o => o.stallsOn lk i then
    (s.onCore c fun k => { k with tq := k.tq.map fun o => if o.stallsOn lk i then { o with stall := o.stall.answered poison } else o }, true)
  else if lk then (s, false)
  else if sec.copies.any copy then
    (s.onSector (sectorOf c) fun q => { q with
      copies := q.copies.map fun x => if copy x then { x with stall := x.stall.answered poison } else x }, true)
  else if sec.jobs.any job then
    (s.onSector (sectorOf c) fun q => { q with
      jobs := q.jobs.map fun x => if job x then { x with stall := x.stall.answered poison } else x }, true)
  else if h.st == .draining && h.sending.stall.waiting then
    ((s.setHandle c i { h with sending := { h.sending with stall := h.sending.stall.answered poison } }).pumpAll c i, true)
  else match s.stalledRequest c i with
    | none => (s, false)
    | some (p, id) => ((s.onRequest p id fun r => { r with stall := r.stall.answered poison }).retryBeats p id, true)

/-- An answer to the record with words 4 and 5 (R374). -/
def State.answerFault (s : State) (w4 w5 : Nat) (poison : Bool) : State × Bool :=
  let c := bits w5 24 8
  let i := bits w5 16 8
  let kind := bits w5 0 3
  if bits w4 57 1 = 1 then (s, false)
  else if kind ≤ 2 then s.answerAccess c i (bits w4 41 16) (wordMask (bits w5 11 5) (BitVec.ofNat 32 (bits w5 32 32))) poison
  else if kind = 3 then s.answerFetch c (bits w5 6 5) (bits w5 3 3) poison
  else if kind ≤ 5 then s.answerEngine c i (bits w4 40 1 == 1) poison
  else (s, false)

/-- The uniform register before one. -/
def wBefore : Operand → Operand
  | .w n => .w (n - 1)
  | o => o

/-- Whether an operand is one of w1 to w15 (R374). -/
def isRecordWord : Operand → Bool
  | .w n => decide (1 ≤ n.val) && decide (n.val ≤ 15)
  | _ => false

/-- `fault.done` (R374). -/
def execFaultDone (d : Operand) (ans : Bool) : State → Host.Outcome State Fault Refusal :=
  perform { ops := [d], priv := true, p15 := true, ok := fun _ => isRecordWord d } fun cx =>
    cx.blockOn [d, wBefore d] fun cx =>
      if cx.storesLeft then .wait cx.s .issue
      else
        let r := cx.s.answerFault ((cx.read (wBefore d)).at_ 0).toNat ((cx.read d).at_ 0).toNat ans
        .done (cx.writeP15 r.1 fun _ => r.2) 0

/-! Parking (R375). -/

/-- The team that a word names: 32 × core + slot, with no other bit set (R54, R375). -/
def namedTeam (v : W64) : Option (Nat × Nat) := if v >>> 13 = 0 then some (v.toNat / 32, v.toNat % 32) else none

/-- A team parked or woken, and whether it was (R375): until it is woken it has not been able to issue (R140). -/
def State.setParked (s : State) (v : W64) (park : Bool) : State × Bool :=
  match namedTeam v with
  | none => (s, false)
  | some (c, t) => match s.team? c t with
    | none => (s, false)
    | some x => if x.inSys || x.parked == park then (s, false) else (s.setTeam c t { x with parked := park, able := none, due := false }, true)

def parkRules (d : Operand) : Rules := { ops := [d], priv := true, p15 := true, ok := fun cx => cx.isU d }

def Ctx.setParked (cx : Ctx) (d : Operand) (park : Bool) : Did :=
  cx.blockOn [d] fun cx =>
    let r := cx.s.setParked ((cx.read d).at_ 0) park
    .done (cx.writeP15 r.1 fun _ => r.2) 0

/-- `team.park` (R375). -/
def execTeamPark (d : Operand) : State → Host.Outcome State Fault Refusal := perform (parkRules d) fun cx => cx.setParked d true

/-- `team.wake` (R375). -/
def execTeamWake (d : Operand) : State → Host.Outcome State Fault Refusal := perform (parkRules d) fun cx => cx.setParked d false

/-- `halt` (R377). -/
def execHalt : State → Host.Outcome State Fault Refusal :=
  perform { priv := true } fun cx => .done { cx.s with power := .halted } 0

end Sys2Proof.Machine
end

