-- ==== Sys2Proof/Machine/Schedule.lean ====
section
/-!
DEFINITION. Events of the scheduler and of the device's own units: formation (R138), releases (R38), Cut-ins (R145), the resolution of
symbols (R63, R64, R67, R68), held fault records (R88), energy windows (R149, R404, R405), errors of memory and core state (R378,
R380); and dictionary words (R183, R184).
-/

namespace Sys2Proof.Machine

/-! Formation and release. -/

/-- `team_formation` (R138). -/
def execTeamFormation (core : Nat) (s : State) : Host.Outcome State Fault Refusal :=
  .next (if s.runs then s.form core else s)

/-- The oldest outstanding position of a flow, where its release can be performed (R38). -/
def State.nextRelease (s : State) (p label : Nat) : Option Position :=
  let f := s.flow p label
  f.positions.find? (s.releasable f)

/-- `ordered_release` (R38, R39): the accesses that waited for room in the buffer go on (R42). -/
def execOrderedRelease (part label : Nat) (s : State) : Host.Outcome State Fault Refusal :=
  .next (match s.nextRelease part label with
    | none => s
    | some q => s.performRelease q)

/-! Cut-ins (R145). -/

/-- The seed of a core's LFSR. -/
def lfsrSeed (c : Nat) : BitVec 16 := 0xACE1 ^^^ BitVec.ofNat 16 (c * 0x0101)

/-- One step of an LFSR. -/
def lfsrStep (v : BitVec 16) : BitVec 16 := (v >>> 1) ^^^ (if v.getLsbD 0 then 0xB400 else 0)

/-- The LFSR stepped until it names another core: its value then. Of any two values in a row one does, within the bound. -/
def lfsrNext (c : Nat) : Nat → BitVec 16 → BitVec 16
  | 0, v => v
  | f + 1, v => let u := lfsrStep v; if u.toNat % 256 = c then lfsrNext c f u else u

/-- Whether a team can issue as it stands: a condition is pending, or a splinter does not wait. That a wait is over, the turn finds
(`State.mayHappen`). -/
def State.teamReady (s : State) (c t : Nat) (x : Team) : Bool :=
  let go (p : Splinter) : Bool := match p.st with
    | .able | .waiting (.barDone _) | .waiting .tokenDone => true
    | _ => false
  x.open_ && (if x.inSys then ((x.splinterAt 0).map go).getD false else (s.firstPending c t x).isSome || (!x.splinters.any Splinter.stalls && x.splinters.any go))

/-- Whether a core sends a Cut-in: none of its teams can issue, no queued item is admitted, none is under way, and 256 cycles have
passed since the last answer. -/
def State.idleCore (s : State) (c : Nat) : Bool :=
  let k := s.core c
  k.cutIn.isNone && !(k.resident.any fun e => s.teamReady c e.1 e.2) && !(s.formable c) &&
    (match k.cutAt with
     | none => true
     | some t => s.elapsed t 256)

/-- Whether a core would admit all of some items at once: teams formed from them take every one (R138). -/
def State.packsAll (s : State) (c : Nat) (qs : List QItem) : Bool :=
  qs.all (fun q => (s.entryNow q).isSome) &&
    ((qs.foldl (fun (s : State) _ => s.form c) (s.onCore c fun k => { k with items := qs })).core c).items.isEmpty

/-- The items that a victim answers with, in queue order, from its queue read tailwards. -/
def State.takeFor (s : State) (thief : Nat) (took : List QItem) : List QItem → List QItem
  | [] => took
  | q :: rest =>
    let same := match took.head? with
      | none => true
      | some l => l.part == q.part && l.record.entry == q.record.entry && l.record.width == q.record.width
    if same && decide (took.length < 32) && s.packsAll thief (q :: took) then s.takeFor thief (q :: took) rest
    else s.takeFor thief took rest

/-- Items taken out of a queue, each once. -/
def dropItems (queue took : List QItem) : List QItem := took.foldl (fun qs q => qs.erase q) queue

/-- `cut_in` (R145): the victim is chosen, and its queue engine takes the items of its answer. -/
def execCutIn (core : Nat) (s : State) : Host.Outcome State Fault Refusal :=
  .next (
    if !s.runs || !(s.idleCore core) then s
    else
      let v := lfsrNext core 65536 ((s.core core).lfsrX ^^^ lfsrSeed core)
      let victim := v.toNat % 256
      let took := s.takeFor core [] (s.core victim).items.reverse
      (s.onCore victim fun k => { k with items := dropItems k.items took }).onCore core fun k =>
        { k with lfsrX := v ^^^ lfsrSeed core, cutIn := some { victim := victim, items := took } })

/-- `cut_in_answer` (R145): the items join the thief's queue at its tail, the oldest first, and are packed as far as it still admits them: no
rule says where they stand (DESIGN CHOICE, log entry 52). -/
def execCutInAnswer (core : Nat) (s : State) : Host.Outcome State Fault Refusal :=
  .next (match (s.core core).cutIn with
    | none => s
    | some a =>
      let s := s.onCore core fun k => { k with cutIn := none, cutAt := some s.clock, items := k.items ++ a.items }
      if s.runs then a.items.foldl (fun s _ => s.form core) s else s)

/-! Symbols (R63, R64, R67, R68). -/

/-- Flags of a float form's rounding over what it reads of its symbol, on the lanes that are not poisoned (R67, R120). -/
def formFlags (x : Nat → Option (W64 × Option Origin)) (flt half : Bool) (scale : W64) (lanes : Mask) (off : Nat → W64)
    (pois : Nat → Option Origin) : FlagSet :=
  if !flt then 0
  else flagsOf lanes fun l => match x l with
    | some (x, none) =>
      if (pois l).isSome then 0
      else (fpFma .rn (scale.setWidth 32) ((if half then x >>> 32 else x).setWidth 32) ((off l).setWidth 32)).2
    | _ => 0

/-- The value and the poison of a symbolic vector register on a lane, for a resolved symbol. -/
def VReg.over (r : VReg) (y : Symbol) (l : Nat) : W32 × Option Origin :=
  let x := y.at_ r.alone l
  ((formOver r.flt r.half (r.scale.setWidth 64) ((r.at l).setWidth 64) x).setWidth 32, poisonOver (SMap.at? r.pois l) x)

/-- A vector register that refers to a resolved symbol, made known on the lanes of its team. The write-back is that of a full write
where every live lane of the team took part (R57, log entry 57). -/
def VReg.resolve (r : VReg) (n w : Nat) (live : Mask) (y : Symbol) : VReg :=
  if r.st != .symbolic || r.sym != n then r
  else if (lanesOf live).all fun l => (y.at_ r.alone l).isSome then
    ({} : VReg).written w true live (fun l => (r.over y l).1) fun l => (r.over y l).2
  else
    { st := .perLane, lanes := laneTable (laneRange 0 w) fun l => (r.over y l).1
      pois := originTable (laneRange 0 w) fun l => (r.over y l).2 }

/-- The flags that resolving a vector register sets: those of the lanes present in its team (R249). -/
def VReg.resolveFlags (r : VReg) (n : Nat) (live : Mask) (y : Symbol) : FlagSet :=
  if r.st != .symbolic || r.sym != n then 0
  else formFlags (y.at_ r.alone) r.flt r.half (r.scale.setWidth 64) live (fun l => (r.at l).setWidth 64) fun l => SMap.at? r.pois l

/-- A uniform register that refers to a resolved symbol, made known: its element is that of the symbol's lowest lane. -/
def UReg.resolve (r : UReg) (n : Nat) (y : Symbol) : UReg :=
  if r.sym != some n then r
  else { val := formOver r.flt r.half r.scale r.val (some y.whole), pois := poisonOver r.pois (some y.whole) }

/-- The flags that resolving a uniform register sets. -/
def UReg.resolveFlags (r : UReg) (n : Nat) (y : Symbol) : FlagSet :=
  if r.sym != some n then 0
  else formFlags (fun _ => some y.whole) r.flt r.half r.scale 1 (fun _ => r.val) fun _ => r.pois

/-- The flags that resolving an operand of an access sets, on some lanes. -/
def Form.resolveFlags (f : Form) (n : Nat) (y : Symbol) (lanes : Mask) : FlagSet :=
  if f.sym != some n then 0
  else if f.uni then formFlags (fun _ => some y.whole) f.flt f.half f.scale 1 (fun _ => f.at_ 0) fun _ => f.pois.at? 0
  else formFlags (y.at_ f.alone) f.flt f.half f.scale lanes f.at_ f.poisAt

/-- The flags that resolving an access's operands sets: each rounds a float form by itself, its register having perhaps been overwritten. -/
def Access.resolveFlags (a : Access) (n : Nat) (y : Symbol) : FlagSet :=
  a.forms.foldl (fun r f => r ||| f.resolveFlags n y a.lanes) 0

/-- A team in which a resolved symbol's forms are made known. -/
def Team.resolve (x : Team) (n : Nat) (y : Symbol) : Team :=
  { x with
    vregs := (x.vregs.map fun e => (e.1, e.2.resolve n x.width x.live y)).filter fun e => e.2 != {}
    uregs := (x.uregs.map fun e => (e.1, e.2.resolve n y)).filter fun e => e.2 != {}
    sys := x.sys.map fun z => { z with regs := (z.regs.map fun e => (e.1, e.2.resolve n y)).filter fun e => e.2 != {} }
    queue := x.queue.map fun a => a.resolve n y }

/-- The flags that resolving a symbol sets for a team. -/
def Team.resolveFlags (x : Team) (n : Nat) (y : Symbol) : FlagSet :=
  let regs := x.vregs.foldl (fun f e => f ||| e.2.resolveFlags n x.live y) 0
  let uni := x.uregs.foldl (fun f e => f ||| e.2.resolveFlags n y) regs
  let bank := match x.sys with
    | none => uni
    | some z => z.regs.foldl (fun f e => f ||| e.2.resolveFlags n y) uni
  x.queue.foldl (fun f a => f ||| a.resolveFlags n y) bank

/-- A symbol whose values have all arrived resolved: its forms are replaced, its entry is freed, and the accesses that waited for it
are performed in their order (R63, R68, R69). -/
def State.resolveSym (s : State) (c n : Nat) : State :=
  match (s.core c).syms.at? n with
  | none => s
  | some y =>
    if y.lanes &&& ~~~y.arrived != 0 then s
    else
      let s := match s.team? c y.slot with
        | none => s
        | some x =>
          (s.setTeam c y.slot (x.resolve n y)).setFlags c (if y.sys then x.actPart else x.part) (x.resolveFlags n y)
      let s := s.onCore c fun k => { k with
        syms := k.syms.del n
        fbuf := k.fbuf.map fun e => (e.1, { e.2 with acc := e.2.acc.resolve n y }) }
      (s.drain c y.slot).sweep c y.slot

/-- `symbol_resolution` (R68). -/
def execSymbolResolution (core sym : Nat) (s : State) : Host.Outcome State Fault Refusal := .next (s.resolveSym core sym)

/-- `fault_record_retry` (R88). -/
def execFaultRecordRetry (core : Nat) (s : State) : Host.Outcome State Fault Refusal := .next (s.retryRecords core)

/-! Energy windows (R149, R404, R405). -/

/-- Where the partition table stands. -/
def tableBase : Nat := 0x3FF0000

/-- A partition-table entry (R404). -/
structure PartEntry where
  ebudget : Nat
  heapq : Nat
  cntbase : Nat
  cntlen : Nat
  cpmax : Nat
  bulkg : Nat
  rsvZero : Bool
  en : Bool
  deriving DecidableEq, Repr

/-- An entry from its 64 bytes. -/
def PartEntry.decode (v : Nat) : PartEntry :=
  { ebudget := bits v 480 32, heapq := bits v 464 16, cntbase := bits v 448 16, cntlen := bits v 431 17, cpmax := bits v 424 7
    bulkg := bits v 413 11, rsvZero := bits v 384 29 == 0 && bits v 1 255 == 0, en := bits v 0 1 == 1 }

/-- Whether an entry is refused by itself: a value is out of range, or a reserved bit is set. -/
def PartEntry.bad (e : PartEntry) : Bool :=
  !e.rsvZero || decide (16384 < e.heapq) || decide (65536 < e.cntlen) || decide (64 < e.cpmax) || decide (1536 < e.bulkg) ||
    decide (65536 < e.cntbase + e.cntlen)

/-- Whether the counter ranges of two entries overlap. -/
def PartEntry.meets (a b : PartEntry) : Bool := overlaps a.cntbase a.cntlen b.cntbase b.cntlen

/-- The entry of a partition; a poisoned one is refused. -/
def State.partEntry (s : State) (p : Nat) : PartEntry × Bool :=
  (PartEntry.decode (s.word (tableBase + 64 * p) 64), s.lineBad (tableBase + 64 * p) 64)

/-- Whether a partition's entry is refused whatever the others hold: for its own values, or for poison (R404). -/
def State.entryUnsound (s : State) (p : Nat) : Bool := (s.partEntry p).2 || (s.partEntry p).1.bad

/-- Whether a partition's entry is refused, its range compared with those of the other enabled entries; one that is refused for itself counts as
EN = 0 (R404). -/
def State.entryRefused (s : State) (p : Nat) : Bool :=
  s.entryUnsound p || (List.range 8).any fun q =>
    q != p && (s.partEntry q).1.en && !s.entryUnsound q && (s.partEntry p).1.meets (s.partEntry q).1

/-- The energy that a partition's activity counters give for the window, in µJ: weights set at manufacture (R406, log entry 7). Nothing counts there
for system-mode teams, idle or static draw. -/
def Partition.energyUsed (q : Partition) : Nat :=
  (q.issues * Config.energyWeight 0 + q.copyWork * Config.energyWeight 1 + q.tensorWork * Config.energyWeight 2 +
    q.samplerWork * Config.energyWeight 3 + q.pullWork * Config.energyWeight 4) / 1000

/-- A partition in a new window: its entry's values, the budget less what the last window overspent, and its counters at zero (R149, R405, R406). -/
def Partition.open_ (q : Partition) (e : PartEntry) (measured : Nat) : Partition :=
  let over_ : Int := if q.ebudget = 0 then 0 else max 0 ((measured : Int) - q.ebudget)
  { q with
    en := e.en, ebudget := e.ebudget, heapq := e.heapq, cntbase := e.cntbase, cntlen := e.cntlen, cpmax := e.cpmax
    issues := 0, copyWork := 0, tensorWork := 0, samplerWork := 0, pullWork := 0
    energyLeft := (e.ebudget * 1000 : Nat) - over_ * 1000 }

/-- One partition's window opened: a refused entry counts as EN = 0 and raises a report; ENMEAS and ENTOT are written (R404-R406). -/
def State.openWindow (s : State) (p : Nat) (refused : Bool) (e : PartEntry) : State :=
  let measured := (s.part p).energyUsed
  let total := (s.part p).energyTotal + measured
  let s := if refused then
      (s.onPart p fun q => { q.open_ { e with en := false, ebudget := q.ebudget, heapq := q.heapq, cntbase := q.cntbase, cntlen := q.cntlen, cpmax := q.cpmax } measured with energyTotal := total }).raise 0x000F 0 (some p) 0 0
    else s.onPart p fun q => { q.open_ e measured with energyTotal := total }
  s.write (tableBase + 64 * p + 32) (leBytes 8 total ++ leBytes 8 measured)

/-- Whether the device is up: it is neither off nor under its ROM. -/
def State.isUp (s : State) : Bool := s.power != .off && s.power != .rom

/-- Whether a window starts now that has not been opened yet: 1-ms windows start where `$clock` is a multiple of 1,900,000 (R405). -/
def State.windowStarts (s : State) : Bool :=
  s.isUp && s.clock.toNat % cyclesPerMs == 0 && s.window != some (s.clock.toNat / cyclesPerMs)

/-- The windows of all partitions opened: every entry is read at the same instant (R405). -/
def State.openWindows (s : State) : State :=
  ((List.range 8).map fun p => (p, s.entryRefused p, (s.partEntry p).1)).foldl
    (fun s e => s.openWindow e.1 e.2.1 e.2.2) { s with window := some (s.clock.toNat / cyclesPerMs) }

/-- `energy_window` (R405): the windows open that the passage of cycles has not opened yet. `_rail` is what the rail measured for each partition; R406
bounds the count by it, and nothing takes a value from it (log entry 7). -/
def execEnergyWindow (_rail : List Nat) (s : State) : Host.Outcome State Fault Refusal :=
  .next (if s.windowStarts then s.openWindows else s)

/-! Errors (R378, R380). -/

/-- `uncorrectable_error` (R378, R380): a line's bytes are lost, and it is poisoned (log entry 18); in core state of a team, its
partition is terminated, or the device restarts, unless it is halted (R377). -/
def execUncorrectableError (site : ErrorSite) (s : State) : Host.Outcome State Fault Refusal :=
  .next (
    if !s.isUp then s
    else match site with
      | .line pa =>
        if !paExists pa then s
        else
          let l := pa / 64
          let s' := { s with
            mem := storeBytes s.mem (64 * l) ((List.range 64).map fun k => Config.lostByte (s.fresh + k)), fresh := s.fresh + 64 }
          (State.poisonLine s' l).raise 0x0009 0 none (BitVec.ofNat 64 (64 * l)) 0
      | .team c t => match s.team? c t with
        | none => s
        | some x => if s.power == .halted then s else if x.inSys then s.warmRestart else s.terminate x.part)

/-- `soft_error` (R378): counted and reported. -/
def execSoftError (core unit : Nat) (s : State) : Host.Outcome State Fault Refusal :=
  .next (if s.isUp then State.raise { s with softErrors := s.softErrors + 1 } 0x0008 core none 0 (BitVec.ofNat 32 unit) else s)

/-! Dictionary words (R183, R184). -/

/-- Instructions that no HI entry may be where a LO entry follows (R183). -/
def Instr.noHi : Instr → Bool
  | .br _ _ | .call _ _ | .brx _ | .ret _ | .callx _ _ | .joinArr _ _ | .exitLanes | .refill | .yield | .trapInstr _ | .sret | .halt => true
  | _ => false

/-- Whether a dictionary entry is one that a dictionary word may name (R183). An entry that system mode alone makes ILLEGAL (R357) is not counted as
illegal itself: the other entry runs, and this one traps when it issues (DEDUCED, log entry 57). -/
def entryWordOk (w : BitVec 32) (hiOfTwo : Bool) : Bool :=
  w.extractLsb' 26 6 != 0x3E && w.extractLsb' 26 6 != 0x3F && (match decodeWord w with
    | none => false
    | some i => Instr.wf i && !(hiOfTwo && Instr.noHi i))

/-- An entry fetched for a dictionary word (R184). -/
def Ctx.dictEntry (cx : Ctx) (i : BitVec 10) : Nat × Fetched :=
  let a := (cx.x.entry.dict.toNat + 4 * i.toNat) % 2 ^ 64
  (a, cx.s.fetchWord (cx.x.who cx.c cx.sys) (lowLane cx.p.mask) a)

/-- The entry that issues next is armed. -/
def Ctx.arm (cx : Ctx) (s : State) (w : BitVec 32) (pair : Bool) : Did :=
  .moved (s.onTeam cx.c cx.t fun x =>
    match x.sys with
    | some y => { x with sys := some { y with armed := some (w, pair) } }
    | none => { x with splinters := modAt (fun p => { p with armed := some (w, pair) }) x.splinters cx.n })

/-- The entries of a dictionary word, each fetched and judged, with whether it is one of two that another follows; then the entry that issues next
is armed: the first, or, with the half bit set, the last (R183, R184). -/
def Ctx.armEntries (cx : Ctx) (pair : Bool) (next : Option (BitVec 32)) : List (BitVec 10 × Bool) → Did
  | [] => match next with
    | none => .trap cx.s .illegal 0 none cx.act
    | some w => cx.arm cx.s w pair
  | (i, hi) :: rest => match cx.dictEntry i with
    | (_, .word w) =>
      if entryWordOk w hi then cx.armEntries pair (if cx.p.half then some w else next.or (some w)) rest
      else .trap cx.s .illegal 0 none cx.act
    | (a, f) => .moved (cx.s.fetchFails cx.c cx.t cx.n cx.x cx.p a f)

/-- A dictionary word (R183, R184): its HI entry issues next, or, with the half bit set, its LO entry; both are checked each time. DESIGN CHOICE: the half bit at a word that has
no LO entry, which only a handler or a loaded area can set, makes the word illegal (log entry 62). -/
def execDictionaryWord (hi lo : BitVec 10) : State → Host.Outcome State Fault Refusal :=
  perform { wf := hi != 1023 } fun cx =>
    let pair := lo != 1023
    if cx.x.entry.dict = 0 || (cx.p.half && !pair) then .trap cx.s .illegal 0 none cx.act
    else cx.armEntries pair none ((hi, pair) :: (if pair then [(lo, false)] else []))

end Sys2Proof.Machine
end

