-- ==== Sys2Proof/Machine/Boot.lean ====
section
/-!
DEFINITION. Reset and power states (R399, R400), boot images and their verification (R401, R402), attestation (R403), temperature
(R408) and the management plane (R409).
-/

namespace Sys2Proof.Machine

/-! Images (R401). -/

/-- An image header. -/
structure ImageHeader where
  load : Nat
  ent : Nat
  len : Nat
  svn : Nat
  rsvZero : Bool
  kind : Nat
  magic : Nat
  deriving DecidableEq, Repr

/-- A header from its 64 bytes. -/
def ImageHeader.decode (v : Nat) : ImageHeader :=
  { load := bits v 448 64, ent := bits v 416 32, len := bits v 384 32, svn := bits v 352 32, rsvZero := bits v 64 288 == 0
    kind := bits v 32 32, magic := bits v 0 32 }

/-- Where the key, the signature and the body stand in an image. -/
def keyAt : Nat := 64
def keyLen : Nat := 2592
def sigAt : Nat := 2656
def sigLen : Nat := 4627
def bodyAt : Nat := 7296

/-- The start of the range that R404 reserves, and its end. -/
def reservedAt : Nat := 0x3FF0000
def reservedEnd : Nat := 0x4000000

/-- Whether a body lies in near memory outside the reserved range. -/
def bodyPlaced (load len : Nat) : Bool :=
  decide (load + len ≤ 0x400000000) && (decide (load + len ≤ reservedAt) || decide (reservedEnd ≤ load) || len == 0)

/-- Whether an image verifies, read through a function from offset and length to bytes (R401). -/
def imageOk (rd : Nat → Nat → List Byte) (kind : Nat) (trusted : BitVec 512) (minimum limit : Nat) : Bool :=
  let raw := rd 0 64
  let h := ImageHeader.decode (leNat raw)
  h.magic == 0x31425646 && h.kind == kind && h.rsvZero && decide (h.len ≤ limit) && bodyPlaced h.load h.len && decide (minimum ≤ h.svn) &&
    Config.sha3 (rd keyAt keyLen) == trusted &&
    Config.mldsaVerify (rd keyAt keyLen) (Config.sha3 (raw ++ rd bodyAt h.len)) (rd sigAt sigLen)

/-- Bytes of the boot flash. -/
def flashBytes (base off n : Nat) : List Byte := (List.range n).map fun k => Config.flashByte (base + off + k)

/-- An entry appended to the attestation log (R403). -/
def State.logImage (s : State) (body : List Byte) (svn kind : Nat) : State :=
  { s with attLog := s.attLog ++ [{ digest := Config.sha3 body, svn := svn, kind := kind, clock := s.clock }] }

/-! Reset and power (R399, R400). -/

/-- The device with every part at its reset value, without power or held in reset: RESET_N has not risen. -/
def State.held (s : State) : State := { s.powerOnReset with power := .off }

/-- `power_on` (R399, R400): RESET_N rises with power applied; `$clock` starts from 0, and memory is zero. -/
def execPowerOn (s : State) : Host.Outcome State Fault Refusal := .next (if s.power = .off then s.powerOnReset else s)

/-- `reset` (R400): RESET_N falls. -/
def execResetPin (s : State) : Host.Outcome State Fault Refusal := .next s.held

/-- `power_removed` (R400): everything but fuses and flash is lost. -/
def execPowerRemoved (s : State) : Host.Outcome State Fault Refusal := .next s.held

/-- The team that stage one runs as, on core 0 from its first instruction (R400, R401). Its addresses are physical (`untranslated`); its network and
its end come by the events of R402 (log entry 10). -/
def stageOneTeam (h : ImageHeader) : Team := { sys := some { formed := true, pc := BitVec.ofNat 64 (h.load + h.ent) } }

/-- What the sensors show now: the rail, the temperatures, the sectors whose sensor has warned, and the links that are up (R408, R409). -/
def State.sense (s : State) : SensorSample :=
  { readings := (List.range 18).map (Config.reading (s.clock.toNat / cyclesPerMs)), hot := (List.range 16).map fun n => (s.sector n).hot
    linksUp := (List.range 48).map fun n => (s.links.atD n {}).up }

/-- Stage one loaded and started from an image at a flash offset; it brings up Ultra Ethernet port 0 and the management unit (R12, R400, R409). -/
def State.startStageOne (s : State) (base : Nat) : State :=
  let h := ImageHeader.decode (leNat (flashBytes base 0 64))
  let body := flashBytes base bodyAt h.len
  State.logImage { ((s.write h.load body).raisePort 0).setTeam 0 0 (stageOneTeam h) with
    power := .stage1, stageBody := body, sampled := s.sense
    vlan := (Config.stageOneVlan body).getD 4000, mgmtKey := Config.stageOneKey body } body h.svn 1

/-- Whether the image at a flash offset verifies for stage one. -/
def flashImageOk (base : Nat) : Bool :=
  imageOk (flashBytes base) 1 Config.keyHash Config.minSvn (0x800000 - bodyAt)

/-- `rom_verify` (R400, R401): image A, else image B, else the device halts. -/
def execRomVerify (s : State) : Host.Outcome State Fault Refusal :=
  .next (
    if s.power != .rom then s
    else if flashImageOk 0 then s.startStageOne 0
    else if flashImageOk 0x800000 then s.startStageOne 0x800000
    else { s with power := .halted })

/-! Firmware (R402). -/

/-- Bytes of an image that was downloaded. -/
def imageBytes (image : List Byte) (off n : Nat) : List Byte := (image.drop off).take n

/-- The bytes of the frame tag table. -/
def tagBytes : Nat := 6356992

/-- A frame's tag written (R379). -/
def State.setTag (s : State) (n tag : Nat) : State :=
  let a := s.ftag.toNat + n / 2
  let b := (s.byte a).toNat
  s.write a [BitVec.ofNat 8 (if n % 2 = 0 then b / 16 * 16 + tag else b % 16 + 16 * tag)]

/-- The frames that a range of near memory touches. -/
def framesOf (a n : Nat) : List Nat := if n = 0 then [] else List.range' (a / 0x20000) ((a + n - 1) / 0x20000 + 1 - a / 0x20000)

/-- The frame tags as stage one writes them (R402, step 1). -/
def State.firstTags (s : State) : State :=
  let s := s.write s.ftag.toNat (List.replicate tagBytes 0xFF)
  (framesOf s.fwLoad s.fwLen ++ framesOf reservedAt (reservedEnd - reservedAt)).foldl (fun s n => s.setTag n 8) s

/-- Firmware started: its body in memory, the log entry, tags, registers, the keys of the ports and system entry 0; stage one is over (R322, R400,
R402). -/
def State.startFirmware (s : State) (image : List Byte) : State :=
  let h := ImageHeader.decode (leNat (imageBytes image 0 64))
  let body := imageBytes image bodyAt h.len
  let (root, ent, vec, tag) := Config.stageOneRegs s.stageBody
  let s : State := { (s.write h.load body).dropTeam 0 0 with
    ueKeys := (List.range 8).map (Config.firmwareUeKey body)
    power := .run, retry := 0, retryAt := none, fwLoad := h.load, fwLen := h.len, sysroot := root, sysent := ent, tvec := vec, ftag := tag }
  (s.logImage body h.svn 2).firstTags.launch

/-- Whether an image verifies as firmware (R401). -/
def State.firmwareOk (s : State) (image : List Byte) : Bool :=
  let (trusted, minimum) := Config.stageOneTrust s.stageBody
  let h := ImageHeader.decode (leNat (imageBytes image 0 64))
  decide (bodyAt + h.len ≤ image.length) && imageOk (imageBytes image) 2 trusted minimum 0x4000000

/-- `firmware_download` (R400, R402): a download that fails, or an image that does not verify, is tried again after 1 s, the delay
doubling up to 64 s. It comes by Ultra Ethernet port 0 (R12). -/
def execFirmwareDownload (image : List Byte) (s : State) : Host.Outcome State Fault Refusal :=
  .next (
    if s.power != .stage1 || s.retryAt.isSome || !(s.ports.atD 0 {}).up then s
    else if s.firmwareOk image then s.startFirmware image
    else { s with retry := if s.retry = 0 then 1 else min 64 (2 * s.retry), retryAt := some s.clock })

/-- `download_retry` (R400): the delay expires. -/
def execDownloadRetry (s : State) : Host.Outcome State Fault Refusal :=
  .next (match s.retryAt with
    | none => s
    | some t => if s.power = .stage1 && s.elapsed t (s.retry * 1000 * cyclesPerMs) then { s with retryAt := none } else s)

/-! Temperature (R408). -/

/-- `thermal_warning` (R408): a sector's sensor rises through 100 °C. -/
def execThermalWarning (sector : Nat) (s : State) : Host.Outcome State Fault Refusal :=
  .next (if s.isUp then (s.onSector sector fun k => { k with hot := true }).raise 0x000A 0 none 0 (BitVec.ofNat 32 sector) else s)

/-- `thermal_trip` (R408): a sector's sensor reaches 110 °C. -/
def execThermalTrip (sector : Nat) (s : State) : Host.Outcome State Fault Refusal :=
  .next (if s.isUp then { s.raise 0x000B 0 none 0 (BitVec.ofNat 32 sector) with power := .halted } else s)

/-! Management (R403, R409). -/

/-- The bytes of a digest. -/
def digestBytes (d : BitVec 512) : List Byte := leBytes 64 d.toNat

/-- A log entry as its 128 bytes (R403). -/
def LogEntry.encode (e : LogEntry) : List Byte :=
  digestBytes e.digest ++ leBytes 4 e.svn ++ leBytes 4 e.kind ++ leBytes 8 e.clock.toNat ++ List.replicate 48 0

/-- Whether the management unit answers: in STAGE1, RUN and HALTED, by Ultra Ethernet port 0 (R400, R409). -/
def State.manages (s : State) : Bool := s.isUp && (s.ports.atD 0 {}).up

/-- The plain bytes of an answer. DESIGN CHOICE: no rule lays them out (log entry 54). -/
def MgmtOut.bytes : MgmtOut → List Byte
  | .quote signature => signature
  | .certificate bytes => bytes
  | .reports rs => rs.flatMap fun r => leBytes 32 r.encode
  | .partitionTable bytes => bytes
  | .sensors x => (x.readings.flatMap fun r => leBytes 4 r.toNat) ++ (x.hot ++ x.linksUp).map fun b => if b then 1 else 0

/-- An answer of the management unit leaves: signed under the identity key, and encrypted under the unit's key, on its VLAN (R403, R409). -/
def State.reply (s : State) (what : MgmtOut) : State :=
  let signature := Config.mldsaSign (Config.sha3 what.bytes)
  let (c, g) := Config.gcmSeal s.mgmtKey (BitVec.ofNat 96 s.mgmtSent) 0 (what.bytes ++ signature)
  { s with
    mgmtSent := s.mgmtSent + 1
    mgmt := s.mgmt ++ [{ vlan := s.vlan, what := what, signature := signature, counter := s.mgmtSent, cipher := c, tag := g }] }

/-- The attestation quote for a nonce (R403). -/
def State.quote (s : State) (nonce : List Byte) : List Byte :=
  Config.mldsaSign (Config.sha3 (nonce ++ (s.attLog.map LogEntry.encode).flatten))

/-- `attestation_quote` (R403), for a nonce of 64 bytes. -/
def execAttestationQuote (nonce : List Byte) (s : State) : Host.Outcome State Fault Refusal :=
  .next (
    if !s.manages || nonce.length != 64 then s
    else
      s.reply (.quote (s.quote nonce)))

/-- What a management read answers (R409). -/
def State.answerOf (s : State) : MgmtItem → MgmtOut
  | .certificate => .certificate Config.certificate
  | .reports => .reports s.reports
  | .partitionTable => .partitionTable (s.bytes tableBase 512)
  | .sensors => .sensors s.sampled

/-- `management_read` (R409): it writes no device state. -/
def execManagementRead (what : MgmtItem) (s : State) : Host.Outcome State Fault Refusal :=
  .next (if s.manages then s.reply (s.answerOf what) else s)

/-! The passage of cycles. -/

/-- What happens at the start of a millisecond of device time: the sensors are sampled, the energy windows open and held fault records are
retried, where the device is up (R88, R405, R409). -/
def State.millisecond (s : State) : State :=
  if !s.isUp then s
  else
    let s : State := { s with sampled := s.sense }
    (if s.windowStarts then s.openWindows else s).retryAll

/-- The starts of some milliseconds, one after another. -/
def State.milliseconds : Nat → State → State
  | 0, s => s
  | k + 1, s =>
    State.milliseconds k (State.millisecond { s with clock := BitVec.ofNat 64 ((s.clock.toNat / cyclesPerMs + 1) * cyclesPerMs) })

/-- Cycles pass, with the starts of the milliseconds among them; none pass for a device that is off or held in reset (R19, R399, log entry 2). -/
def State.pass (s : State) (n : Nat) : State :=
  if s.power == .off then s
  else { State.milliseconds ((s.clock.toNat % cyclesPerMs + n) / cyclesPerMs) s with clock := s.clock + BitVec.ofNat 64 n }

end Sys2Proof.Machine
end

