-- ==== Sys2Proof/Machine/Area.lean ====
section
/-!
DEFINITION. The save areas of teams and partitions (R387-R395) as values, written as bytes and read back; what reading refuses are
reserved fields that are not zero and counts beyond their limits (R397).
-/

namespace Sys2Proof.Machine

/-! Records of an area. -/

/-- A splinter record (R389); `st` is the code of ST, `pc` holds the half bit in bit 0. -/
structure AreaSplinter where
  rmask : Mask := 0
  mask : Mask := 0
  pc : W64 := 0
  st : Nat := 0
  idle : Nat := 0
  deriving DecidableEq, Repr

/-- A symbol record (R391); `src` is the code of the source, and `index` its entry or handle. -/
structure AreaSymbol where
  id : Nat := 0
  src : Nat := 0
  index : Nat := 0
  w64 : Bool := false
  arrived : Mask := 0
  vals : SMap W64 := []
  deriving DecidableEq, Repr

/-- A deferred or parked record (R392). -/
structure AreaAccess where
  pc : W64 := 0
  word : BitVec 32 := 0
  mods : BitVec 24 := 0xFF0000
  ext : W64 := 0
  base : W64 := 0
  isc : W64 := 0
  dsc : W64 := 0
  isym : Nat := 0xFF
  dsym : Nat := 0xFF
  kind : Nat := 0
  itemx : Nat := 0
  fbi : Nat := 0
  dflt : Bool := false
  dhalf : Bool := false
  ssym : Nat := 0xFF
  ssc : W64 := 0
  mask : Mask := 0
  part : Mask := 0
  idx : SMap W32 := []
  data : SMap W64 := []
  s3 : SMap W64 := []
  deriving DecidableEq, Repr

/-- A poison entry (R394). -/
structure AreaPoison where
  code : Nat := 0
  origin : Origin := .addr
  symbol : Bool := false
  mask : Mask := 0
  deriving DecidableEq, Repr

/-- A tile register's claim with its contents (R388). -/
structure AreaTile where
  record : W64 := 0
  pair : Bool := false
  pois : Bool := false
  bytes : SMap Byte := []
  deriving DecidableEq, Repr

/-- A tensor operation recorded as pending (R388); the layout of its operands is the model's (R388 leaves it open). -/
structure AreaOp where
  word : BitVec 32 := 0
  addr : W64 := 0
  lock : Nat := 0
  pc : W64 := 0
  batch : BitVec 32 := 0
  deriving DecidableEq, Repr

/-- A team area (R387, R388). Registers name saved symbols, and their poison stands in `poison`. -/
structure Area where
  privb : W64 := 0
  batch : BitVec 32 := 0
  stage : BitVec 32 := 0
  entry : Nat := 0
  core : Nat := 0
  slot : Nat := 0
  part : Nat := 0
  wm : Nat := 0
  rg : Nat := 0
  wg : Nat := 0
  splinters : List AreaSplinter := []
  vregs : List VReg := []
  uregs : List UReg := []
  preds : List Mask := []
  joins : List Mask := []
  barGen : SMap Bool := []
  items : List Item := []
  released : Mask := 0
  symbols : List AreaSymbol := []
  deferred : List AreaAccess := []
  parked : List AreaAccess := []
  pend : List Condition := []
  ops : List AreaOp := []
  stores : List OsEntry := []
  poison : List AreaPoison := []
  tiles : SMap AreaTile := []
  accs : SMap Accumulator := []
  deriving DecidableEq, Repr

/-- The team width of an area. -/
def Area.width (a : Area) : Nat := 32 * (a.wm + 1)

/-! Writing. -/

/-- Values put together at their lowest bits. -/
def packBits (fs : List (Nat × Nat)) : Nat := fs.foldl (fun n f => n + f.1 * 2 ^ f.2) 0

/-- A bit as a number. -/
def bit (b : Bool) : Nat := if b then 1 else 0

/-- A section filled up to a 64-byte boundary (R387). -/
def pad64 (bs : List Byte) : List Byte := bs ++ List.replicate (roundUp bs.length 64 - bs.length) 0

/-- The bytes of a mask. -/
def maskBytes (m : Mask) : List Byte := leBytes 128 m.toNat

/-- `n` bytes for each of W lanes. -/
def laneBytes (n w : Nat) (f : Nat → Nat) : List Byte := (List.range w).flatMap fun l => leBytes n (f l)

/-- The tag of a vector register (R56) with its value when uniform. -/
def VReg.tagBytes (r : VReg) : List Byte :=
  leBytes 16 (packBits [(match r.st with
    | .perLane => 0
    | .uniform => 1
    | .symbolic => 2, 0), (bit r.flt, 2), (bit r.half, 3), (r.sym, 24), (r.scale.toNat, 32), (if r.st = .uniform then r.uni.toNat else 0, 96)])

/-- The tag of a uniform register (R56) and its value or offset. -/
def UReg.areaBytes (r : UReg) : List Byte :=
  leBytes 16 (packBits [(if r.sym.isSome then 2 else 1, 0), (bit r.flt, 2), (bit r.half, 3), (r.sym.getD 0, 24), (r.scale.toNat, 32)]) ++
    leBytes 8 r.val.toNat

def AreaSplinter.bytes (p : AreaSplinter) : List Byte :=
  leBytes 32 (packBits [(p.idle, 178), (p.st, 189), (p.pc.toNat, 192)]) ++ maskBytes p.mask ++ maskBytes p.rmask

def Item.bytes (i : Item) : List Byte :=
  leBytes 16 (packBits [(i.flow, 96), (i.seq, 64), (i.entry, 48), (i.lane0, 38), (i.width, 36), (i.cls, 34), (bit i.tok, 33), (bit i.wtok, 32)])

def AreaSymbol.bytes (w : Nat) (y : AreaSymbol) : List Byte :=
  leBytes 32 (packBits [(y.id, 0), (y.src, 8), (y.index, 10), (bit y.w64, 18)]) ++ maskBytes y.arrived ++
    laneBytes 8 w fun l => (y.vals.atD l 0).toNat

/-- Whether a word is that of `atom.cas`, whose records hold S3 (R392). -/
def casWord (w : BitVec 32) : Bool :=
  match decodeWord w with
  | some (.atomCas _ _ _) => true
  | _ => false

def AreaAccess.bytes (w : Nat) (a : AreaAccess) : List Byte :=
  leBytes 64 (packBits
    [(a.pc.toNat, 448), (a.word.toNat, 416), (a.mods.toNat, 392), (a.ext.toNat, 328), (a.base.toNat, 264), (a.isc.toNat, 200),
     (a.dsc.toNat, 136), (a.isym, 128), (a.dsym, 120), (a.kind, 118), (a.itemx, 108), (a.fbi, 100), (bit a.dflt, 99),
     (bit a.dhalf, 98), (a.ssym, 90), (a.ssc.toNat, 26)]) ++
  maskBytes a.mask ++ maskBytes a.part ++ laneBytes 4 w (fun l => (a.idx.atD l 0).toNat) ++
  laneBytes 8 w (fun l => (a.data.atD l 0).toNat) ++
  (if casWord a.word then laneBytes 8 w (fun l => (a.s3.atD l 0).toNat) else [])

def Condition.bytes (cd : Condition) : List Byte :=
  let w := lowWord cd.lanes
  leBytes 32 (packBits
    [(cd.cause.code, 0), (bit cd.deferred, 4), (cd.eiaddr.toNat, 64), (cd.eaddr.toNat, 128), ((maskWord cd.lanes w).toNat, 192), (w, 224)])

def AreaOp.bytes (o : AreaOp) : List Byte :=
  leBytes 32 (packBits [(o.word.toNat, 0), (o.addr.toNat, 32), (o.lock, 96), (o.pc.toNat, 128), (o.batch.toNat, 192)])

def OsEntry.bytes (e : OsEntry) : List Byte :=
  bytesAt e.data 0 64 ++ leBytes 8 e.mask.toNat ++ leBytes 8 (64 * e.line) ++ leBytes 4 e.flow ++ leBytes 4 e.seq ++ leBytes 8 0

def AreaPoison.bytes (p : AreaPoison) : List Byte :=
  let (m, t) := match p.origin with
    | .addr => (0, 0)
    | .mem t => (1, t)
  leBytes 8 (packBits [(p.code, 56), (m, 55), (t, 51), (bit p.symbol, 50)]) ++ maskBytes p.mask

/-- Bytes of a claim's slots (R388). -/
def tileBytes (pair : Bool) : Nat := if pair then 49152 else 24576

def AreaTile.encode (t : AreaTile) : List Byte :=
  leBytes 16 (packBits [(t.record.toNat, 0), (bit t.pair, 64), (bit t.pois, 65)]) ++ bytesAt t.bytes 0 (tileBytes t.pair)

def Accumulator.encode (a : Accumulator) : List Byte :=
  leBytes 16 (bit a.pois.isSome) ++ laneBytes 4 16384 fun i => (a.words.atD i 0).toNat

/-- A table with a bit for each key. -/
def keyBits {α : Type} (m : SMap α) : Nat := m.foldl (fun n e => n + 2 ^ e.1) 0

/-- The header (R387) of an area of some size. -/
def Area.header (a : Area) (size : Nat) : List Byte :=
  leBytes 64 (packBits
    [(size, 448), (a.privb.toNat, 384), (a.batch.toNat, 352), (a.stage.toNat, 320), (a.entry, 304), (a.core, 296), (a.slot, 291),
     (a.part, 288), (a.wm, 283), (a.rg, 279), (a.wg, 276), (a.splinters.length - 1, 271), (a.symbols.length, 265),
     (a.deferred.length, 257), (a.parked.length, 248), (a.poison.length, 236), (keyBits a.tiles, 220), (keyBits a.accs, 212),
     (a.items.length - 1, 201), (a.stores.length, 189), (a.pend.length, 183), (a.ops.length, 176)])

/-- The sections (R388). -/
def Area.body (a : Area) : List Byte :=
  let w := a.width
  [ a.splinters.flatMap AreaSplinter.bytes,
    a.vregs.flatMap VReg.tagBytes,
    (a.vregs.filter fun r => r.st != .uniform).flatMap (fun r => laneBytes 4 w fun l => (r.lanes.atD l 0).toNat),
    a.uregs.flatMap UReg.areaBytes,
    a.preds.flatMap maskBytes,
    a.joins.flatMap maskBytes,
    leBytes 8 (keyBits a.barGen) ++ leBytes 8 (keyBits (a.barGen.filter fun e => e.2)),
    a.items.flatMap Item.bytes,
    maskBytes a.released,
    a.symbols.flatMap (AreaSymbol.bytes w),
    a.deferred.flatMap (AreaAccess.bytes w),
    a.parked.flatMap (AreaAccess.bytes w),
    a.pend.flatMap Condition.bytes,
    a.ops.flatMap AreaOp.bytes,
    a.stores.flatMap OsEntry.bytes,
    a.poison.flatMap AreaPoison.bytes,
    a.tiles.flatMap (fun e => e.2.encode),
    a.accs.flatMap (fun e => e.2.encode) ].flatMap pad64

/-- A team area as bytes. -/
def Area.encode (a : Area) : List Byte := let b := a.body; a.header (b.length + 64) ++ b

/-! Reading. -/

/-- The first bytes of a list and the rest; none where it is too short. -/
def takeBytes (n : Nat) (bs : List Byte) : Option (List Byte × List Byte) :=
  let h := bs.take n
  if h.length = n then some (h, bs.drop n) else none

/-- A list cut into pieces of given sizes. -/
def cutAll : List Nat → List Byte → Option (List (List Byte))
  | [], _ => some []
  | n :: ns, bs => match takeBytes n bs with
    | none => none
    | some (h, r) => (cutAll ns r).map fun t => h :: t

/-- A section of records of given sizes, and what follows it. -/
def readSection (sizes : List Nat) (bs : List Byte) : Option (List (List Byte) × List Byte) :=
  match takeBytes (roundUp sizes.sum 64) bs with
  | none => none
  | some (h, r) => (cutAll sizes h).map fun t => (t, r)

/-- Each record read by a function that may refuse it. -/
def readEach {α : Type} (f : List Byte → Option α) : List (List Byte) → Option (List α)
  | [] => some []
  | b :: bs => match f b with
    | none => none
    | some v => (readEach f bs).map fun vs => v :: vs

/-- A section of `n` records of one size. -/
def readRecords {α : Type} (n size : Nat) (f : List Byte → Option α) (bs : List Byte) : Option (List α × List Byte) :=
  match readSection (List.replicate n size) bs with
  | none => none
  | some (rs, r) => (readEach f rs).map fun vs => (vs, r)

/-- A value of some bytes from a place in a record. -/
def numAt (bs : List Byte) (off n : Nat) : Nat := leNat ((bs.drop off).take n)

/-- A mask from a place in a record. -/
def maskAt (bs : List Byte) (off : Nat) : Mask := BitVec.ofNat 1024 (numAt bs off 128)

/-- Values of `n` bytes, numbered from a lane on, as a table without zeros. -/
def lanesFromAt {k : Nat} (n : Nat) : Nat → Nat → List Byte → SMap (BitVec k)
  | 0, _, _ => []
  | f + 1, l, bs =>
    let v := BitVec.ofNat k (leNat (bs.take n))
    if v = 0 then lanesFromAt n f (l + 1) (bs.drop n) else (l, v) :: lanesFromAt n f (l + 1) (bs.drop n)

/-- W lanes of `n` bytes as a table without zeros. -/
def lanesAt {k : Nat} (n w : Nat) (bs : List Byte) : SMap (BitVec k) := lanesFromAt n w 0 bs

def VReg.ofTag (bs : List Byte) : Option VReg :=
  let v := leNat bs
  let u := bits v 96 32
  if bits v 4 20 != 0 || bits v 0 2 == 3 || (bits v 0 2 != 1 && u != 0) then none
  else some
    { st := if bits v 0 2 = 0 then .perLane else if bits v 0 2 = 1 then .uniform else .symbolic
      flt := bits v 2 1 == 1, half := bits v 3 1 == 1, sym := bits v 24 8, scale := BitVec.ofNat 32 (bits v 32 32), uni := BitVec.ofNat 32 u }

def UReg.ofBytes (bs : List Byte) : Option UReg :=
  let v := leNat bs
  if bits v 4 20 != 0 || bits v 96 32 != 0 || bits v 0 2 == 3 then none
  else some
    { sym := if bits v 0 2 = 2 then some (bits v 24 8) else none, flt := bits v 2 1 == 1, half := bits v 3 1 == 1
      scale := BitVec.ofNat 64 (bits v 32 64), val := BitVec.ofNat 64 (bits v 128 64) }

def AreaSplinter.ofBytes (bs : List Byte) : Option AreaSplinter :=
  let v := numAt bs 0 32
  if bits v 0 178 != 0 || 4 < bits v 189 3 then none
  else some { idle := bits v 178 11, st := bits v 189 3, pc := BitVec.ofNat 64 (bits v 192 64), mask := maskAt bs 32, rmask := maskAt bs 160 }

def Item.ofBytes (bs : List Byte) : Option Item :=
  let v := leNat bs
  if bits v 0 32 != 0 || bits v 34 2 == 3 then none
  else some
    { flow := bits v 96 32, seq := bits v 64 32, entry := bits v 48 16, lane0 := bits v 38 10, width := bits v 36 2, cls := bits v 34 2
      tok := bits v 33 1 == 1, wtok := bits v 32 1 == 1 }

def AreaSymbol.ofBytes (w : Nat) (bs : List Byte) : Option AreaSymbol :=
  let v := numAt bs 0 32
  if bits v 19 237 != 0 || bits v 8 2 == 3 then none
  else some
    { id := bits v 0 8, src := bits v 8 2, index := bits v 10 8, w64 := bits v 18 1 == 1, arrived := maskAt bs 32
      vals := lanesAt 8 w (bs.drop 160) }

def AreaAccess.ofBytes (w : Nat) (bs : List Byte) : Option AreaAccess :=
  let v := numAt bs 0 64
  let n (lo : Nat) : W64 := BitVec.ofNat 64 (bits v lo 64)
  if bits v 0 26 != 0 then none
  else some
    { pc := n 448, word := BitVec.ofNat 32 (bits v 416 32), mods := BitVec.ofNat 24 (bits v 392 24), ext := n 328, base := n 264
      isc := n 200, dsc := n 136, isym := bits v 128 8, dsym := bits v 120 8, kind := bits v 118 2, itemx := bits v 108 10
      fbi := bits v 100 8, dflt := bits v 99 1 == 1, dhalf := bits v 98 1 == 1, ssym := bits v 90 8, ssc := n 26
      mask := maskAt bs 64, part := maskAt bs 192, idx := lanesAt 4 w (bs.drop 320), data := lanesAt 8 w (bs.drop (320 + 4 * w))
      s3 := lanesAt 8 w (bs.drop (320 + 12 * w)) }

/-- The cause of a code (R353). -/
def causeOf (n : Nat) : Cause :=
  (([.soft, .illegal, .priv, .opclass, .align, .range, .poison, .handle, .item, .barrier, .tensor, .xfer, .sample, .arith, .fetch, .xlate] :
    List Cause)[n]?).getD .soft

def Condition.ofBytes (bs : List Byte) : Option Condition :=
  let v := leNat bs
  if bits v 5 59 != 0 || bits v 229 27 != 0 then none
  else some
    { cause := causeOf (bits v 0 4), deferred := bits v 4 1 == 1, eiaddr := BitVec.ofNat 64 (bits v 64 64)
      eaddr := BitVec.ofNat 64 (bits v 128 64), lanes := wordMask (bits v 224 5) (BitVec.ofNat 32 (bits v 192 32)) }

def AreaOp.ofBytes (bs : List Byte) : Option AreaOp :=
  let v := leNat bs
  if bits v 102 26 != 0 || bits v 224 32 != 0 then none
  else some
    { word := BitVec.ofNat 32 (bits v 0 32), addr := BitVec.ofNat 64 (bits v 32 64), lock := bits v 96 6
      pc := BitVec.ofNat 64 (bits v 128 64), batch := BitVec.ofNat 32 (bits v 192 32) }

def OsEntry.ofBytes (p : Nat) (bs : List Byte) : Option OsEntry :=
  if numAt bs 88 8 != 0 then none
  else some
    { part := p, flow := numAt bs 80 4, seq := numAt bs 84 4, line := numAt bs 72 8 / 64, mask := BitVec.ofNat 64 (numAt bs 64 8)
      data := lanesAt 1 64 bs }

/-- Whether a code is an owner tag (R379). -/
def ownerTag (n : Nat) : Bool := decide (n ≤ 8) || n == 15

def AreaPoison.ofBytes (bs : List Byte) : Option AreaPoison :=
  let v := numAt bs 0 8
  let code := bits v 56 8
  if bits v 0 50 != 0 || !ownerTag (bits v 51 4) || (bits v 50 1 == 0 && 0xFA < code && code < 0xFF) then none
  else some
    { code := code, origin := if bits v 55 1 = 1 then .mem (bits v 51 4) else .addr, symbol := bits v 50 1 == 1
      mask := maskAt bs 8 }

/-- Whether a format record (R266) has a reserved bit set or a reserved code. -/
def recordReserved (v : Nat) : Bool :=
  bits v 52 2 != 0 || bits v 0 16 != 0 || decide (5 < bits v 60 4) || bits v 58 2 == 3 || bits v 55 2 == 3

/-- The claims of a section (R388), whose sizes follow from their heads. -/
def readTiles : List Nat → List Byte → Option (SMap AreaTile)
  | [], _ => some []
  | n :: ns, bs =>
    let v := numAt bs 0 16
    let pair := bits v 64 1 == 1
    if bits v 66 62 != 0 || recordReserved (bits v 0 64) then none
    else match takeBytes (16 + tileBytes pair) bs with
      | none => none
      | some (h, r) =>
        let t : AreaTile :=
          { record := BitVec.ofNat 64 (bits v 0 64), pair := pair, pois := bits v 65 1 == 1, bytes := lanesAt 1 (tileBytes pair) (h.drop 16) }
        (readTiles ns r).map fun m => (n, t) :: m

/-- What follows the claims of a section. -/
def afterTiles (ts : SMap AreaTile) (bs : List Byte) : Option (List Byte) :=
  (takeBytes (roundUp (ts.foldl (fun n e => n + 16 + tileBytes e.2.pair) 0) 64) bs).map fun r => r.2

def Accumulator.ofBytes (bs : List Byte) : Option Accumulator :=
  let v := numAt bs 0 16
  if bits v 1 127 != 0 then none
  else some { pois := if v = 1 then some .addr else none, words := lanesAt 4 16384 (bs.drop 16) }

/-- The keys of a table of bits. -/
def bitKeys (n v : Nat) : List Nat := (List.range n).filter fun i => bits v i 1 == 1

/-- Per-lane contents given to the registers that have them, in order. -/
def giveLanes (w : Nat) : List VReg → List (List Byte) → List VReg
  | [], _ => []
  | r :: rs, ds => if r.st = .uniform then r :: giveLanes w rs ds
    else match ds with
      | [] => r :: giveLanes w rs []
      | d :: ds => { r with lanes := lanesAt 4 w d } :: giveLanes w rs ds

/-- Sizes of access records (R388). -/
def accessSizes (w : Nat) : Nat → List Byte → List Nat
  | 0, _ => []
  | n + 1, bs =>
    let k := if casWord (BitVec.ofNat 32 (bits (numAt bs 0 64) 416 32)) then 320 + 20 * w else 320 + 12 * w
    k :: accessSizes w n (bs.drop k)

def readAccesses (w n : Nat) (bs : List Byte) : Option (List AreaAccess × List Byte) :=
  match readSection (accessSizes w n bs) bs with
  | none => none
  | some (rs, r) => (readEach (AreaAccess.ofBytes w) rs).map fun vs => (vs, r)

/-- The header's fields, and whether its reserved field is zero and its counts are within their limits (R387, R397). -/
def Area.ofHeader (v : Nat) : Area × Bool :=
  ({ privb := BitVec.ofNat 64 (bits v 384 64), batch := BitVec.ofNat 32 (bits v 352 32), stage := BitVec.ofNat 32 (bits v 320 32)
     entry := bits v 304 16, core := bits v 296 8, slot := bits v 291 5, part := bits v 288 3, wm := bits v 283 5, rg := bits v 279 4
     wg := bits v 276 3 },
   bits v 0 176 == 0 && decide (bits v 271 5 ≤ 15) && decide (bits v 265 6 ≤ 32) && decide (bits v 257 8 ≤ 128) &&
     decide (bits v 248 9 ≤ 256) && decide (bits v 201 11 ≤ 1023) && decide (bits v 189 12 ≤ 2048) && decide (bits v 176 7 ≤ 64))

/-- The largest size that an area's counts allow, rounded up. -/
def areaLimit : Nat := 0x1000000

/-- A team area read from its bytes, the header's value first; none where it is refused (R397). -/
def Area.decode (v : Nat) (bs : List Byte) : Option Area := do
  let (a, ok) := Area.ofHeader v
  if !ok then none
  let w := a.width
  let p := a.part
  let (spl, bs) ← readRecords (bits v 271 5 + 1) 288 AreaSplinter.ofBytes bs
  let (tags, bs) ← readRecords (8 * (a.rg + 1)) 16 VReg.ofTag bs
  let (data, bs) ← readSection ((tags.filter fun r => r.st != .uniform).map fun _ => 4 * w) bs
  let (uregs, bs) ← readRecords (8 * (a.wg + 1)) 24 UReg.ofBytes bs
  let (preds, bs) ← readRecords 16 128 (fun b => some (maskAt b 0)) bs
  let (joins, bs) ← readRecords 8 128 (fun b => some (maskAt b 0)) bs
  let (bar, bs) ← readRecords 1 16 (fun b => some (leNat b)) bs
  let (items, bs) ← readRecords (bits v 201 11 + 1) 16 Item.ofBytes bs
  let (rel, bs) ← readRecords 1 128 (fun b => some (maskAt b 0)) bs
  let (syms, bs) ← readRecords (bits v 265 6) (160 + 8 * w) (AreaSymbol.ofBytes w) bs
  let (deferred, bs) ← readAccesses w (bits v 257 8) bs
  let (parked, bs) ← readAccesses w (bits v 248 9) bs
  let (pend, bs) ← readRecords (bits v 183 6) 32 Condition.ofBytes bs
  let (ops, bs) ← readRecords (bits v 176 7) 32 AreaOp.ofBytes bs
  let (stores, bs) ← readRecords (bits v 189 12) 96 (OsEntry.ofBytes p) bs
  let (poison, bs) ← readRecords (bits v 236 12) 136 AreaPoison.ofBytes bs
  let tiles ← readTiles (bitKeys 16 (bits v 220 16)) bs
  let bs ← afterTiles tiles bs
  let (accs, _) ← readRecords (bitKeys 8 (bits v 212 8)).length 65552 Accumulator.ofBytes bs
  let b := bar.headD 0
  some { a with
    splinters := spl, vregs := giveLanes w tags data, uregs := uregs, preds := preds, joins := joins
    barGen := (bitKeys 64 (bits b 0 64)).map fun i => (i, bits b (64 + i) 1 == 1)
    items := items, released := rel.headD 0, symbols := syms, deferred := deferred, parked := parked, pend := pend, ops := ops
    stores := stores, poison := poison, tiles := tiles, accs := (bitKeys 8 (bits v 212 8)).zip accs }

end Sys2Proof.Machine
end

