-- ==== Sys2Proof/Machine/Context.lean ====
section
/-!
DEFINITION. `ctx.save` (R376, R384-R387, R395): what a save waits for, the areas that it writes, and what leaves the device.
-/

namespace Sys2Proof.Machine

/-! What a save waits for (R282, R362, R384, R385). -/

/-- The parked accesses of a team, with their entries, in program order. -/
def State.parkedOf (s : State) (c t : Nat) : List (Nat × Access) :=
  sortBy (fun (a b : Nat × Access) => a.2.order < b.2.order)
    (((s.core c).fbuf.filter fun e => e.2.slot == t).map fun e => (e.1, e.2.acc))

/-- Whether a splinter that finishes its instruction can go on: none of the instruction's accesses is parked or deferred. -/
def State.canFinish (s : State) (c t : Nat) (p : Splinter) : Bool :=
  p.finishing && !((s.waitingOf c t).any fun a => a.direct && !a.sys && a.pc == (if p.half then p.pc ||| 1 else p.pc) && a.lanes &&& p.mask != 0)

/-- Whether a stopped team can be saved: nothing has left the core, the values that have arrived are resolved, and fit the area with those that
have not, tensor operations have drained, and the team is not trapped (R282, R385, R387). Deferred and parked accesses, those of a handler that
has returned among them, are not awaited. -/
def State.saveReady (s : State) (c t : Nat) (x : Team) : Bool :=
  let k := s.core c
  let syms := k.syms.filter fun e => e.2.slot == t
  !x.inSys && x.trap.isNone && !(s.txs.any fun y => y.core == c && y.slot == t) &&
    !(syms.any fun e => e.2.lanes &&& ~~~e.2.arrived == 0) && decide (syms.length ≤ 32) &&
    ((k.tq.find? fun o => o.slot == t).map fun o => o.stall.waiting).getD true && !(x.splinters.any (s.canFinish c t))

/-! The area of a team (R387-R394). -/

/-- A splinter's record (R389): of `flow.set` that waits for a token alone, no lane is still to be performed. -/
def Splinter.area (p : Splinter) : AreaSplinter :=
  let left := p.mask &&& ~~~(p.did ||| p.wrote)
  let r : AreaSplinter := { mask := p.mask, pc := if p.half then p.pc ||| 1 else p.pc, idle := p.idle, rmask := left }
  match p.st with
  | .able => if p.did = 0 then r else { r with st := 3 }
  | .held token => { r with st := 1, rmask := if token then 0 else left }
  | .joinWait _ _ => { r with st := 2 }
  | .waiting .token | .waiting .tokenDone => { r with st := 3, rmask := 0 }
  | .waiting _ => { r with st := 3 }
  | .fetchHeld _ => { r with st := 4 }

/-- The code of a saved symbol, 0xFF for a known operand. -/
def symCode (ids : List Nat) (n : Option Nat) : Nat :=
  match n with
  | none => 0xFF
  | some n => (indexOf? (· == n) ids).getD 0xFF

/-- The items of a team that an area records, in ascending order of their lanes (R388). -/
def Team.saved (x : Team) : List Item := sortBy (fun (a b : Item) => a.lane0 < b.lane0) (x.items.filter fun i => !i.ended)

/-- The lanes that a record names: those of an access that is performed once stand for the active lanes (R215). -/
def Access.areaMask (a : Access) (m : Mask) : Mask := if a.spread = 0 then m else a.spread

/-- The uniform base of a record: that of the window, where one peer is named. Of a uniform index of 64 bits, the index offsets have 32, and the
rest is added into the base (log entry 31). -/
def Access.areaBase (a : Access) : W64 :=
  let b := match a.peers with
    | some f => BitVec.ofNat 64 peerBase + (f.peer 0 <<< 44)
    | none => a.base.at_ 0
  let i := a.idx.at_ 0
  let o := if a.idx.uni then (i - (i.setWidth 32).setWidth 64) * BitVec.ofNat 64 a.op.size else 0
  if a.op == .mcst then b.extractLsb' 44 20 ++ (b.setWidth 44 + o.setWidth 44) else b + o

/-- KIND of a record (R392): a fence, a deferred acquire or release, which hold back what follows or go behind what comes before (R69), or any
other access. -/
def Access.areaKind (a : Access) (parked : Bool) : Nat :=
  if a.op.marks then 1 else if parked then 0 else if a.acq then 2 else if a.rel then 3 else 0

/-- An access's record (R392). -/
def Access.area (a : Access) (ids : List Nat) (x : Team) (entry : Option Nat) : AreaAccess :=
  let m := a.areaMask (if entry.isSome then a.lanes else a.left)
  { pc := a.pc, word := a.word, mods := a.mods, ext := a.ext, kind := a.areaKind entry.isSome, fbi := entry.getD 0
    base := a.areaBase, isc := a.idx.scale, isym := symCode ids a.idx.sym, dsc := a.data.scale, dsym := symCode ids a.data.sym
    dflt := a.data.flt, dhalf := a.data.half, ssc := a.s3.scale, ssym := symCode ids a.s3.sym
    itemx := match a.hold with
      | [] => 0
      | h :: _ => (indexOf? (fun (i : Item) => i.mask.getLsbD h.1) x.saved).getD 0
    mask := m, part := if entry.isSome then a.areaMask a.done &&& (if a.done = 0 then 0 else m) else 0
    idx := laneTable m fun l => (a.idx.at_ l).setWidth 32, data := wideTable m a.dataAt, s3 := wideTable m a.s3At }

/-- A symbol's record (R391). -/
def Symbol.area (y : Symbol) (id n : Nat) (ds ps : List Access) : AreaSymbol :=
  let mine (a : Access) : Bool := a.rsym == some n
  let (src, i) := match y.src with
    | .handle h => (2, h)
    | .access => match indexOf? mine ds with
      | some i => (0, i)
      | none => (1, (indexOf? mine ps).getD 0)
  { id := id, src := src, index := i, w64 := y.w64, arrived := y.arrived, vals := y.vals }

/-- The entries of some lanes' poison, one for each origin (R394). -/
def poisonEntries (code : Nat) (symbol : Bool) (m : SMap Origin) : List AreaPoison :=
  ((m.map fun e => e.2).eraseDups).map fun o =>
    { code := code, origin := o, symbol := symbol, mask := maskOf ((m.filter fun e => e.2 == o).map fun e => e.1) }

/-- A pending tensor operation's record. -/
def TensorOp.area (o : TensorOp) : AreaOp :=
  let (a, l) := match o.kind with
    | .ld _ a l | .st _ a l => (a, l)
    | _ => (0, 0)
  { word := o.word, addr := a, lock := l, pc := o.pc, batch := o.batch }

/-- The entries of the ordered-store buffer whose position has not reached its release point (R386). -/
def State.storesOf (s : State) (c t : Nat) : List OsEntry :=
  (s.core c).osb.filter fun e => match s.position e.pos with
    | some (_, q) => q.on c t && !q.recorded
    | none => false

/-- The splinters of a team as they find records: held lanes are no splinters (R47), and come last. -/
def Team.records (x : Team) : List Splinter := x.splinters.filter Splinter.counts ++ x.splinters.filter fun p => !p.counts

/-- The splinters that an area records, in ascending order of their lanes: NSPL counts at most 16 (R387, R388). -/
def Team.inArea (x : Team) : List Splinter :=
  sortBy (fun (a b : Splinter) => lowLane a.mask < lowLane b.mask) (x.records.take 16)

/-- The held lanes that find no record in the area; the ticket keeps them (log entry 36). -/
def Team.leftOut (x : Team) : List Splinter := x.records.drop 16

/-- The area of a stopped team. -/
def State.areaOf (s : State) (c t : Nat) (x : Team) : Area :=
  let k := s.core c
  let syms := k.syms.filter fun e => e.2.slot == t
  let ids := syms.map fun e => e.1
  let ds := x.queue.filter fun a => !a.direct
  let ps := (s.parkedOf c t).filter fun e => !e.2.direct
  let shared (n : Nat) : Bool := x.entry.shared n
  let vreg (n : Nat) : VReg := if shared n then {} else
    let r := x.vregs.atD n {}
    { r with sym := if r.st = .symbolic then symCode ids (some r.sym) else 0, pois := [] }
  let ureg (n : Nat) : UReg := let r := x.uregs.atD n {}; { r with sym := r.sym.map fun n => symCode ids (some n), pois := none }
  let pend := (sortBy (fun (a b : Condition) => a.order < b.order) x.pend).take 63
  { privb := x.privBase, batch := x.batch, stage := x.stage, entry := x.entryIdx, core := c, slot := t, part := x.part
    wm := x.entry.wm, rg := x.entry.rg, wg := x.entry.wg
    splinters := x.inArea.map Splinter.area
    vregs := (List.range x.entry.regs).map vreg, uregs := (List.range x.entry.wregs).map ureg
    preds := (List.range 16).map fun n => x.preds.atD n 0, joins := (List.range 8).map fun n => x.joins.atD n 0
    barGen := x.barGen, items := x.saved, released := x.released
    symbols := (List.range syms.length).zip syms |>.map fun e => e.2.2.area e.1 e.2.1 ds (ps.map fun p => p.2)
    deferred := ds.map fun a => a.area ids x none, parked := ps.map fun e => e.2.area ids x (some e.1)
    pend := pend, ops := (k.tq.filter fun o => o.slot == t).map TensorOp.area, stores := s.storesOf c t
    poison := (x.vregs.flatMap fun e => if shared e.1 then [] else poisonEntries e.1 false e.2.pois) ++
      (x.uregs.flatMap fun e => match e.2.pois with
        | some o => poisonEntries (0x80 + e.1) false [(0, o)]
        | none => []) ++
      ((List.range syms.length).zip syms).flatMap fun e => poisonEntries e.1 true e.2.2.pois
    tiles := x.tiles.map fun e => (e.1, { record := e.2.record, pair := e.2.pair, pois := e.2.pois.isSome, bytes := e.2.bytes })
    accs := x.accs.map fun e => (e.1, k.accs.atD e.2 {}) }

/-! What leaves the device (R385, R386). -/

/-- A position of a team that is saved: before its release point it leaves the core; after it, it stays, and waits for the accesses that
were saved before it (R386). -/
def Position.leave (q : Position) (num : Nat) (waiting : List Access) : Position :=
  if q.recorded then { q with slot := noSlot, out := some num, barred := waiting.any q.awaits }
  else { q with core := none, slot := noSlot }

/-- The flows after a team left: its positions, and its waits for tokens. -/
def State.leaveFlows (s : State) (c t num : Nat) : State :=
  let waiting := s.itemAccesses c t
  { s with flows := s.flows.map fun f => { f with
      positions := f.positions.map fun q => if q.on c t then q.leave num waiting else q
      waiters := f.waiters.map fun w => if w.queued.isNone && w.core == c && w.slot == t then { w with slot := noSlot } else w } }

/-- An operand's symbol renamed. -/
def Form.renames (f : Nat → Option Nat) (x : Form) : Form := { x with sym := x.sym.bind f }

/-- The symbols of an access renamed. -/
def Access.renames (f : Nat → Option Nat) (a : Access) : Access :=
  { a with
    base := a.base.renames f, peers := a.peers.map (Form.renames f), idx := a.idx.renames f, data := a.data.renames f
    dataHi := a.dataHi.map (Form.renames f), s3 := a.s3.renames f, s3Hi := a.s3Hi.map (Form.renames f), rsym := a.rsym.bind f }

/-- What is kept of a team beside its area (log entry 33). -/
def State.ticketOf (s : State) (c t num : Nat) (x : Team) : Ticket :=
  let k := s.core c
  let ids := (k.syms.filter fun e => e.2.slot == t).map fun e => e.1
  let names (n : Nat) : Option Nat := indexOf? (· == n) ids
  { num := num, part := x.part, image := (s.areaOf c t x).encode
    team := { x with queue := (x.queue.filter fun a => !a.direct).map (Access.renames names) }
    parked := (((s.parkedOf c t).map fun e => e.2).filter fun a => !a.direct).map (Access.renames names)
    stores := s.storesOf c t, ops := k.tq.filter fun o => o.slot == t
    marks := x.accs.filterMap fun e => (k.accs.atD e.2 {}).pois.map fun o => (e.1, o) }

/-- A saved team removed from its core: its slot, registers, accesses, symbols, operations and accumulators are freed; sampler jobs that it has
registered wait for it (R336, R376, R385). -/
def State.removeTeam (s : State) (c t : Nat) : State :=
  match s.team? c t with
  | none => s
  | some x =>
    let stores := s.storesOf c t
    let num := s.fresh
    let s : State := { s.leaveFlows c t num with tickets := s.tickets ++ [s.ticketOf c t num x], fresh := s.fresh + 1 }
    let away (j : SamplerJob) : SamplerJob := if j.core == c && j.slot == t then { j with slot := noSlot, away := some num } else j
    let s := s.onSector (sectorOf c) fun q => { q with offered := q.offered.map away }
    s.onCore c fun k => { k with
      teams := k.teams.del t, syms := k.syms.filter fun e => e.2.slot != t, fbuf := k.fbuf.filter fun e => e.2.slot != t
      tq := k.tq.filter fun o => o.slot != t, accs := k.accs.filter fun e => !(x.accs.any fun a => a.2 == e.1)
      accReqs := k.accReqs.filter fun r => r.slot != t, last := k.last.filter fun e => e.2 != t
      osb := k.osb.filter fun e => !stores.contains e }

/-! Writing an area. -/

/-- Bytes stored in an area, as the handler's own stores are; a part that does not translate is a double trap (R359, R376). -/
def Ctx.writeArea (cx : Ctx) (s : State) (a : Nat) (bs : List Byte) (k : State → Did) : Did :=
  match s.rangeParts cx.who .store (chunksOf a bs.length) with
  | .error (a, sp) => .gone (Ctx.recordTrouble { cx with s := s } a sp)
  | .ok ps => k (s.storeParts cx.who ps bs)

/-- The address in an area word (R376). -/
def areaAddr (w : Nat) : Nat := bits w 13 43 * 2 ^ 13

/-- The number by which a save or a load knows the team that executes it. -/
def Ctx.agent (cx : Ctx) : Nat := 32 * cx.c + cx.t

/-- The result of an instruction that is refused (R376). -/
def Ctx.refuse (cx : Ctx) : Did := .done (cx.writeP15 cx.s fun _ => false) 0

/-! The save of one team (R376, K = 0). -/

/-- Whether the save of a team is under way for another team, by itself or with its partition. A save that had begun before that of the partition
goes on, and that of the partition waits for it. -/
def State.savedByOther (s : State) (x : Team) (me : Nat) : Bool :=
  match x.saver with
  | some n => n != me
  | none => (s.part x.part).saver.isSome

def Ctx.saveTeam (cx : Ctx) (w : Nat) : Did :=
  let c := bits w 5 8
  let t := bits w 0 5
  match cx.s.team? c t with
  | none => cx.refuse
  | some x =>
    if (x.inSys && x.saver != some cx.agent) || cx.s.savedByOther x cx.agent then cx.refuse
    else if cx.s.saveReady c t x then
      cx.writeArea cx.s (areaAddr w) (cx.s.areaOf c t x).encode fun s => .done (cx.writeP15 ((s.removeTeam c t).drainCore c) fun _ => true) 0
    else .wait (cx.s.setTeam c t { x with saver := some cx.agent }) .issue

/-! The save of a partition (R308, R376, R395, K = 1). -/

/-- The resident teams of a partition, with their cores and slots. -/
def State.teamsOf (s : State) (p : Nat) : List (Nat × Nat × Team) :=
  s.cores.flatMap fun e => (e.2.resident.filter fun t => t.2.part == p && !t.2.formed).map fun t => (e.1, t.1, t.2)

/-- The share groups of a partition, with their cores. -/
def State.groupsOf (s : State) (p : Nat) : List (Nat × Nat × ShareGroup) :=
  s.cores.flatMap fun e => (e.2.groups.filter fun g => g.2.part == p).map fun g => (e.1, g.1, g.2)

/-- The barriers that a partition owns: level, core, index; a sector's stand under its first core. -/
def State.barsOf (s : State) (p : Nat) : List (Nat × Nat × Nat × Barrier) :=
  let mine (m : SMap Barrier) : SMap Barrier := m.filter fun b => b.2.owned && b.2.part == p
  (s.cores.flatMap fun e => (mine e.2.bars).map fun b => (0, e.1, b.1, b.2)) ++
    (s.sectors.flatMap fun e => (mine e.2.bars).map fun b => (1, 16 * e.1, b.1, b.2)) ++ (mine s.devBars).map fun b => (2, 0, b.1, b.2)

/-- A group as it is saved (R395). -/
def ShareGroup.bytes_ (g : ShareGroup) (c n : Nat) : List Byte :=
  let w := 32 * (g.wm + 1)
  let full := (List.range g.count).foldl (fun v i => v + bit (g.full.atD (g.first + i) false) * 2 ^ i) 0
  leBytes 16 (packBits [(c, 0), (n, 8), (g.first, 11), (g.count - 1, 18), (g.wm, 23), (full, 32), (g.members, 64)]) ++
    (List.range g.count).flatMap fun i => laneBytes 4 w fun l => (VReg.at (g.regs.atD (g.first + i) {}) l).toNat

/-- A barrier as it is saved (R395). -/
def Barrier.bytes (b : Barrier) (lvl c i : Nat) : List Byte :=
  leBytes 16 (packBits [(lvl, 0), (i, 2), (c, 8), (bit b.gen, 16), (bit b.last, 17), (b.entry, 32), (b.exp.toNat, 64), (b.arr.toNat, 96)])

/-- The HOLE tokens of a request, ascending. -/
def PullEntry.holes (r : PullEntry) : List Nat :=
  sortBy (fun a b => a < b) (r.slots.filterMap fun k => (k.holeOf).map fun h => h.1)

/-- A request as it is saved (R309). -/
def PullEntry.bytes (r : PullEntry) : List Byte :=
  let hole (i : Nat) : Nat := match r.holes[i]? with
    | some t => 1024 + t
    | none => 0
  leBytes 32 (packBits
    [(r.off, 224), (r.len, 199), (r.gnext, 174), (hole 3, 163), (hole 2, 152), (hole 1, 141), (hole 0, 130),
     (min 1023 (r.orph / cyclesPerUs), 120), (r.sdev, 111), (r.score, 103), (r.sh, 97), (r.path, 95), (r.pri, 92), (r.dcore, 84),
     (r.dh, 78), (r.pfxl, 63), (1, 0)])

/-- Team areas one after another, each at the next 8 KiB boundary after the bytes before it (R395). -/
def alignAreas (bs : List Byte) : List (List Byte) → List Byte
  | [] => bs
  | a :: as => alignAreas (bs ++ List.replicate (roundUp bs.length 8192 - bs.length) 0 ++ a) as

/-- The area of a partition (R395). -/
def State.partArea (s : State) (p : Nat) : List Byte :=
  let q := s.part p
  let ts := s.teamsOf p
  let gs := s.groupsOf p
  let bs := s.barsOf p
  let rest := (gs.flatMap fun g => g.2.2.bytes_ g.1 g.2.1) ++ (bs.flatMap fun b => b.2.2.2.bytes b.1 b.2.1 b.2.2.1) ++
    leBytes 8 q.caller.toNat ++ q.savedRequests.flatMap PullEntry.bytes
  let all := (alignAreas (List.replicate 64 0) (ts.map fun e => (s.areaOf e.1 e.2.1 e.2.2).encode)) ++ rest
  leBytes 64 (packBits
    [(all.length, 448), (p, 445), (ts.length, 432), (gs.length, 424), (bs.length, 412), (q.savedRequests.length, 397)]) ++ all.drop 64

/-- A partition removed from the device: its teams, its share groups and its hold on barriers (R395); its Caller's requests stand in the area,
and those that arrive from now on do not (R308). -/
def State.removePart (s : State) (p : Nat) : State :=
  let bars := s.barsOf p
  let cores := ((s.teamsOf p).map fun e => e.1).eraseDups
  let s := (s.teamsOf p).foldl (fun s e => s.removeTeam e.1 e.2.1) s
  let s : State := { s with cores := s.cores.map fun e => (e.1, { e.2 with groups := e.2.groups.filter fun g => g.2.part != p }) }
  let s := bars.foldl (fun (s : State) b => s.setBar b.1 b.2.1 b.2.2.1 { b.2.2.2 with owned := false }) s
  cores.foldl State.drainCore (s.onPart p fun q => { q with
    saver := none, savedRequests := q.savedRequests.map fun r => { r with inArea := true } })

/-- A partition pre-empted: its Caller grants nothing more, its orphan clocks stop, and its teams stop (R308, R385). -/
def State.preempt (s : State) (p me : Nat) : State :=
  let stop (r : PullEntry) : PullEntry := { r with orph := r.clockAt s.clock, since := s.clock }
  let s := s.onPart p fun q => { q with
    requests := if q.preempted then q.requests else q.requests.map stop, preempted := true, saver := some me }
  (s.teamsOf p).foldl (fun s e => s.setTeam e.1 e.2.1 { e.2.2 with saver := e.2.2.saver.or (some me) }) s

def Ctx.savePart (cx : Ctx) (w : Nat) : Did :=
  let p := bits w 0 3
  let q := cx.s.part p
  if (match q.saver with
      | some n => n != cx.agent
      | none => false) || (cx.s.loads.any fun e => e.1 == p) then cx.refuse
  else
    let s := cx.s.preempt p cx.agent
    let ready := (s.teamsOf p).all fun e => e.2.2.saver == some cx.agent && s.saveReady e.1 e.2.1 e.2.2
    if ready && (s.part p).callerSaved then
      cx.writeArea s (areaAddr w) (s.partArea p) fun s => .done (cx.writeP15 (s.removePart p) fun _ => true) 0
    else .wait s .issue

/-- Whether an area word has a reserved bit set (R376). -/
def areaWordBad (w : Nat) (whole : Bool) : Bool := bits w 56 8 != 0 || (whole && bits w 3 10 != 0)

/-- `ctx.save` (R376). -/
def execCtxSave (d : Operand) (k : Bool) : State → Host.Outcome State Fault Refusal :=
  perform { ops := [d], priv := true, p15 := true, ok := fun cx => cx.isU d } fun cx =>
    cx.blockOn [d] fun cx =>
      let w := ((cx.read d).at_ 0).toNat
      if areaWordBad w k then cx.refuse else if k then cx.savePart w else cx.saveTeam w

end Sys2Proof.Machine
end

