-- ==== Sys2Proof/Machine/Scalar.lean ====
section
/-!
DEFINITION. Majors 0x01 to 0x13: integer arithmetic, logic, shifts, bit fields, addresses, immediates and moves (R187-R201).
-/

namespace Sys2Proof.Machine

/-! Widths (R188). -/

/-- An operation of one operand at 64 or at 32 bits. -/
def lift1 (f : (w : Nat) → BitVec w → BitVec w) (wide : Bool) (a : W64) : W64 :=
  if wide then f 64 a else (f 32 (a.setWidth 32)).setWidth 64

/-- An operation of two operands at 64 or at 32 bits. -/
def lift2 (f : (w : Nat) → BitVec w → BitVec w → BitVec w) (wide : Bool) (a b : W64) : W64 :=
  if wide then f 64 a b else (f 32 (a.setWidth 32) (b.setWidth 32)).setWidth 64

/-- Whether an instruction of some operands runs at 64 bits (R188). -/
def wideOps (os : List Operand) : Bool := os.all uniformOp

/-! Operations (R191-R197). -/

def mulhiSigned (w : Nat) (a b : BitVec w) : BitVec w := BitVec.ofInt w (a.toInt * b.toInt / (2 ^ w : Nat))

def mulhiUnsigned (w : Nat) (a b : BitVec w) : BitVec w := BitVec.ofNat w (a.toNat * b.toNat / 2 ^ w)

/-- R193. -/
def divSigned (w : Nat) (a b : BitVec w) : BitVec w := if b = 0 then BitVec.allOnes w else BitVec.ofInt w (a.toInt.tdiv b.toInt)

/-- R193. -/
def divUnsigned (w : Nat) (a b : BitVec w) : BitVec w := if b = 0 then BitVec.allOnes w else BitVec.ofNat w (a.toNat / b.toNat)

/-- R193. -/
def remSigned (w : Nat) (a b : BitVec w) : BitVec w := if b = 0 then a else BitVec.ofInt w (a.toInt.tmod b.toInt)

/-- R193. -/
def remUnsigned (w : Nat) (a b : BitVec w) : BitVec w := if b = 0 then a else BitVec.ofNat w (a.toNat % b.toNat)

/-- The amount of a shift (R195). -/
def amount (w : Nat) (b : BitVec w) : Nat := b.toNat % w

def shiftL (w : Nat) (a b : BitVec w) : BitVec w := a <<< amount w b

def shiftR (w : Nat) (a b : BitVec w) : BitVec w := a >>> amount w b

def shiftA (w : Nat) (a b : BitVec w) : BitVec w := a.sshiftRight (amount w b)

def rotL (w : Nat) (a b : BitVec w) : BitVec w := (a <<< amount w b) ||| (a >>> ((w - amount w b) % w))

def countZeros (w : Nat) (a : BitVec w) : BitVec w := BitVec.ofNat w (clzNat w a.toNat)

def countOnes (w : Nat) (a : BitVec w) : BitVec w := BitVec.ofNat w (popNat w a.toNat)

/-- The lowest `n` bits of a number in the opposite order, above an accumulator. -/
def reverseBits : Nat → Nat → Nat → Nat
  | 0, _, r => r
  | n + 1, v, r => reverseBits n (v / 2) (2 * r + v % 2)

def bitReverse (w : Nat) (a : BitVec w) : BitVec w := BitVec.ofNat w (reverseBits w a.toNat 0)

def firstSet (w : Nat) (a : BitVec w) : BitVec w :=
  match ffsNat w 0 a.toNat with
  | some i => BitVec.ofNat w i
  | none => BitVec.allOnes w

def minSigned (w : Nat) (a b : BitVec w) : BitVec w := if b.slt a then b else a

def maxSigned (w : Nat) (a b : BitVec w) : BitVec w := if a.slt b then b else a

def minUnsigned (w : Nat) (a b : BitVec w) : BitVec w := if b.ult a then b else a

def maxUnsigned (w : Nat) (a b : BitVec w) : BitVec w := if a.ult b then b else a

def andNot (w : Nat) (a b : BitVec w) : BitVec w := a &&& ~~~b

/-- The position p and the length n of a control word (R197). -/
def fieldOf (w : Nat) (c : Nat) : Nat × Nat :=
  let p := bits c 0 7
  (p, if p < w then min (bits c 8 7) (w - p) else 0)

def extractUnsigned (c : Nat) (w : Nat) (a : BitVec w) : BitVec w :=
  let (p, n) := fieldOf w c
  BitVec.ofNat w (bits a.toNat p n)

def extractSigned (c : Nat) (w : Nat) (a : BitVec w) : BitVec w :=
  let (p, n) := fieldOf w c
  let f := bits a.toNat p n
  if n ≠ 0 ∧ 2 ^ (n - 1) ≤ f then BitVec.ofInt w ((f : Int) - (2 ^ n : Nat)) else BitVec.ofNat w f

/-- The field of `a` put into `old` (R197). -/
def insertField (c : Nat) (w : Nat) (old a : BitVec w) : BitVec w :=
  let (p, n) := fieldOf w c
  let mask := BitVec.ofNat w ((2 ^ n - 1) * 2 ^ p)
  (old &&& ~~~mask) ||| ((a <<< p) &&& mask)

/-! Frames of the families. -/

/-- Two sources of V or U (R187). -/
def rules3 (d a b : Operand) : Rules :=
  { ops := [d, a, b], ok := fun cx => cx.dstVU d && cx.isVU a && cx.isVU b && noMix d [a, b]
    passes := fun cx => cx.passesFor [d, a, b] }

/-- One source of V or U (R187). -/
def rules2 (d a : Operand) : Rules :=
  { ops := [d, a], ok := fun cx => cx.dstVU d && cx.isVU a && noMix d [a], passes := fun cx => cx.passesFor [d, a] }

/-- Three sources of V or U, S3 in the modifier hint, with the modifier fields accepted (R192, R248). -/
def rules4 (d a b : Operand) (mods : ModHint → Bool) : Rules :=
  { ops := [d, a, b], mods := mods
    ok := fun cx => cx.dstVU d && cx.isVU a && cx.isVU b && cx.isVU cx.mods.s3 && noMix d [a, b, cx.mods.s3]
    passes := fun cx => cx.passesFor [d, a, b, cx.mods.s3] }

/-- An immediate in format B, with the extensions that it takes (R170, R199). -/
def rulesImm (d a : Operand) (exts : Nat) : Rules := { rules2 d a with exts := exts }

/-- A result of two operands that blocks on symbols (R190). -/
def Ctx.binary (cx : Ctx) (f : (w : Nat) → BitVec w → BitVec w → BitVec w) (d a b : Operand) : Did :=
  cx.compute d [a, b] fun cx l => lift2 f (wideOps [d, a, b]) ((cx.read a).at_ l) ((cx.read b).at_ l)

/-- A result of one operand that blocks on symbols. -/
def Ctx.unary (cx : Ctx) (f : (w : Nat) → BitVec w → BitVec w) (d a : Operand) : Did :=
  cx.compute d [a] fun cx l => lift1 f (wideOps [d, a]) ((cx.read a).at_ l)

/-- A result of an operand and an immediate that blocks on symbols. -/
def Ctx.immediate (cx : Ctx) (f : (w : Nat) → BitVec w → BitVec w → BitVec w) (d a : Operand) (k : W64) : Did :=
  cx.compute d [a] fun cx l => lift2 f (wideOps [d, a]) ((cx.read a).at_ l) k

/-- A saturating sum, with ISAT where a lane clamps (R191). -/
def Ctx.saturating (cx : Ctx) (f : (w : Nat) → BitVec w → BitVec w → BitVec w × Bool) (d a b : Operand) : Did :=
  if cx.destWaits d then .wait cx.s .issue
  else cx.blockOn [a, b] fun cx =>
    let wide := wideOps [d, a, b]
    let x := cx.read a
    let y := cx.read b
    let clamps (l : Nat) : Bool :=
      if wide then (f 64 (x.at_ l) (y.at_ l)).2 else (f 32 ((x.at_ l).setWidth 32) ((y.at_ l).setWidth 32)).2
    .done (cx.write cx.s d (fun l => lift2 (fun w p q => (f w p q).1) wide (x.at_ l) (y.at_ l)) noOrigin)
      (isatOf clamps)

/-- Whether an operand is a known uniform one, by which a product or a shift keeps forms and poison (R64, R190). -/
def Ctx.fixed (cx : Ctx) (u : Operand) : Bool := uniformOp u && !cx.symbolic u

/-- A product S × u (R190): by a known uniform operand, else a blocking use. -/
def Ctx.product (cx : Ctx) (d a b : Operand) : Did :=
  if cx.fixed b then cx.scaled d (cx.opd a) (cx.read b)
  else if cx.fixed a then cx.scaled d (cx.opd b) (cx.read a)
  else cx.binary (fun _ x y => x * y) d a b

/-- The factor of a shift to the left by a uniform amount (R64). -/
def shiftFactor (wide : Bool) (n : Val) : Val := n.map fun n => 1#64 <<< (n.toNat % (if wide then 64 else 32))

/-! Majors 0x01 to 0x03. -/

/-- `add` (R191). -/
def execAdd (d a b : Operand) : State → Host.Outcome State Fault Refusal :=
  perform (rules3 d a b) fun cx => cx.linear d false (cx.opd a) (cx.opd b)

/-- `sub` (R191). -/
def execSub (d a b : Operand) : State → Host.Outcome State Fault Refusal :=
  perform (rules3 d a b) fun cx => cx.linear d true (cx.opd a) (cx.opd b)

/-- `add.sat.i` (R191). -/
def execAddSatI (d a b : Operand) : State → Host.Outcome State Fault Refusal :=
  perform (rules3 d a b) fun cx => cx.saturating addSatSigned d a b

/-- `add.sat.n` (R191). -/
def execAddSatN (d a b : Operand) : State → Host.Outcome State Fault Refusal :=
  perform (rules3 d a b) fun cx => cx.saturating addSatUnsigned d a b

/-- `mul` (R192). -/
def execMul (d a b : Operand) : State → Host.Outcome State Fault Refusal :=
  perform (rules3 d a b) fun cx => cx.product d a b

/-- `mulhi.i` (R192). -/
def execMulhiI (d a b : Operand) : State → Host.Outcome State Fault Refusal :=
  perform (rules3 d a b) fun cx => cx.binary mulhiSigned d a b

/-- `mulhi.n` (R192). -/
def execMulhiN (d a b : Operand) : State → Host.Outcome State Fault Refusal :=
  perform (rules3 d a b) fun cx => cx.binary mulhiUnsigned d a b

/-- `mad` (R192); S3 stands in the modifier hint. -/
def execMad (d a b : Operand) : State → Host.Outcome State Fault Refusal :=
  perform (rules4 d a b fun m => m == { s3 := m.s3 }) fun cx =>
    let c := cx.mods.s3
    cx.compute d [a, b, c] fun cx l =>
      lift1 (fun _ x => x) (wideOps [d, a, b, c]) ((cx.read a).at_ l * (cx.read b).at_ l + (cx.read c).at_ l)

/-- `div.i` (R193). -/
def execDivI (d a b : Operand) : State → Host.Outcome State Fault Refusal :=
  perform (rules3 d a b) fun cx => cx.binary divSigned d a b

/-- `div.n` (R193). -/
def execDivN (d a b : Operand) : State → Host.Outcome State Fault Refusal :=
  perform (rules3 d a b) fun cx => cx.binary divUnsigned d a b

/-- `rem.i` (R193). -/
def execRemI (d a b : Operand) : State → Host.Outcome State Fault Refusal :=
  perform (rules3 d a b) fun cx => cx.binary remSigned d a b

/-- `rem.n` (R193). -/
def execRemN (d a b : Operand) : State → Host.Outcome State Fault Refusal :=
  perform (rules3 d a b) fun cx => cx.binary remUnsigned d a b

/-! Majors 0x04 to 0x07. -/

/-- `and` (R194). -/
def execAndOp (d a b : Operand) : State → Host.Outcome State Fault Refusal :=
  perform (rules3 d a b) fun cx => cx.binary (fun _ x y => x &&& y) d a b

/-- `or` (R194). -/
def execOrOp (d a b : Operand) : State → Host.Outcome State Fault Refusal :=
  perform (rules3 d a b) fun cx => cx.binary (fun _ x y => x ||| y) d a b

/-- `xor` (R194). -/
def execXorOp (d a b : Operand) : State → Host.Outcome State Fault Refusal :=
  perform (rules3 d a b) fun cx => cx.binary (fun _ x y => x ^^^ y) d a b

/-- `andn` (R194). -/
def execAndn (d a b : Operand) : State → Host.Outcome State Fault Refusal :=
  perform (rules3 d a b) fun cx => cx.binary andNot d a b

/-- `shl` (R195); by a uniform amount it keeps a form (R190). -/
def execShl (d a b : Operand) : State → Host.Outcome State Fault Refusal :=
  perform (rules3 d a b) fun cx =>
    if cx.fixed b then cx.scaled d (cx.opd a) (shiftFactor (wideOps [d, a, b]) (cx.read b))
    else cx.binary shiftL d a b

/-- `shr` (R195). -/
def execShr (d a b : Operand) : State → Host.Outcome State Fault Refusal :=
  perform (rules3 d a b) fun cx => cx.binary shiftR d a b

/-- `sar` (R195). -/
def execSar (d a b : Operand) : State → Host.Outcome State Fault Refusal :=
  perform (rules3 d a b) fun cx => cx.binary shiftA d a b

/-- `rotl` (R195). -/
def execRotl (d a b : Operand) : State → Host.Outcome State Fault Refusal :=
  perform (rules3 d a b) fun cx => cx.binary rotL d a b

/-- `clz` (R196). -/
def execClz (d a : Operand) : State → Host.Outcome State Fault Refusal :=
  perform (rules2 d a) fun cx => cx.unary countZeros d a

/-- `popc` (R196). -/
def execPopc (d a : Operand) : State → Host.Outcome State Fault Refusal :=
  perform (rules2 d a) fun cx => cx.unary countOnes d a

/-- `brev` (R196). -/
def execBrev (d a : Operand) : State → Host.Outcome State Fault Refusal :=
  perform (rules2 d a) fun cx => cx.unary bitReverse d a

/-- `ffs` (R196). -/
def execFfs (d a : Operand) : State → Host.Outcome State Fault Refusal :=
  perform (rules2 d a) fun cx => cx.unary firstSet d a

/-- `min.i` (R194). -/
def execMinI (d a b : Operand) : State → Host.Outcome State Fault Refusal :=
  perform (rules3 d a b) fun cx => cx.binary minSigned d a b

/-- `max.i` (R194). -/
def execMaxI (d a b : Operand) : State → Host.Outcome State Fault Refusal :=
  perform (rules3 d a b) fun cx => cx.binary maxSigned d a b

/-- `min.n` (R194). -/
def execMinN (d a b : Operand) : State → Host.Outcome State Fault Refusal :=
  perform (rules3 d a b) fun cx => cx.binary minUnsigned d a b

/-- `max.n` (R194). -/
def execMaxN (d a b : Operand) : State → Host.Outcome State Fault Refusal :=
  perform (rules3 d a b) fun cx => cx.binary maxUnsigned d a b

/-! Major 0x08. -/

/-- The fields that an extension of `bfx` or `bfi` must leave zero (R197). -/
def fieldExt (e : W64) : Bool := e.extractLsb' 15 9 == 0 && !e.getLsbD 7

def fieldRules (d a b : Operand) : Rules := { rules3 d a b with exts := if b == .zero then 1 else 0, extOk := fieldExt }

/-- The control word on a lane (R197). -/
def Ctx.control (cx : Ctx) (b : Operand) (l : Nat) : Nat := (if b = .zero then cx.ext else (cx.read b).at_ l).toNat

/-- `bfx.i` (R197). -/
def execBfxI (d a b : Operand) : State → Host.Outcome State Fault Refusal :=
  perform (fieldRules d a b) fun cx =>
    cx.compute d [a, b] fun cx l => lift1 (extractSigned (cx.control b l)) (wideOps [d, a, b]) ((cx.read a).at_ l)

/-- `bfx.n` (R197). -/
def execBfxN (d a b : Operand) : State → Host.Outcome State Fault Refusal :=
  perform (fieldRules d a b) fun cx =>
    cx.compute d [a, b] fun cx l => lift1 (extractUnsigned (cx.control b l)) (wideOps [d, a, b]) ((cx.read a).at_ l)

/-- `bfi` (R197); it reads D. -/
def execBfi (d a b : Operand) : State → Host.Outcome State Fault Refusal :=
  perform (fieldRules d a b) fun cx =>
    cx.compute d [d, a, b] fun cx l =>
      lift2 (insertField (cx.control b l)) (wideOps [d, a, b]) ((cx.read d).at_ l) ((cx.read a).at_ l)

def leaRules (d a b : Operand) : Rules :=
  { ops := [d, a, b], exts := 1, ok := fun cx => cx.dstEvenU d && cx.isU a && cx.isVU b && noMix d [b]
    passes := fun cx => cx.passesFor [d, a, b] }

/-- `lea` (R198). -/
def execLea (d a b : Operand) : State → Host.Outcome State Fault Refusal :=
  perform (leaRules d a b) fun cx =>
    if cx.destWaits64 d then .wait cx.s .issue
    else cx.blockOn [a, b] fun cx =>
      let x := cx.read a
      let y := cx.read b
      .done (cx.write64 cx.s d
        (fun l => x.at_ l + (y.at_ l <<< (cx.ext.extractLsb' 0 2).toNat) + cx.ext.sshiftRight 2) noOrigin) 0

/-! Majors 0x09 to 0x10 (R199). -/

/-- `addi`. -/
def execAddi (d a : Operand) (imm : BitVec 10) : State → Host.Outcome State Fault Refusal :=
  perform (rulesImm d a 2) fun cx => cx.linear d false (cx.opd a) (.known (.const (cx.immB imm)))

/-- `muli`. -/
def execMuli (d a : Operand) (imm : BitVec 10) : State → Host.Outcome State Fault Refusal :=
  perform (rulesImm d a 2) fun cx => cx.scaled d (cx.opd a) (.const (cx.immB imm))

/-- `andi`. -/
def execAndi (d a : Operand) (imm : BitVec 10) : State → Host.Outcome State Fault Refusal :=
  perform (rulesImm d a 2) fun cx => cx.immediate (fun _ x y => x &&& y) d a (cx.immB imm)

/-- `ori`. -/
def execOri (d a : Operand) (imm : BitVec 10) : State → Host.Outcome State Fault Refusal :=
  perform (rulesImm d a 2) fun cx => cx.immediate (fun _ x y => x ||| y) d a (cx.immB imm)

/-- `xori`. -/
def execXori (d a : Operand) (imm : BitVec 10) : State → Host.Outcome State Fault Refusal :=
  perform (rulesImm d a 2) fun cx => cx.immediate (fun _ x y => x ^^^ y) d a (cx.immB imm)

/-- `shli`. -/
def execShli (d a : Operand) (amt : BitVec 6) : State → Host.Outcome State Fault Refusal :=
  perform (rulesImm d a 0) fun cx => cx.scaled d (cx.opd a) (shiftFactor (wideOps [d, a]) (.const (amt.setWidth 64)))

/-- `shri`. -/
def execShri (d a : Operand) (amt : BitVec 6) : State → Host.Outcome State Fault Refusal :=
  perform (rulesImm d a 0) fun cx => cx.immediate shiftR d a (amt.setWidth 64)

/-- `sari`. -/
def execSari (d a : Operand) (amt : BitVec 6) : State → Host.Outcome State Fault Refusal :=
  perform (rulesImm d a 0) fun cx => cx.immediate shiftA d a (amt.setWidth 64)

/-! Majors 0x11 to 0x13 (R200, R201). -/

def moviRules (d : Operand) : Rules := { ops := [d], exts := 2, ok := fun cx => cx.dstVU d, passes := fun cx => cx.passesFor [d] }

/-- `movi` (R200). -/
def execMovi (d : Operand) (imm : BitVec 18) : State → Host.Outcome State Fault Refusal :=
  perform (moviRules d) fun cx =>
    cx.compute d [] fun cx _ => cx.immC imm

/-- The 16 bits that `sel` names replaced (R200). -/
def replace16 (old : W64) (sel : BitVec 2) (v : BitVec 16) : W64 :=
  (old &&& ~~~(0xFFFF#64 <<< (16 * sel.toNat))) ||| (v.setWidth 64 <<< (16 * sel.toNat))

def movkRules (d : Operand) (sel : BitVec 2) : Rules :=
  { ops := [d], ok := fun cx => cx.dstVU d && (!vectorOp d || decide (sel.toNat < 2)), passes := fun cx => cx.passesFor [d] }

/-- `movk` (R200); it reads D. -/
def execMovk (d : Operand) (sel : BitVec 2) (imm : BitVec 16) : State → Host.Outcome State Fault Refusal :=
  perform (movkRules d sel) fun cx =>
    cx.compute d [d] fun cx l => replace16 ((cx.read d).at_ l) sel imm

/-- A symbolic register copied: its form, of any kind (R64, R190). -/
def Ctx.copyForm (cx : Ctx) (d a : Operand) : Did :=
  match d, a with
  | .v n, .v m =>
    if !(cx.x.fullWrite n.val cx.act) || cx.x.entry.shared n.val then .wait cx.s .issue
    else
      let r := cx.vreg m.val
      .done (cx.s.setVreg cx.c cx.t n.val
        { r with lanes := laneTable cx.act fun l => r.at l, pois := originTable cx.act fun l => SMap.at? r.pois l }) 0
  | .v n, .w m =>
    let r := cx.x.ureg m.val
    if !r.flt then cx.writeForm d (r.sym.getD 0) r.scale 0 (cx.read a)
    else if !(cx.x.fullWrite n.val cx.act) || cx.x.entry.shared n.val then .wait cx.s .issue
    else .done (cx.s.setVreg cx.c cx.t n.val
      { st := .symbolic, sym := r.sym.getD 0, scale := r.scale.setWidth 32, flt := true
        lanes := laneTable cx.act fun _ => r.val.setWidth 32, pois := originTable cx.act fun _ => r.pois }) 0
  | .w n, .w m => if cx.destWaits d then .wait cx.s .issue else .done (cx.s.onTeam cx.c cx.t fun x => x.setUreg n.val (x.ureg m.val)) 0
  | .zero, _ => .done cx.s 0
  | _, _ => .wait cx.s .issue

/-- `mov` (R201). -/
def execMov (d a : Operand) : State → Host.Outcome State Fault Refusal :=
  perform (rules2 d a) fun cx => if cx.symbolic a then cx.copyForm d a else cx.writeKnown d (cx.read a)

/-- `cmov` (R201); it reads D. -/
def execCmov (d a b : Operand) : State → Host.Outcome State Fault Refusal :=
  perform (rules3 d a b) fun cx =>
    let wide := wideOps [d, a, b]
    cx.compute d [d, a, b] fun cx l =>
      if lift1 (fun _ x => x) wide ((cx.read b).at_ l) != 0 then (cx.read a).at_ l else (cx.read d).at_ l

/-- `p2v` (R201). -/
def execP2v (d a : Operand) : State → Host.Outcome State Fault Refusal :=
  perform { ops := [d, a], ok := fun cx => cx.dstV d && isP a } fun cx => cx.compute d [] fun cx l => (cx.read a).at_ l

/-- `v2p` (R201). -/
def execV2p (d a : Operand) : State → Host.Outcome State Fault Refusal :=
  perform { ops := [d, a], ok := fun cx => dstP d && cx.isVU a } fun cx =>
    cx.compute d [a] fun cx l => if (cx.read a).at_ l != 0 then 1 else 0

end Sys2Proof.Machine
end

