-- ==== Sys2Proof/Machine/Predicates.lean ====
section
/-!
DEFINITION. Majors 0x14 to 0x17: compares and predicates (R202-R204).
-/

namespace Sys2Proof.Machine

def cmpRules (d a b : Operand) : Rules := { ops := [d, a, b], ok := fun cx => dstP d && cx.isVU a && cx.isVU b }

/-- A test of two operands, on 64 bits when both are uniform (R202). -/
def Ctx.test (cx : Ctx) (f : (w : Nat) → BitVec w → BitVec w → Bool) (d a b : Operand) : Did :=
  cx.compute d [a, b] fun cx l =>
    let x := (cx.read a).at_ l
    let y := (cx.read b).at_ l
    if (if wideOps [a, b] then f 64 x y else f 32 (x.setWidth 32) (y.setWidth 32)) then 1 else 0

/-- `cmp.eq` (R202). -/
def execCmpEq (d a b : Operand) : State → Host.Outcome State Fault Refusal :=
  perform (cmpRules d a b) fun cx => cx.test (fun _ x y => x == y) d a b

/-- `cmp.ne` (R202). -/
def execCmpNe (d a b : Operand) : State → Host.Outcome State Fault Refusal :=
  perform (cmpRules d a b) fun cx => cx.test (fun _ x y => x != y) d a b

/-- `cmp.lt.i` (R202). -/
def execCmpLtI (d a b : Operand) : State → Host.Outcome State Fault Refusal :=
  perform (cmpRules d a b) fun cx => cx.test (fun _ x y => x.slt y) d a b

/-- `cmp.le.i` (R202). -/
def execCmpLeI (d a b : Operand) : State → Host.Outcome State Fault Refusal :=
  perform (cmpRules d a b) fun cx => cx.test (fun _ x y => x.sle y) d a b

/-- `cmp.lt.n` (R202). -/
def execCmpLtN (d a b : Operand) : State → Host.Outcome State Fault Refusal :=
  perform (cmpRules d a b) fun cx => cx.test (fun _ x y => x.ult y) d a b

/-- `cmp.le.n` (R202). -/
def execCmpLeN (d a b : Operand) : State → Host.Outcome State Fault Refusal :=
  perform (cmpRules d a b) fun cx => cx.test (fun _ x y => x.ule y) d a b

/-- `tst` (R202). -/
def execTst (d a b : Operand) : State → Host.Outcome State Fault Refusal :=
  perform (cmpRules d a b) fun cx => cx.test (fun _ x y => x &&& y != 0) d a b

/-- `tstz` (R202). -/
def execTstz (d a b : Operand) : State → Host.Outcome State Fault Refusal :=
  perform (cmpRules d a b) fun cx => cx.test (fun _ x y => x &&& y == 0) d a b

/-! Predicates (R203, R204). -/

def predRules (d a b : Operand) : Rules := { ops := [d, a, b], ok := fun _ => dstP d && isPz a && isPz b }

/-- Two predicates combined bit by bit; 0xFF reads 0. -/
def Ctx.combine (cx : Ctx) (f : W64 → W64 → W64) (d a b : Operand) : Did :=
  cx.compute d [] fun cx l => f ((cx.read a).at_ l) ((cx.read b).at_ l)

/-- `pand` (R203). -/
def execPand (d a b : Operand) : State → Host.Outcome State Fault Refusal :=
  perform (predRules d a b) fun cx => cx.combine (fun x y => x &&& y) d a b

/-- `por` (R203). -/
def execPor (d a b : Operand) : State → Host.Outcome State Fault Refusal :=
  perform (predRules d a b) fun cx => cx.combine (fun x y => x ||| y) d a b

/-- `pxor` (R203). -/
def execPxor (d a b : Operand) : State → Host.Outcome State Fault Refusal :=
  perform (predRules d a b) fun cx => cx.combine (fun x y => x ^^^ y) d a b

/-- `pandn` (R203). -/
def execPandn (d a b : Operand) : State → Host.Outcome State Fault Refusal :=
  perform (predRules d a b) fun cx => cx.combine (fun x y => x &&& ~~~y) d a b

/-- `pset` (R204). -/
def execPset (d : Operand) : State → Host.Outcome State Fault Refusal :=
  perform { ops := [d], ok := fun _ => dstP d } fun cx => cx.compute d [] fun _ _ => 1

/-- `pclr` (R204). -/
def execPclr (d : Operand) : State → Host.Outcome State Fault Refusal :=
  perform { ops := [d], ok := fun _ => dstP d } fun cx => cx.compute d [] fun _ _ => 0

/-- The active lanes on which a predicate operand is 1. -/
def Ctx.holds (cx : Ctx) : Operand → Mask
  | .p n => cx.act &&& cx.x.pred n.val
  | .zero => cx.act
  | _ => 0

/-- `pfirst` (R204). -/
def execPfirst (d a : Operand) : State → Host.Outcome State Fault Refusal :=
  perform { ops := [d, a], ok := fun _ => dstP d && isP a } fun cx =>
    let m := cx.holds a
    cx.compute d [] fun _ l => if m != 0 && l == lowLane m then 1 else 0

/-- `pcnt` (R204). -/
def execPcnt (d a : Operand) : State → Host.Outcome State Fault Refusal :=
  perform { ops := [d, a], ok := fun cx => cx.dstVU d && isP a } fun cx =>
    cx.compute d [] fun cx _ => BitVec.ofNat 64 (laneCount (cx.holds a))

end Sys2Proof.Machine
end

