-- ==== Sys2Proof/Machine/Control.lean ====
section
/-!
DEFINITION. Majors 0x18 to 0x1D: branches, calls, joins and item control (R47, R48, R205-R213), with the events of held lanes,
of the join fallback and of a splinter that has not issued.
-/

namespace Sys2Proof.Machine

/-! Splinters divided (R47). -/

/-- The places that a team has for the parts of one of its splinters. -/
def Team.roomFor (x : Team) (n : Nat) : Nat := 16 - ((x.numbered.filter fun e => e.1 != n && e.2.counts).length)

/-- A splinter replaced by its parts: as many as there are places go on, the lanes of the others are held at the instruction
(R47). -/
def Team.splitAt (x : Team) (n : Nat) (p : Splinter) (parts : List (Mask × Splinter)) : Team :=
  let parts := parts.filter fun e => e.1 != 0
  let room := x.roomFor n
  let left := (parts.drop room).foldl (fun m e => m ||| e.1) 0
  let new := (parts.take room).map (fun e => { e.2 with mask := e.1 }) ++
    (if left == 0 then [] else [{ p with mask := left, st := .held false }])
  { x with splinters := x.splinters.take n ++ new.take 1 ++ x.splinters.drop (n + 1) ++ new.drop 1 }

/-- The issuing splinter's lanes go on in parts, after some passes; a team in system mode is one lane. -/
def Ctx.divide (cx : Ctx) (s : State) (passes : Nat) (parts : List (Mask × Splinter)) : State :=
  s.onTeam cx.c cx.t fun x =>
    match x.sys with
    | some y =>
      let p := ((parts.find? fun e => e.1 != 0).map fun e => e.2).getD cx.p
      { x with sys := some (y.goTo p.pc p.half) }
    | none =>
      let x := x.idleOthers cx.n (passes + cx.expansions s)
      x.splitAt cx.n { cx.p with idle := 0, due := false, st := .able } parts

/-- The issuing splinter as it goes on at an address. -/
def Ctx.at_ (cx : Ctx) (pc : W64) : Splinter := { cx.p.goTo pc false with idle := 0, due := false }

/-- The issuing splinter as it goes on behind the instruction. -/
def Ctx.onward (cx : Ctx) : Splinter := { cx.p.goTo cx.next cx.nextHalf with idle := 0, due := false }

/-! Branches and calls (R205, R206). -/

/-- The target of a word in format J (R176). -/
def Ctx.target (cx : Ctx) (off : BitVec 18) : W64 := cx.base + 4 * off.signExtend 64

/-- The taken lanes of a branch go to the target, all others to the next word (R205). -/
def Ctx.branch (cx : Ctx) (s : State) (cond : Operand) (off : BitVec 18) : Did :=
  let taken := cx.holds cond
  .moved (cx.divide s cx.wordPasses [(taken, cx.at_ (cx.target off)), (cx.p.mask &&& ~~~taken, cx.onward)])

/-- `br` (R205). -/
def execBr (cond : Operand) (off : BitVec 18) : State → Host.Outcome State Fault Refusal :=
  perform { ops := [cond], ok := fun _ => isPz cond } fun cx => cx.branch cx.s cond off

/-- `call` (R205): w62 is its destination, which the taken lanes write (R66). -/
def execCall (cond : Operand) (off : BitVec 18) : State → Host.Outcome State Fault Refusal :=
  perform { ops := [cond], ok := fun cx => isPz cond && cx.uOk 62 } fun cx =>
    let taken := cx.holds cond
    if taken != 0 && Ctx.destWaits { cx with act := taken } (.w 62) then .wait cx.s .issue
    else cx.branch (if taken = 0 then cx.s else cx.s.writeU cx.c cx.t 62 cx.link none) cond off

/-- The groups of the active lanes by their target, in ascending order of it (R206). -/
def targetGroups (act : Mask) (v : Nat → W64) : List (Mask × W64) :=
  let ts := sortBy (fun (a b : W64) => a.ult b) (((lanesOf act).map v).eraseDups)
  ts.map fun t => (maskWhere act fun l => v l == t, t)

/-- The lanes of the parts for which there is a place (R47). -/
def Ctx.placed (cx : Ctx) (parts : List (Mask × Splinter)) : Mask :=
  let room := if cx.sys then 1 else cx.x.roomFor cx.n
  ((parts.filter fun e => e.1 != 0).take room).foldl (fun m e => m ||| e.1) 0

/-- A jump to a computed target, in some passes; the link is written on the lanes that go (R206), and a write of part of a symbolic
register waits for it (R66). -/
def Ctx.jump (cx : Ctx) (passes : Nat) (d a : Operand) : Did :=
  if cx.destWaits64 d then .wait cx.s .issue
  else cx.blockOn64 [a] fun cx =>
    let v := (cx.read64 a).at_
    let bad := maskWhere cx.act fun l => (v l).extractLsb' 0 2 != 0
    if bad != 0 then .trap cx.s .align 0 (some (v (lowLane bad))) bad
    else
      let parts := (cx.p.mask &&& ~~~cx.act, cx.onward) :: (targetGroups cx.act v).map fun g => (g.1, cx.at_ g.2)
      let went := cx.act &&& cx.placed parts
      if went != cx.act && Ctx.destWaits64 { cx with act := went } d then .wait cx.s .issue
      else
        let s := if went = 0 then cx.s else Ctx.write64 { cx with act := went } cx.s d (fun _ => cx.link) noOrigin
        .moved (cx.divide s passes parts)

/-- `brx` (R206). -/
def execBrx (a : Operand) : State → Host.Outcome State Fault Refusal :=
  perform { ops := [a], ok := fun cx => cx.isEvenU a } fun cx => cx.jump cx.wordPasses .zero a

/-- `ret` (R206). -/
def execRet (a : Operand) : State → Host.Outcome State Fault Refusal :=
  perform { ops := [a], ok := fun cx => cx.isEvenU a } fun cx => cx.jump cx.wordPasses .zero a

def callxRules (d a : Operand) : Rules :=
  { ops := [d, a], ok := fun cx => cx.dstEvenU d && cx.isEvenU a && noMix d [a], passes := fun cx => cx.passesFor [d, a] }

/-- `callx` (R206). -/
def execCallx (d a : Operand) : State → Host.Outcome State Fault Refusal :=
  perform (callxRules d a) fun cx => cx.jump (cx.passesFor [d, a]) d a

/-! Joins (R48, R208-R210). -/

/-- The lanes that wait on a join register. -/
def Splinter.waitsOn (p : Splinter) (j : Nat) : Bool :=
  match p.st with
  | .joinWait i _ => i == j
  | _ => false

/-- The label of a splinter that waits at a join. -/
def Splinter.label (p : Splinter) : W64 :=
  match p.st with
  | .joinWait _ l => l
  | _ => 0

/-- The waiting lanes of a join register released as the splinters that they are, each at its label; the register becomes empty (R209). -/
def Team.freeJoin (x : Team) (j : Nat) : Team :=
  { x with
    joins := SMap.del x.joins j
    splinters := x.splinters.map fun p => if p.waitsOn j then { pc := p.label, mask := p.mask } else p }

/-- The waiting lanes of a join register released, grouped by their labels; the register becomes empty (R210). -/
def Team.releaseJoin (x : Team) (j : Nat) : Team :=
  let waiting := x.splinters.filter fun p => p.waitsOn j
  let labels := sortBy (fun (a b : W64) => a.ult b) ((waiting.map Splinter.label).eraseDups)
  let groups := labels.map fun l =>
    ({ pc := l, mask := (waiting.filter fun p => p.label == l).foldl (fun m p => m ||| p.mask) 0 } : Splinter)
  { x with joins := SMap.del x.joins j, splinters := (x.splinters.filter fun p => !p.waitsOn j) ++ groups }

/-- The lanes that wait on a join register. -/
def Team.waiters (x : Team) (j : Nat) : Mask :=
  (x.splinters.filter fun p => p.waitsOn j).foldl (fun m p => m ||| p.mask) 0

/-- Every join whose live expected lanes all wait completes (R210). -/
def Team.settleJoins (x : Team) : Team :=
  (List.range 8).foldl (fun x j =>
    let w := x.waiters j
    if w != 0 && SMap.atD x.joins j 0 &&& x.live &&& ~~~w == 0 then x.releaseJoin j else x) x

/-- The order that a completed join gives within its team, as a marker: what the lanes have issued comes before what follows the label (R167). -/
def joinMarker (x : Team) : Access :=
  { pc := ((x.splinters.find? fun p => (List.range 8).any p.waitsOn).getD {}).pc, word := (encode (.fence 15 15 .team)).getD 0
    op := .fence 15 15, lanes := x.live, scope := .team, part := x.part, order := x.orderCtr }

/-- The joins of a team completed; where accesses of the team still wait, what follows a completed join stands behind them (R167, R210, log
entry 23). -/
def State.settleJoins (s : State) (c t : Nat) : State :=
  match s.team? c t with
  | none => s
  | some x =>
    let y := x.settleJoins
    let s := s.setTeam c t y
    if y.splinters == x.splinters || (s.waitingOf c t).all (fun e => e.op.marks || e.sys) then s
    else (s.nextOrder c t).queueAccess c t (joinMarker x)

/-- The join register that an operand names. -/
def joinOf : Operand → Nat
  | .j n => n.val
  | _ => 0

def isJ : Operand → Bool
  | .j _ => true
  | _ => false

def joinRules (d : Operand) (srcs : List Operand) : Rules :=
  { ops := d :: srcs, inSys := false, ok := fun _ => isJ d && srcs.all isPz }

/-- The state after the splinter has gone on and the team's joins have changed. -/
def Ctx.joined (cx : Ctx) (f : Team → Team) : State := (cx.retire cx.s cx.wordPasses).onTeam cx.c cx.t f

/-- A change of the team's joins, after the splinter has gone on. -/
def Ctx.changeJoins (cx : Ctx) (f : Team → Team) : Did := .moved (cx.joined f)

/-- `join.set` (R209). -/
def execJoinSet (d a : Operand) : State → Host.Outcome State Fault Refusal :=
  perform (joinRules d [a]) fun cx =>
    cx.changeJoins fun x =>
      let x := x.freeJoin (joinOf d)
      { x with joins := SMap.store 0 x.joins (joinOf d) (cx.holds a) }

/-- `join.add` (R209). -/
def execJoinAdd (d a : Operand) : State → Host.Outcome State Fault Refusal :=
  perform (joinRules d [a]) fun cx =>
    cx.changeJoins fun x => { x with joins := SMap.store 0 x.joins (joinOf d) (SMap.atD x.joins (joinOf d) 0 ||| cx.holds a) }

/-- `join.clr` (R209). -/
def execJoinClr (d : Operand) : State → Host.Outcome State Fault Refusal :=
  perform (joinRules d []) fun cx => cx.changeJoins fun x => x.freeJoin (joinOf d)

/-- `join.rem` (R209). -/
def execJoinRem (d a : Operand) : State → Host.Outcome State Fault Refusal :=
  perform (joinRules d [a]) fun cx =>
    .moved ((cx.joined fun x =>
      { x with joins := SMap.store 0 x.joins (joinOf d) (SMap.atD x.joins (joinOf d) 0 &&& ~~~cx.holds a) }).settleJoins cx.c cx.t)

/-- `join.arr` (R210): expected lanes wait, lanes that fail the guard go on, the others go to the label; where places are wanting,
lanes of the later of these parts are held (R47). -/
def execJoinArr (cond : Operand) (off : BitVec 18) : State → Host.Outcome State Fault Refusal :=
  perform (joinRules cond []) fun cx =>
    let label := cx.target off
    let e := SMap.atD cx.x.joins (joinOf cond) 0
    let waits : Splinter := { cx.p with st := .joinWait (joinOf cond) label, armed := none, idle := 0, due := false }
    let s := cx.divide cx.s cx.wordPasses
      [(cx.act &&& e, waits), (cx.p.mask &&& ~~~cx.act, cx.onward), (cx.act &&& ~~~e, cx.at_ label)]
    .moved (s.settleJoins cx.c cx.t)

/-! Item control (R211-R213). -/

/-- Lanes leave their team (R46, R48, R211): they leave every expected set, items that have lost their last lane are settled,
and a team without lanes ends. -/
def State.leave (s : State) (c t : Nat) (m : Mask) : State :=
  let s := s.onTeam c t fun x => { x with
    joins := (x.joins.map fun e => (e.1, e.2 &&& ~~~m)).filter fun e => e.2 != 0
    splinters := (x.splinters.map fun p => { p with mask := p.mask &&& ~~~m }).filter fun p => p.mask != 0 }
  let s := s.settleItems c t
  match s.team? c t with
  | none => s
  | some x => if x.splinters.isEmpty then s.endTeam c t else s.settleJoins c t

/-- `exit` (R211); a team formed in system mode ends (R357). -/
def execExitLanes : State → Host.Outcome State Fault Refusal :=
  perform { ops := [.lane], trapped := false } fun cx =>
    if cx.sys then .gone (cx.s.leaveTrap cx.c cx.t)
    else .moved ((cx.retire cx.s cx.wordPasses).leave cx.c cx.t cx.act)

/-- `refill` (R212). -/
def execRefill : State → Host.Outcome State Fault Refusal :=
  perform { inSys := false } fun cx => .done (cx.s.refill cx.c cx.t cx.n) 0

/-- `yield` (R213): the quarter's greedy run on the team ends. -/
def execYield : State → Host.Outcome State Fault Refusal :=
  perform {} fun cx => .done (cx.s.onCore cx.c fun k => { k with last := SMap.del k.last cx.x.quarter }) 0

/-- `nop` (R213). -/
def execNop : State → Host.Outcome State Fault Refusal :=
  perform {} fun cx => .done cx.s 0

/-! Events of splinters. -/

/-- Whether a team's splinters may change by themselves: it is neither trapped nor in system mode. -/
def Team.steady (x : Team) : Bool := x.trap.isNone && !x.inSys

/-- A held splinter that is retried: its instruction issues again, or, held at `flow.set`, it waits for its token or has it
(R43, R47). -/
def Team.retryHeld (x : Team) (p : Splinter) : Splinter :=
  match p.st with
  | .held false => { p with st := .able }
  | .held true =>
    if x.items.any fun i => !i.ended && i.wtok && i.mask &&& p.mask != 0 then { p with st := .waiting .token }
    else { p with st := .waiting .tokenDone }
  | _ => p

/-- The held splinter that is retried, where there is a place for it: the one that was held first. -/
def Team.heldReady (x : Team) : Option Nat :=
  if !x.steady || 16 ≤ x.splinterCount then none else indexOf? (fun p => !p.counts) x.splinters

/-- `held_lanes_retry` (R47). -/
def execHeldLanesRetry (core slot : Nat) (s : State) : Host.Outcome State Fault Refusal :=
  .next (s.onTeam core slot fun x => match x.heldReady with
    | none => x
    | some n => { x with splinters := modAt x.retryHeld x.splinters n })

/-- The join that the fallback releases, where no splinter of the team can run (R48): the lowest-numbered that lanes wait on. -/
def Team.fallback (x : Team) : Option Nat :=
  if !x.steady || x.splinters.any Splinter.running then none else (List.range 8).find? fun j => x.waiters j != 0

/-- `join_fallback` (R48, R210). -/
def execJoinFallback (core slot : Nat) (s : State) : Host.Outcome State Fault Refusal :=
  .next (s.onTeam core slot fun x => match x.fallback with
    | none => x
    | some j => x.releaseJoin j)

/-- `splinter_starvation` (R47). -/
def execSplinterStarvation (core slot : Nat) (s : State) : Host.Outcome State Fault Refusal :=
  .next (s.onTeam core slot Team.markSplinters)

/-- `team_starvation` (R140). -/
def execTeamStarvation (core quarter : Nat) (s : State) : Host.Outcome State Fault Refusal :=
  .next (s.markTeams core quarter)

end Sys2Proof.Machine
end

