-- ==== Sys2Proof/Machine/Enqueue.lean ====
section
/-!
DEFINITION. Major 0x2B: enqueueing (R29, R241), dependency counters (R141, R242), the deadline heap and admission (R142-R144,
R243).
-/

namespace Sys2Proof.Machine

/-! Enqueueing (R241). -/

/-- The partition of an offered record: PART where PV is set, else the system's or the team's own (R360, R361). -/
def Ctx.offerPart (cx : Ctx) (r : ItemRecord) : Nat := if cx.sys then (if r.pv then r.part else 8) else cx.x.part

/-- A lane's record as it is offered; `enq` takes CV as 0. -/
def Ctx.recordAt (cx : Ctx) (waits : Bool) (l : Nat) : ItemRecord × Bool :=
  let (r, z) := ItemRecord.decode (leNat (cx.got l))
  (if waits then r else { r with cv := false }, z)

/-- Whether a lane's record is accepted (R29, R241). -/
def Ctx.accepts (cx : Ctx) (waits : Bool) (l : Nat) : Bool :=
  let (r, z) := cx.recordAt waits l
  cx.s.itemOk r z cx.sys waits (cx.offerPart r) && (!waits || r.cv)

/-- The items of lanes enqueued in order: the state, and the lanes that a full window holds back (R35). -/
def Ctx.enqueueLanes (cx : Ctx) (waits : Bool) (s : State) : List Nat → State × List Nat
  | [] => (s, [])
  | l :: ls =>
    let r := (cx.recordAt waits l).1
    let p := cx.offerPart r
    if s.flowRoom p r.flow then cx.enqueueLanes waits (s.enqueue r p) ls else (s, l :: ls)

/-- `enq` and `enq.w`: a full window stalls the team (R35). -/
def Ctx.offerItems (cx : Ctx) (x y : Operand) (waits : Bool) : Did :=
  cx.behind 0 fun cx => cx.blockOn [x, y] fun cx =>
    let idx := cx.read y
    let addr (l : Nat) : W64 := (cx.read x).at_ 0 + idx.at_ l * 64
    let bad := maskWhere cx.act fun l => (addr l).extractLsb' 0 6 != 0
    if bad != 0 then .trap cx.s .align 0 (some (addr (lowLane bad))) bad
    else cx.awaitAccess (cx.ownAccess (.record 64) cx.act addr) fun cx =>
      cx.soundReads addr fun cx =>
        let refused := maskWhere cx.act fun l => !cx.accepts waits l
        if refused != 0 then .trap cx.s .item 0 none refused
        else
          let (s, left) := cx.enqueueLanes waits cx.s (lanesOf cx.act)
          if left = [] then .done s 0 else .wait (cx.markDone s (cx.act &&& ~~~maskOf left)) .team

def enqRules (x y : Operand) : Rules := { ops := [x, y, .lane], ok := fun cx => cx.isU x && cx.isVU y }

/-- `enq` (R241). -/
def execEnq (x y : Operand) : State → Host.Outcome State Fault Refusal :=
  perform (enqRules x y) fun cx => cx.offerItems x y false

/-- `enq.w` (R241). -/
def execEnqW (x y : Operand) : State → Host.Outcome State Fault Refusal :=
  perform (enqRules x y) fun cx => cx.offerItems x y true

/-! Counters (R141, R242). -/

/-- Whether a team may operate on a counter (R141, R361). -/
def Ctx.counterOk (cx : Ctx) (n : Nat) : Bool := decide (n < 65536) && (cx.sys || cx.s.ownsCounter cx.x.part n)

/-- An operation on the counter of each active lane, in order. -/
def Ctx.count_ (cx : Ctx) (x y : Operand) (f : Counter → Nat → Counter) : Did :=
  cx.behind 0 fun cx => cx.blockOn [x, y] fun cx =>
    let n (l : Nat) : Nat := ((cx.read x).at_ l).toNat
    let bad := maskWhere cx.act fun l => !cx.counterOk (n l)
    if bad != 0 then .trap cx.s .item 0 none bad
    else
      .done ((lanesOf cx.act).foldl (fun (s : State) l =>
        s.setCounter (n l) (f (s.counter (n l)) ((cx.read y).at_ 0).toNat)) cx.s) 0

def cntRules (x y : Operand) : Rules := { ops := [x, y, .lane], ok := fun cx => cx.isVU x && cx.isU y }

/-- `cnt.set` (R242). -/
def execCntSet (x y : Operand) : State → Host.Outcome State Fault Refusal :=
  perform (cntRules x y) fun cx => cx.count_ x y fun _ v => { count := BitVec.ofNat 32 v }

/-- `cnt.add` (R242); an operand of 0xFF stands for 1 (R240). -/
def execCntAdd (x y : Operand) : State → Host.Outcome State Fault Refusal :=
  perform (cntRules x y) fun cx => cx.count_ x y fun k v => k.add (if y = .zero then 1 else v)

/-- `cnt.dec` (R242); an operand of 0xFF stands for 1 (R240). -/
def execCntDec (x y : Operand) : State → Host.Outcome State Fault Refusal :=
  perform (cntRules x y) fun cx => cx.count_ x y fun k v => k.dec (if y = .zero then 1 else v)

/-- A counter as `cnt.q` reads it. -/
def Counter.word (k : Counter) : W64 :=
  BitVec.ofNat 64 ((if k.sat then 2 ^ 33 else 0) + (if k.und then 2 ^ 32 else 0) + k.count.toNat)

/-- `cnt.q` (R242): X names the counter, Y is the destination. -/
def execCntQ (x y : Operand) : State → Host.Outcome State Fault Refusal :=
  perform { ops := [x, y], ok := fun cx => cx.isU x && cx.dstU y } fun cx =>
    cx.behind 0 fun cx => if cx.destWaits y then .wait cx.s .issue else cx.blockOn [x] fun cx =>
      let n := ((cx.read x).at_ 0).toNat
      if !cx.counterOk n then .trap cx.s .item 0 none (laneBit (lowLane cx.act))
      else .done (cx.write cx.s y (fun _ => (cx.s.counter n).word) noOrigin) 0

/-! The deadline heap (R142). -/

/-- Whether a heap entry is that of a flow. -/
def HeapEntry.of (h : HeapEntry) (p label : Nat) : Bool := h.part == p && h.flow == label

/-- An entry inserted, or replaced where it stands; none beyond the heap's or the partition's room (R142). -/
def State.heapInsert (s : State) (p label : Nat) (v : W64) : Option State :=
  let e : HeapEntry := { deadline := v.extractLsb' 16 48, cost := v.extractLsb' 0 16, part := p, flow := label }
  if s.heap.any fun h => h.of p label then some { s with heap := s.heap.map fun h => if h.of p label then e else h }
  else if 16384 ≤ s.heap.length || (s.part p).heapq ≤ (s.heap.filter fun h => h.part == p).length then none
  else some { s with heap := s.heap ++ [e] }

/-- An entry removed; none where there is none (R142). -/
def State.heapRemove (s : State) (p label : Nat) : Option State :=
  if s.heap.any fun h => h.of p label then some { s with heap := s.heap.filter fun h => !h.of p label } else none

/-- An operation that succeeds or not on each lane in order: the state, and where it succeeded. -/
def eachLane (f : State → Nat → Option State) (s : State) : List Nat → State × SMap Bool
  | [] => (s, [])
  | l :: ls => match f s l with
    | none => let (s, r) := eachLane f s ls; (s, (l, false) :: r)
    | some s => let (s, r) := eachLane f s ls; (s, (l, true) :: r)

/-- A heap operation on each active lane, with p15. -/
def Ctx.heapOp (cx : Ctx) (os : List Operand) (f : Ctx → State → Nat → Option State) : Did :=
  cx.behind 0 fun cx => cx.blockOn os fun cx =>
    let (s, ok) := eachLane (f cx) cx.s (lanesOf cx.act)
    .done (cx.writeP15 s fun l => SMap.atD ok l false) 0

/-- The flow label of a lane. -/
def Ctx.labelAt (cx : Ctx) (x : Operand) (l : Nat) : Nat := ((cx.read x).at_ l).toNat % 2 ^ 32

/-- `heap.ins` (R142, R243). -/
def execHeapIns (x y : Operand) : State → Host.Outcome State Fault Refusal :=
  perform { ops := [x, y, .lane], ok := fun cx => cx.isVU x && cx.isU y, p15 := true } fun cx =>
    cx.heapOp [x, y] fun cx s l => s.heapInsert cx.part (cx.labelAt x l) ((cx.read y).at_ 0)

/-- `heap.rm` (R142, R243). -/
def execHeapRm (x : Operand) : State → Host.Outcome State Fault Refusal :=
  perform { ops := [x, .lane], ok := fun cx => cx.isVU x, p15 := true } fun cx =>
    cx.heapOp [x] fun cx s l => s.heapRemove cx.part (cx.labelAt x l)

/-! Admission (R143, R144, R243). -/

/-- The entries admitted of a list in deadline order, while their costs and their number fit (R143). -/
def admitFrom (budget room : Nat) : List HeapEntry → List HeapEntry
  | [] => []
  | h :: hs => if room = 0 || budget < h.cost.toNat then [] else h :: admitFrom (budget - h.cost.toNat) (room - 1) hs

/-- The entries that `admit` takes for a partition (R143). -/
def State.admitted (s : State) (p room : Nat) : List HeapEntry :=
  admitFrom ((s.part p).tokbud.toNat % 2 ^ 32) room
    (sortBy (fun (a b : HeapEntry) => a.deadline.ult b.deadline) (s.heap.filter fun h => h.part == p))

/-- A word stored as a store of a lane, in its turn among the team's accesses (R108). -/
def Ctx.storeWord (cx : Ctx) (s : State) (l : Nat) (a : W64) (v : Nat) : State :=
  let n := ((s.team? cx.c cx.t).getD {}).orderCtr
  let q : Access :=
    { cx.ownAccess (.store 4) (laneBit l) (fun _ => a) with direct := false, data := .const (BitVec.ofNat 64 v), order := n }
  let r := (s.nextOrder cx.c cx.t).passAccess cx.who cx.t q none false
  if r.left = 0 then r.s else r.s.queueAccess cx.c cx.t { q with lanes := r.left }

/-- One lane's admission: the labels, then their number, are stored (R243). -/
def Ctx.admitLane (cx : Ctx) (a : W64) (room : Nat) (s : State) (l : Nat) : State :=
  let hs := s.admitted cx.part room
  let s : State := { s with heap := s.heap.filter fun h => !hs.contains h }
  let s := ((List.range hs.length).zip hs).foldl (fun s e => cx.storeWord s l (a + BitVec.ofNat 64 (4 + 4 * e.1)) e.2.flow) s
  cx.storeWord s l a hs.length

/-- The key under which a splinter notes that a lane has made its admission. -/
def admittedKey (l : Nat) : Nat := 1024 + l

/-- A lane's admission made, unless the instruction has made it before it waited for its list. -/
def Ctx.admitOnce (cx : Ctx) (a : W64) (room : Nat) (s : State) (l : Nat) : State :=
  if (cx.p.reads.at? (admittedKey l)).isSome then s
  else
    let note (m : SMap (List Byte)) : SMap (List Byte) := m.put (admittedKey l) []
    (cx.admitLane a room s l).onTeam cx.c cx.t fun x =>
      match x.sys with
      | some y => { x with sys := some { y with reads := note y.reads } }
      | none => { x with splinters := modAt (fun p => { p with reads := note p.reads }) x.splinters cx.n }

/-- Whether stores of the instruction at issue have not been performed yet. -/
def Ctx.storing (cx : Ctx) (s : State) : Bool :=
  (s.waitingOf cx.c cx.t).any fun e => e.pc == cx.iaddr && e.word == cx.word && e.sys == cx.sys && e.op.writes && e.lanes &&& cx.act != 0

/-- `admit` (R143, R243): the whole range of the list is translated first, and the splinter waits until its words are written. -/
def execAdmitHeap (x y : Operand) : State → Host.Outcome State Fault Refusal :=
  perform { ops := [x, y, .lane], ok := fun cx => cx.isU x && cx.isU y } fun cx =>
    cx.behind 0 fun cx => cx.blockOn [x, y] fun cx =>
      let a := (cx.read x).at_ 0
      let room := min ((cx.read y).at_ 0).toNat 16384
      if a.extractLsb' 0 2 != 0 then .trap cx.s .align 0 (some a) cx.act
      else cx.awaitAccess (cx.ownAccess (.probe (4 + 4 * room)) cx.act fun _ => a) fun cx =>
        cx.soundReads (fun _ => a) fun cx =>
          let s := (lanesOf cx.act).foldl (cx.admitOnce a room) cx.s
          if cx.storing s then .wait s .records else .done s 0

end Sys2Proof.Machine
end

