-- ==== Sys2Proof/Machine/Flow.lean ====
section
/-!
DEFINITION. Major 0x2A: releases, relabels and queries of flows (R38, R41, R43, R237-R239).
-/

namespace Sys2Proof.Machine

/-- The lanes of a team's ordered items. -/
def Team.orderedLanes (x : Team) : Mask :=
  (x.items.filter fun i => i.cls == 1 && !i.ended).foldl (fun m i => m ||| i.mask) 0

/-- The items with an active lane, in ascending order of their lowest active lane (R238). -/
def Team.itemsOf (x : Team) (act : Mask) : List Item :=
  sortBy (fun (a b : Item) => lowLane (a.mask &&& act) < lowLane (b.mask &&& act))
    (x.items.filter fun i => !i.ended && i.mask &&& act != 0)

/-- `flow.rel` (R237). It never waits, behind a marker or an acquire neither, as the other item operations do (R38, R97, R231; DEDUCED, log entry
43). -/
def execFlowRel : State → Host.Outcome State Fault Refusal :=
  perform { ops := [.lane], inSys := false, mods := fun m => m == {} || m == { scope := some .sys } } fun cx =>
    let lanes := cx.act &&& cx.x.orderedLanes
    let s := cx.s.onTeam cx.c cx.t fun x => { x with released := x.released ||| lanes }
    let s := if cx.mods.scope = some .sys then
        ((cx.x.itemsOf lanes).foldl (fun s i => s.onPosition i.pos fun q =>
          if i.mask &&& lanes &&& ~~~cx.x.released = 0 then q else { q with sysScope := true }) s)
      else s
    .done (s.settleItems cx.c cx.t) 0

/-! Relabelling (R43, R238). -/

/-- The new class of an item (R238). -/
def newClass (i : Item) (cls : Option Nat) : Nat := cls.getD i.cls

/-- A waiter that no longer waits, its item having been relabelled. -/
def State.dropWaiter (s : State) (p label seq : Nat) : State :=
  let f := s.flow p label
  s.setFlow { f with waiters := f.waiters.filter fun w => w.seq != seq }

/-- Whether a new position of a flow fits a core (R41): it comes last in its flow. -/
def State.tailFits (s : State) (c p label : Nat) : Bool := s.flowFits c p label 0 (s.flow p label).nexta.toNat

/-- One item relabelled to a flow of a partition, in the order of R43; none where it would stall (R35, R41). -/
def State.relabel (s : State) (c t p : Nat) (i : Item) (label : Nat) (cls : Option Nat) : Option State :=
  match s.team? c t with
  | none => none
  | some x =>
    let k := newClass i cls
    if !(s.flowRoom p label) || (k = 1 && !(s.tailFits c p label)) then none
    else
      let s := if i.cls = 1 then
          s.onPosition i.pos fun q =>
            if q.recorded then { q with placed := true } else { q with placed := true, recorded := true, limit := x.orderCtr }
        else s
      let s := if i.tok then s.returnToken i.part i.flow else if i.wtok then s.dropWaiter i.part i.flow i.seq else s
      let (pos, n, s) := s.assign p label k { core := some c, slot := t, lanes := i.mask, first := i.since, since := x.orderCtr }
      let j : Item := { i with part := p, pos := pos, flow := label, seq := n, cls := k, tok := false, wtok := k == 2 }
      let s := s.onTeam c t fun x =>
        { x with
          items := x.items.map fun e => if e == i then j else e
          released := x.released &&& ~~~i.mask
          splinters := if k = 2 then x.splinters else x.splinters.map (grantLanes i.mask) }
      some (if k = 2 then s.awaitToken p label { seq := n, core := c, slot := t } else s)

/-- Several items relabelled in order, all of them or none. -/
def State.relabelAll (s : State) (c t p : Nat) (label : Item → Nat) (cls : Option Nat) : List Item → Option State
  | [] => some s
  | i :: is => match s.relabel c t p i (label i) cls with
    | none => none
    | some s => s.relabelAll c t p label cls is

/-- The splinter divided when items wait for their tokens: their lanes wait at the instruction, each item by itself, the others
go on; a part that finds no place is held (R43, R47). -/
def Team.divideTokens (x : Team) (n : Nat) (p onward : Splinter) (waits : List Mask) : Team :=
  let rest := p.mask &&& ~~~(waits.foldl (fun m w => m ||| w) 0)
  let others := (x.numbered.filter fun e => e.1 != n && e.2.counts).length
  let room := 16 - others - (if rest = 0 then 0 else 1)
  let parts := (if rest = 0 then [] else [{ onward with mask := rest }]) ++
    (waits.take room).map (fun m => { p with mask := m, st := .waiting .token }) ++
    (waits.drop room).map (fun m => { p with mask := m, st := .held true })
  { x with splinters := x.splinters.take n ++ parts.take 1 ++ x.splinters.drop (n + 1) ++ parts.drop 1 }

/-- `flow.set` after its items were relabelled: the active lanes of the items that wait for a token stay (R43, step 4). -/
def Ctx.afterRelabel (cx : Ctx) (s : State) : Did :=
  match s.team? cx.c cx.t with
  | none => .gone s
  | some x =>
    let waits := (x.items.filter fun i => !i.ended && i.wtok && i.mask &&& cx.act != 0).map fun i => i.mask &&& cx.act
    if waits = [] then .done s 0
    else if cx.sys then .wait s .token
    else .moved (s.setTeam cx.c cx.t
      ((x.idleOthers cx.n cx.wordPasses).divideTokens cx.n { cx.p with idle := 0, due := false }
        { cx.p.goTo cx.next cx.nextHalf with idle := 0, due := false } waits))

/-- `flow.set` (R43, R238): lanes that come back to it have their token. In system mode it acts for ACTP (R361, log entry 35). Of a label
above 32 bits the low 32 bits count (DESIGN CHOICE, log entry 64). A full window, or want of a place among the core's resident flows, stalls the
team (R35, R41). -/
def execFlowSet (a b : Operand) : State → Host.Outcome State Fault Refusal :=
  perform { ops := [a, b, .lane], ok := fun cx => cx.isVU a && cx.isU b } fun cx =>
    if cx.p.st = .waiting .tokenDone then .done cx.s 0
    else cx.behind 0 fun cx => cx.blockOn [a, b] fun cx =>
      let k := ((cx.read b).at_ 0).toNat
      let cls := if b = .zero then none else some k
      if b != .zero && 3 ≤ k then .trap cx.s .item 0 none cx.act
      else
        let label (i : Item) : Nat := ((cx.read a).at_ (lowLane (i.mask &&& cx.act))).toNat % 2 ^ 32
        match cx.s.relabelAll cx.c cx.t cx.part label cls (cx.x.itemsOf cx.act) with
        | none => .wait cx.s .team
        | some s => cx.afterRelabel s

/-- `flow.q` (R239), in system mode for ACTP (R361, log entry 35). -/
def execFlowQ (d a : Operand) : State → Host.Outcome State Fault Refusal :=
  perform { ops := [d, a], ok := fun cx => cx.dstU d && cx.isU a, p15 := true } fun cx =>
    if cx.destWaits d then .wait cx.s .issue
    else cx.blockOn [a] fun cx =>
      let n := ((cx.read a).at_ 0).toNat % 2 ^ 32
      let f := cx.s.flow cx.part n
      .done (cx.writeP15 (cx.write (cx.s.touchFlow cx.part n) d (fun _ => f.nexta.setWidth 64 <<< 32 ||| f.nextr.setWidth 64) noOrigin) fun _ => f.tok) 0

end Sys2Proof.Machine
end

