-- ==== Sys2Proof/Machine/Vector.lean ====
section
/-!
DEFINITION. Majors 0x30 to 0x36: floating-point arithmetic, functions, compares, conversion and block quantisation
(R244-R257).
-/

namespace Sys2Proof.Machine

/-! Frames (R244-R247). -/

/-- Two FP32 sources, with the modifier fields accepted. -/
def fpRules (d a b : Operand) (mods : ModHint → Bool) : Rules := { rules3 d a b with mods := mods }

/-- One FP32 source with a rounding mode. -/
def fnRules (d a : Operand) : Rules := { rules2 d a with mods := fun m => m == { rm := m.rm } }

/-- A lane's result of two FP32 operands written, with the flags of the active lanes (R245). -/
def Ctx.float2 (cx : Ctx) (f : RMode → W32 → W32 → W32 × FlagSet) (d a b : Operand) : Did :=
  if cx.destWaits d then .wait cx.s .issue
  else cx.blockOn [a, b] fun cx =>
    let r (l : Nat) := f cx.mods.rm (((cx.read a).at_ l).setWidth 32) (((cx.read b).at_ l).setWidth 32)
    .done (cx.write cx.s d (fun l => (r l).1.setWidth 64) noOrigin) (fun l => (r l).2)

/-- A lane's result of one FP32 operand written. -/
def Ctx.float1 (cx : Ctx) (f : RMode → W32 → W32 × FlagSet) (d a : Operand) : Did :=
  if cx.destWaits d then .wait cx.s .issue
  else cx.blockOn [a] fun cx =>
    let r (l : Nat) := f cx.mods.rm (((cx.read a).at_ l).setWidth 32)
    .done (cx.write cx.s d (fun l => (r l).1.setWidth 64) noOrigin) (fun l => (r l).2)

/-! Folds (R67, R70, R249). -/

/-- The operations that fold. -/
inductive Fold where
  | add | sub | mul
  deriving DecidableEq, Repr

/-- The operation computed eagerly. -/
def Fold.eager : Fold → RMode → W32 → W32 → W32 × FlagSet
  | .add => fpAdd
  | .sub => fpSub
  | .mul => fpMul

/-- A float form: its symbol, its scale, its offsets, and the lanes on which it is its offset alone. -/
structure FloatForm where
  sym : Nat
  scale : W32
  off : Val
  alone : Mask := 0

/-- A symbolic source as a float form: a float form, or the integer form (1, 0) at its first use (R249). DEDUCED: a lane that is poison has
no value, so that it does not keep a form from being (1, 0), and its poison passes (R70, log entry 45). -/
def Ctx.floatForm (cx : Ctx) (o : Operand) : Option FloatForm :=
  match o with
  | .v n =>
    let r := cx.vreg n.val
    if r.flt then some { sym := r.sym, scale := r.scale, off := cx.read o, alone := r.alone }
    else if cx.halfOfPair r then none
    else if r.scale == 1 && (lanesOf cx.x.live).all (fun l => r.at l == 0 || (r.pois.at? l).isSome) then
      some { sym := r.sym, scale := 0x3F800000, off := { at_ := fun _ => 0, pois := (cx.read o).pois }, alone := r.alone }
    else none
  | .w n =>
    let r := cx.x.ureg n.val
    if r.flt then some { sym := r.sym.getD 0, scale := r.scale.setWidth 32, off := cx.read o }
    else if r.scale == 1 && (r.val == 0 || r.pois.isSome) then
      some { sym := r.sym.getD 0, scale := 0x3F800000, off := { at_ := fun _ => 0, pois := (cx.read o).pois } }
    else none
  | _ => none

/-- A float form written to a destination. -/
def Ctx.writeFloatForm (cx : Ctx) (d : Operand) (g : FloatForm) (scale : W32) (off : Val) : Did :=
  let sym := g.sym
  match d with
  | .v n =>
    .done (cx.s.setVreg cx.c cx.t n.val
      { st := .symbolic, sym := sym, scale := scale, flt := true, alone := g.alone, lanes := laneTable cx.act fun l => (off.at_ l).setWidth 32
        pois := originTable cx.act off.pois }) 0
  | .w n =>
    let l := lowLane cx.act
    .done (cx.s.onTeam cx.c cx.t fun x => x.setUreg n.val
      { val := off.at_ l, sym := some sym, scale := scale.setWidth 64, flt := true, pois := off.pois l }) 0
  | _ => .done cx.s 0

/-- A rounded sum, difference or product of two values, as an offset; poison passes through (R67, R70). -/
def Val.fold (f : Fold) (a b : Val) : Val := a.zip (fun x y => (f.eager .rn (x.setWidth 32) (y.setWidth 32)).1.setWidth 64) b

/-- Whether a fold may write a destination: a full write (R57) to a register that is not shared (R249). -/
def Ctx.foldsTo (cx : Ctx) (d : Operand) : Bool :=
  match d with
  | .v n => cx.x.fullWrite n.val cx.act && !cx.x.entry.shared n.val
  | _ => cx.allLanes

/-- A symbolic operand folded with a known one, through which the poison of both passes; `left` tells that it stands in S1 (R67, R70). -/
def Ctx.foldWith (cx : Ctx) (f : Fold) (d : Operand) (g : FloatForm) (k : Val) (left : Bool) : Did :=
  match f with
  | .add => cx.writeFloatForm d g g.scale (g.off.fold .add k)
  | .sub => if left then cx.writeFloatForm d g g.scale (g.off.fold .sub k)
    else cx.writeFloatForm d g (rne32 (f32 g.scale).opp) (k.fold .sub g.off)
  | .mul => cx.writeFloatForm d g (fpMul .rn g.scale ((k.at_ (lowLane cx.act)).setWidth 32)).1 (g.off.fold .mul k)

/-- `fadd`, `fsub` and `fmul` (R248, R249): one symbolic operand folds with a known one, for `fmul` a uniform one; all else is
computed, as without SYM. -/
def Ctx.folding (cx : Ctx) (f : Fold) (d a b : Operand) : Did :=
  let sa := cx.symbolic a
  let sb := cx.symbolic b
  if !cx.mods.sym || cx.mods.rm != .rn || !cx.foldsTo d || sa == sb then cx.float2 f.eager d a b
  else
    let (o, k) := if sa then (a, b) else (b, a)
    if f == .mul && !uniformOp k then cx.float2 f.eager d a b
    else match cx.floatForm o with
      | some g => cx.foldWith f d g (cx.read k) sa
      | none => .wait cx.s .issue

def foldRules (d a b : Operand) : Rules := fpRules d a b fun m => m == { rm := m.rm, sym := m.sym }

/-- `fadd` (R248, R249). -/
def execFadd (d a b : Operand) : State → Host.Outcome State Fault Refusal :=
  perform (foldRules d a b) fun cx => cx.folding .add d a b

/-- `fsub` (R248, R249). -/
def execFsub (d a b : Operand) : State → Host.Outcome State Fault Refusal :=
  perform (foldRules d a b) fun cx => cx.folding .sub d a b

/-- `fmul` (R248, R249). -/
def execFmul (d a b : Operand) : State → Host.Outcome State Fault Refusal :=
  perform (foldRules d a b) fun cx => cx.folding .mul d a b

/-- `ffma` (R248); S3 stands in the modifier hint. -/
def execFfma (d a b : Operand) : State → Host.Outcome State Fault Refusal :=
  perform (rules4 d a b fun m => m == { rm := m.rm, s3 := m.s3 }) fun cx =>
    if cx.destWaits d then .wait cx.s .issue
    else cx.blockOn [a, b, cx.mods.s3] fun cx =>
      let v (o : Operand) (l : Nat) : W32 := ((cx.read o).at_ l).setWidth 32
      let r (l : Nat) := fpFma cx.mods.rm (v a l) (v b l) (v cx.mods.s3 l)
      .done (cx.write cx.s d (fun l => (r l).1.setWidth 64) noOrigin) (fun l => (r l).2)

/-! Majors 0x31 to 0x34 (R250-R252). -/

def plainRules (d a b : Operand) : Rules := fpRules d a b fun m => m == {}

/-- `fmin` (R250). -/
def execFmin (d a b : Operand) : State → Host.Outcome State Fault Refusal :=
  perform (plainRules d a b) fun cx => cx.float2 (fun _ x y => (fpMin x y, 0)) d a b

/-- `fmax` (R250). -/
def execFmax (d a b : Operand) : State → Host.Outcome State Fault Refusal :=
  perform (plainRules d a b) fun cx => cx.float2 (fun _ x y => (fpMax x y, 0)) d a b

/-- `fdiv` (R250). -/
def execFdiv (d a b : Operand) : State → Host.Outcome State Fault Refusal :=
  perform (fpRules d a b fun m => m == { rm := m.rm }) fun cx => cx.float2 fpDiv d a b

/-- `fcpsgn` (R250). -/
def execFcpsgn (d a b : Operand) : State → Host.Outcome State Fault Refusal :=
  perform (plainRules d a b) fun cx => cx.float2 (fun _ x y => (fpCpsgn x y, 0)) d a b

/-- `frcp` (R251). -/
def execFrcp (d a : Operand) : State → Host.Outcome State Fault Refusal :=
  perform (fnRules d a) fun cx => cx.float1 (fun _ => fpRcp) d a

/-- `frsq` (R251). -/
def execFrsq (d a : Operand) : State → Host.Outcome State Fault Refusal :=
  perform (fnRules d a) fun cx => cx.float1 (fun _ => fpRsq) d a

/-- `fsqrt` (R251). -/
def execFsqrt (d a : Operand) : State → Host.Outcome State Fault Refusal :=
  perform (fnRules d a) fun cx => cx.float1 fpSqrt d a

/-- `fexp2` (R251). -/
def execFexp2 (d a : Operand) : State → Host.Outcome State Fault Refusal :=
  perform (fnRules d a) fun cx => cx.float1 (fun _ => fpExp2) d a

/-- `flog2` (R251). -/
def execFlog2 (d a : Operand) : State → Host.Outcome State Fault Refusal :=
  perform (fnRules d a) fun cx => cx.float1 (fun _ => fpLog2) d a

/-- `fsin` (R251). -/
def execFsin (d a : Operand) : State → Host.Outcome State Fault Refusal :=
  perform (fnRules d a) fun cx => cx.float1 (fun _ => fpTrig false) d a

/-- `fcos` (R251). -/
def execFcos (d a : Operand) : State → Host.Outcome State Fault Refusal :=
  perform (fnRules d a) fun cx => cx.float1 (fun _ => fpTrig true) d a

/-- `ftanh` (R251). -/
def execFtanh (d a : Operand) : State → Host.Outcome State Fault Refusal :=
  perform (fnRules d a) fun cx => cx.float1 (fun _ => fpTanh) d a

def fcmpRules (d a b : Operand) : Rules := { ops := [d, a, b], ok := fun cx => dstP d && cx.isVU a && cx.isVU b }

/-- A compare of FP32 operands (R252). -/
def Ctx.floatTest (cx : Ctx) (f : W32 → W32 → Bool) (d a b : Operand) : Did :=
  cx.compute d [a, b] fun cx l =>
    if f (((cx.read a).at_ l).setWidth 32) (((cx.read b).at_ l).setWidth 32) then 1 else 0

/-- `fcmp.eq` (R252). -/
def execFcmpEq (d a b : Operand) : State → Host.Outcome State Fault Refusal :=
  perform (fcmpRules d a b) fun cx => cx.floatTest fpEq d a b

/-- `fcmp.lt` (R252). -/
def execFcmpLt (d a b : Operand) : State → Host.Outcome State Fault Refusal :=
  perform (fcmpRules d a b) fun cx => cx.floatTest fpLt d a b

/-- `fcmp.le` (R252). -/
def execFcmpLe (d a b : Operand) : State → Host.Outcome State Fault Refusal :=
  perform (fcmpRules d a b) fun cx => cx.floatTest fpLe d a b

/-- `fcmp.un` (R252). -/
def execFcmpUn (d a b : Operand) : State → Host.Outcome State Fault Refusal :=
  perform (fcmpRules d a b) fun cx => cx.floatTest fpUn d a b

/-! Conversion (R253, R254). -/

/-- The format of a floating-point type. -/
def fmtOf : CvtType → Fmt
  | .f16 => .f16 | .bf16 => .bf16 | .e4m3 => .e4m3 | .e5m2 => .e5m2 | .e2m1 => .e2m1
  | _ => .f32

/-- The bits and the signedness of an integer type. -/
def intOf : CvtType → Nat × Bool
  | .i8 => (8, true) | .i16 => (16, true) | .i32 => (32, true) | .i64 => (64, true)
  | .n8 => (8, false) | .n16 => (16, false) | .n32 => (32, false) | _ => (64, false)

/-- The types of 64 bits. -/
def wideType (t : CvtType) : Bool := t == .i64 || t == .n64

/-- The types that NARROW gives. -/
def narrowType (t : CvtType) : Bool := t == .e4m3 || t == .e5m2 || t == .e2m1

/-- An integer source read at its type (R253). -/
def intRead (t : CvtType) (v : W64) : Int :=
  let (n, sg) := intOf t
  if sg then (BitVec.ofNat n v.toNat).toInt else ((v.toNat % 2 ^ n : Nat) : Int)

/-- A value rounded and clamped to an integer type (R119, R254). -/
def toInteger (t : CvtType) (mode : RMode) : FVal → Int × FlagSet
  | .nan => (0, Flag.inv)
  | x =>
    let (n, sg) := intOf t
    let lo : Int := if sg then -(2 ^ (n - 1) : Nat) else 0
    let hi : Int := if sg then (2 ^ (n - 1) : Nat) - 1 else (2 ^ n : Nat) - 1
    match x with
    | .fin neg m e =>
      let (q, inexact) := roundAt mode neg m e 0
      let r := clampTo lo hi (sgn neg q)
      (r.1, if r.2 then Flag.inv else if inexact then Flag.inx else 0)
    | .inf neg => (if neg then lo else hi, Flag.inv)
    | .nan => (0, Flag.inv)

/-- `cvt` on one lane: the 64 bits of its result and its flags (R253, R254). -/
def convert (dt st : CvtType) (mode : RMode) (ns : Bool) (v : W64) : W64 × FlagSet :=
  if st.isFloat then
    let f := fmtOf st
    let x := f.decode (v.toNat % 2 ^ f.width)
    if narrowType dt then let r := (fmtOf dt).narrow mode ns x; (BitVec.ofNat 64 r.1, r.2)
    else if dt.isFloat then let r := (fmtOf dt).round mode x; (BitVec.ofNat 64 r.1, r.2)
    else let r := toInteger dt mode x; (BitVec.ofInt 64 r.1, r.2)
  else
    let n := intRead st v
    let r := (fmtOf dt).round mode (.fin (n < 0) n.natAbs 0)
    (BitVec.ofNat 64 r.1, r.2)

/-- The operands of `cvt`: a pair or a uniform register for a type of 64 bits (R244, R253). -/
def Ctx.cvtOk (cx : Ctx) (d a : Operand) (dt st : CvtType) : Bool :=
  let register : Operand → Bool
    | .v _ | .w _ | .zero => true
    | _ => false
  (if wideType dt then cx.dstEvenU d else cx.dstVU d) && (if wideType st then cx.isEvenU a && register a else cx.isVU a) &&
    noMix d [a]

/-- The pair of types of a code; a code without one is illegal before it is read. -/
def typesOf (code : BitVec 8) : CvtType × CvtType := (cvtPair code).getD (.f32, .f16)

/-- `cvt` in each of its rounding modes. -/
def Ctx.cvt (cx : Ctx) (mode : RMode) (d a : Operand) (code : BitVec 8) : Did :=
  let (dt, st) := typesOf code
  if (if wideType dt then cx.destWaits64 d else cx.destWaits d) then .wait cx.s .issue
  else
    let k (cx : Ctx) : Did :=
      let v := if wideType st then cx.read64 a else cx.read a
      let r (l : Nat) := convert dt st mode cx.mods.nsat (v.at_ l)
      let s := if wideType dt then cx.write64 cx.s d (fun l => (r l).1) noOrigin else cx.write cx.s d (fun l => (r l).1) noOrigin
      .done s (fun l => (r l).2)
    if wideType st then cx.blockOn64 [a] k else cx.blockOn [a] k

def cvtRules (d a : Operand) (code : BitVec 8) : Rules :=
  { ops := [d, a], wf := (cvtPair code).isSome
    mods := fun m => m == {} || (narrowType (typesOf code).1 && m == { nsat := true })
    ok := fun cx => cx.cvtOk d a (typesOf code).1 (typesOf code).2
    passes := fun cx => cx.passesFor [d, a] }

/-- `cvt.rn` (R254). -/
def execCvtRn (d a : Operand) (code : BitVec 8) : State → Host.Outcome State Fault Refusal :=
  perform (cvtRules d a code) fun cx => cx.cvt .rn d a code

/-- `cvt.rz` (R254). -/
def execCvtRz (d a : Operand) (code : BitVec 8) : State → Host.Outcome State Fault Refusal :=
  perform (cvtRules d a code) fun cx => cx.cvt .rz d a code

/-- `cvt.rd` (R254). -/
def execCvtRd (d a : Operand) (code : BitVec 8) : State → Host.Outcome State Fault Refusal :=
  perform (cvtRules d a code) fun cx => cx.cvt .rd d a code

/-- `cvt.ru` (R254). -/
def execCvtRu (d a : Operand) (code : BitVec 8) : State → Host.Outcome State Fault Refusal :=
  perform (cvtRules d a code) fun cx => cx.cvt .ru d a code

/-! Block quantisation (R255-R257). -/

/-- An even vector register as a destination of a pair, or 0xFF. -/
def Ctx.dstPair (cx : Ctx) : Operand → Bool
  | .v n => cx.vOk n.val && n.val % 2 == 0
  | .zero => true
  | _ => false

/-- The value of an active lane, or +0 (R255). -/
def Ctx.leaf (cx : Ctx) (a : Operand) (l : Nat) : W32 :=
  if cx.act.getLsbD l then ((cx.read a).at_ l).setWidth 32 else 0

/-- The largest magnitude of some values that are no NaN. -/
def largest (xs : List W32) : W32 := xs.foldl (fun a x => fpMax a (x &&& 0x7FFFFFFF#32)) 0

/-- The scale that `qblk` chooses for a block (R255). -/
def blockScale (xs : List W32) : Nat :=
  if xs.any isNaN32 then 0xFF
  else match f32 (largest xs) with
    | .fin _ m e => if m = 0 then 0x60 else smallestScale m e 255 0
    | _ => 0xFE

/-- An element of a block over its scale, exactly (R255). -/
def overScale (x : W32) (n : Nat) (g : Int) : FVal :=
  match f32 x with
  | .fin neg m e => let (q, t) := divSticky m e n g; .fin neg q t
  | v => v

/-- A block of `qblk`: its packed codes and its flags (R255). -/
def quantise (mode : RMode) (ns : Bool) (s : Nat) (xs : List W32) : Nat × FlagSet :=
  xs.foldr (fun x r =>
    let c := match ue3m5 s with
      | none => (0, Flag.inv)
      | some (n, g) => if n = 0 then (0, Flag.inv) else Fmt.e2m1.narrow mode ns (overScale x n g)
    (c.1 + 16 * r.1, c.2 ||| r.2)) (0, 0)

/-- A pair of results written on the active lanes. -/
def Ctx.writePair (cx : Ctx) (d : Operand) (f : Nat → Nat × Nat) : State :=
  cx.write64 cx.s d (fun l => BitVec.ofNat 64 ((f l).2 * 2 ^ 32 + (f l).1)) noOrigin

/-- `qblk` (R255); a lane sets the flags of its own element (log entry 60). -/
def execQblk (d a b : Operand) : State → Host.Outcome State Fault Refusal :=
  perform
    { ops := [d, a, b], mods := fun m => m == { rm := m.rm, nsat := m.nsat }
      ok := fun cx => cx.dstPair d && cx.isV a && cx.isU b } fun cx =>
    if cx.destWaits64 d then .wait cx.s .issue
    else cx.blockOn [a, b] fun cx =>
      let block (l : Nat) : List W32 := (List.range' (l / 8 * 8) 8).map (cx.leaf a)
      let scale (l : Nat) : Nat := if b = .zero then blockScale (block l) else ((cx.read b).at_ l).toNat % 256
      let r (l : Nat) := quantise cx.mods.rm cx.mods.nsat (scale l) (block l)
      .done (cx.writePair d fun l => ((r l).1, scale l)) (fun l => (quantise cx.mods.rm cx.mods.nsat (scale l) [cx.leaf a l]).2)

/-- `dqblk` on one lane (R256). -/
def dequantise (l : Nat) (v : W64) : W32 × FlagSet :=
  match ue3m5 (bits v.toNat 32 8) with
  | none => (CNAN, Flag.inv)
  | some (n, g) => (rne32 (fvMul (Fmt.e2m1.decode (bits v.toNat (4 * (l % 8)) 4)) (.fin false n g)).1, 0)

/-- `dqblk` (R256). -/
def execDqblk (d a : Operand) : State → Host.Outcome State Fault Refusal :=
  perform
    { ops := [d, a]
      ok := fun cx => cx.dstV d && (match a with
        | .v n => cx.vOk n.val && n.val % 2 == 0
        | _ => false) } fun cx =>
    if cx.destWaits d then .wait cx.s .issue
    else cx.blockOn64 [a] fun cx =>
      let r (l : Nat) := dequantise l ((cx.read64 a).at_ l)
      .done (cx.write cx.s d (fun l => (r l).1.setWidth 64) noOrigin) (fun l => (r l).2)

/-- The type of a code of `qmx`, its emax and its NaN (R257). -/
def mxType (code : BitVec 8) : Fmt × Int × Nat :=
  if code = 3#8 then (.e4m3, 8, 0x7F) else if code = 4#8 then (.e5m2, 15, 0x7E) else (.e2m1, 2, 0)

/-- The E8M0 scale of a block of 32 lanes (R257). -/
def mxScale (emax : Int) (xs : List W32) : Nat :=
  if xs.any isNaN32 then 0xFF
  else match f32 (largest xs) with
    | .fin _ m e => if m = 0 then 0x7F else (clampTo 0 254 (e + bitLen m - 1 - emax + 127)).1.toNat
    | _ => 254

/-- An element of a block at its scale (R257). -/
def mxElement (code : BitVec 8) (mode : RMode) (ns : Bool) (s : Nat) (x : W32) : Nat × FlagSet :=
  let (f, _, nan) := mxType code
  if s = 0xFF then (nan, Flag.inv)
  else f.narrow mode ns (match f32 x with
    | .fin neg m e => .fin neg m (e - (s - 127))
    | v => v)

/-- `qmx` (R257); a lane sets the flags of its own element (log entry 60). -/
def execQmx (d a : Operand) (code : BitVec 8) : State → Host.Outcome State Fault Refusal :=
  perform
    { ops := [d, a], wf := (Instr.qmx d a code).wf, mods := fun m => m == { rm := m.rm, nsat := m.nsat }
      ok := fun cx => cx.dstPair d && cx.isV a } fun cx =>
    if cx.destWaits64 d then .wait cx.s .issue
    else cx.blockOn [a] fun cx =>
      let block (l : Nat) : List W32 := (List.range' (l / 32 * 32) 32).map (cx.leaf a)
      let scale (l : Nat) : Nat := mxScale (mxType code).2.1 (block l)
      let c (s l : Nat) := mxElement code cx.mods.rm cx.mods.nsat s (cx.leaf a l)
      let even (l : Nat) : Nat :=
        let s := scale l
        if code = 5#8 then (c s (l / 2 * 2)).1 + 16 * (c s (l / 2 * 2 + 1)).1 else (c s l).1
      .done (cx.writePair d fun l => (even l, scale l))
        (fun l => (c (scale l) l).2)

end Sys2Proof.Machine
end

