-- ==== Sys2Proof/Machine/Lanes.lean ====
section
/-!
DEFINITION. Majors 0x37 to 0x3B: shuffles, votes, reductions, sorted lists and symbol instructions (R258-R264).
-/

namespace Sys2Proof.Machine

/-! Shuffles (R258, R259). -/

/-- A shuffle: `j` gives the source lane of a lane, where there is one; it is given all 64 bits of a uniform S2 (DESIGN CHOICE, log entry 64: R259
gives `uint(S2)` no width). -/
def Ctx.shuffle (cx : Ctx) (j : Nat → W64 → Option Nat) (d a b : Operand) : Did :=
  if [a, b].any cx.symbolic || cx.destWaits d then .wait cx.s .issue
  else
    let src (l : Nat) : Option Nat := match j l ((cx.read b).at_ l) with
      | none => none
      | some k => if k < cx.x.width && cx.x.live.getLsbD k then some k else none
    let x := cx.read a
    let moved : Val :=
      { at_ := fun l => match src l with
          | none => 0
          | some k => x.at_ k
        pois := fun l => match src l with
          | none => none
          | some k => x.pois k }
    cx.use [cx.read b, moved] fun cx => .done (cx.write cx.s d moved.at_ noOrigin) 0

/-- A shuffle reads no shared register (R259). -/
def shflRules (d a b : Operand) : Rules :=
  { ops := [d, a, b], inSys := false, ok := fun cx => cx.dstV d && cx.isV a && !cx.sharedDest false a && cx.isVU b }

/-- `shfl` (R259). -/
def execShfl (d a b : Operand) : State → Host.Outcome State Fault Refusal :=
  perform (shflRules d a b) fun cx => cx.shuffle (fun _ y => some y.toNat) d a b

/-- `shfl.x` (R259). -/
def execShflX (d a b : Operand) : State → Host.Outcome State Fault Refusal :=
  perform (shflRules d a b) fun cx => cx.shuffle (fun l y => some (BitVec.ofNat 64 l ^^^ y).toNat) d a b

/-- `shfl.up` (R259). -/
def execShflUp (d a b : Operand) : State → Host.Outcome State Fault Refusal :=
  perform (shflRules d a b) fun cx => cx.shuffle (fun l y => if y.toNat ≤ l then some (l - y.toNat) else none) d a b

/-- `shfl.dn` (R259). -/
def execShflDn (d a b : Operand) : State → Host.Outcome State Fault Refusal :=
  perform (shflRules d a b) fun cx => cx.shuffle (fun l y => some (l + y.toNat)) d a b

/-! Votes (R260). -/

def voteRules (d a : Operand) : Rules := { ops := [d, a], inSys := false, ok := fun _ => dstP d && isP a }

/-- `vote.any` (R260). -/
def execVoteAny (d a : Operand) : State → Host.Outcome State Fault Refusal :=
  perform (voteRules d a) fun cx => cx.compute d [] fun cx _ => if cx.holds a != 0 then 1 else 0

/-- `vote.all` (R260). -/
def execVoteAll (d a : Operand) : State → Host.Outcome State Fault Refusal :=
  perform (voteRules d a) fun cx => cx.compute d [] fun cx _ => if cx.holds a == cx.act then 1 else 0

/-- `ballot` (R260). -/
def execBallot (d a : Operand) : State → Host.Outcome State Fault Refusal :=
  perform { ops := [d, a], inSys := false, ok := fun cx => cx.dstV d && isP a } fun cx =>
    cx.compute d [] fun cx l => (maskWord (cx.holds a) (l / 32)).setWidth 64

/-- `vote.eq` (R260). -/
def execVoteEq (d a : Operand) : State → Host.Outcome State Fault Refusal :=
  perform { ops := [d, a], inSys := false, ok := fun cx => dstP d && cx.isV a } fun cx =>
    cx.compute d [a] fun cx _ =>
      let v := cx.read a
      if (lanesOf cx.act).all fun l => v.at_ l == v.at_ (lowLane cx.act) then 1 else 0

/-! Reductions (R261). -/

/-- One level of the tree: adjacent pairs joined. -/
def pairUp {α : Type} (f : α → α → α) : List α → List α
  | a :: b :: r => f a b :: pairUp f r
  | r => r

/-- A tree of five levels over 32 leaves. -/
def tree5 {α : Type} (f : α → α → α) (xs : List α) : List α := pairUp f (pairUp f (pairUp f (pairUp f (pairUp f xs))))

/-- The leaves of a lane's mask word, with what an inactive leaf holds. -/
def Ctx.leaves (cx : Ctx) (a : Operand) (idle : W32) (l : Nat) : List W32 :=
  (List.range' (l / 32 * 32) 32).map fun k => if cx.act.getLsbD k then ((cx.read a).at_ k).setWidth 32 else idle

/-- The active values of a lane's mask word. -/
def Ctx.activeLeaves (cx : Ctx) (a : Operand) (l : Nat) : List W32 :=
  ((List.range' (l / 32 * 32) 32).filter cx.act.getLsbD).map fun k => ((cx.read a).at_ k).setWidth 32

/-- The sum of 32 leaves in the fixed tree, with the flags of its nodes (R261). -/
def sumTree (xs : List W32) : W32 × FlagSet :=
  (tree5 (fun (p q : W32 × FlagSet) => let r := fpAdd .rn p.1 q.1; (r.1, p.2 ||| q.2 ||| r.2)) (xs.map fun x => (x, 0))).headD (0, 0)

/-- A result of each mask word written on its active lanes. -/
def Ctx.reduce (cx : Ctx) (f : Ctx → Nat → W32 × FlagSet) (d a : Operand) : Did :=
  if cx.destWaits d then .wait cx.s .issue
  else cx.blockOn [a] fun cx =>
    let r := (wordsOfMask cx.act).map fun w => (w, f cx (32 * w))
    .done (cx.write cx.s d (fun l => (SMap.atD r (l / 32) (0, 0)).1.setWidth 64) noOrigin) (fun l => (SMap.atD r (l / 32) (0, 0)).2)

def redwRules (d a : Operand) : Rules := { ops := [d, a], inSys := false, ok := fun cx => cx.dstV d && cx.isV a }

/-- `redw.add` (R261). -/
def execRedwAdd (d a : Operand) : State → Host.Outcome State Fault Refusal :=
  perform (redwRules d a) fun cx => cx.reduce (fun cx l => ((cx.leaves a 0 l).foldl (· + ·) 0, 0)) d a

/-- `redw.fadd` (R261). -/
def execRedwFadd (d a : Operand) : State → Host.Outcome State Fault Refusal :=
  perform (redwRules d a) fun cx => cx.reduce (fun cx l => sumTree (cx.leaves a 0x80000000#32 l)) d a

/-- The extreme of the active values of a word (R261). -/
def extreme (f : W32 → W32 → W32) : List W32 → W32
  | [] => 0
  | x :: xs => xs.foldl f (f x x)

/-- `redw.fmax` (R261). -/
def execRedwFmax (d a : Operand) : State → Host.Outcome State Fault Refusal :=
  perform (redwRules d a) fun cx => cx.reduce (fun cx l => (extreme fpMax (cx.activeLeaves a l), 0)) d a

/-- `redw.fmin` (R261). -/
def execRedwFmin (d a : Operand) : State → Host.Outcome State Fault Refusal :=
  perform (redwRules d a) fun cx => cx.reduce (fun cx l => (extreme fpMin (cx.activeLeaves a l), 0)) d a

/-! Sorted lists (R262). -/

/-- Register `q` of a list that starts at a vector register; 0xFF stands for a list that is discarded. -/
def listReg (d : Operand) (q : Nat) : Operand :=
  match d with
  | .v n => .v (n + BitVec.toFin (BitVec.ofNat 7 q))
  | _ => .zero

/-- Whether a list lies below `regs=` (R262). -/
def Ctx.listOk (cx : Ctx) (d : Operand) (k : Nat) : Bool :=
  match d with
  | .v n => cx.vOk n.val && decide (n.val + 2 * k ≤ cx.x.entry.regs)
  | .zero => true
  | _ => false

/-- The position at which a score enters a list, none where it does not: it has to beat the last score (R262). -/
def listPlace (s : W32) (scores : List W32) : Option Nat :=
  if isNaN32 s || !fpLt (scores.getLast?.getD 0) s then none else indexOf? (fun c => fpLt c s) scores

/-- A list after an insertion: `k` entries, the last one leaves. -/
def listInsert (p : Nat) (v : W32) (xs : List W32) : List W32 := (xs.take p ++ v :: xs.drop p).take xs.length

/-- A list of registers written on the active lanes. -/
def Ctx.writeList (cx : Ctx) (d : Operand) (f : Nat → List W32) (n : Nat) : State :=
  (List.range n).foldl (fun s q => cx.write s (listReg d q) (fun l => ((f l).getD q 0).setWidth 64) noOrigin) cx.s

/-- The length of the list of `topk.ins`. -/
def listLen (h : Hints) : Nat := if h.exts.isEmpty then 1 else (extOf h).toNat

/-- `topk.ins` on one lane: the new scores and indices (R262). -/
def Ctx.topkLane (cx : Ctx) (d a b : Operand) (k l : Nat) : List W32 :=
  let at_ (o : Operand) : W32 := ((cx.read o).at_ l).setWidth 32
  let scores := (List.range k).map fun q => at_ (listReg d q)
  let inds := (List.range k).map fun q => at_ (listReg d (k + q))
  match listPlace (at_ a) scores with
  | some p => listInsert p (at_ a) scores ++ listInsert p (at_ b) inds
  | none => scores ++ inds

/-- `topk.ins` (R262); its list registers are operands (R247). -/
def execTopkIns (d a b : Operand) : State → Host.Outcome State Fault Refusal :=
  perform
    { ops := [d, a, b], exts := 1, extOk := fun e => decide (1 ≤ e.toNat) && decide (e.toNat ≤ 8), inSys := false
      ok := fun cx => cx.listOk d (listLen cx.h) && cx.isV a && cx.isVU b } fun cx =>
    let k := listLen cx.h
    let regs := (List.range (2 * k)).map (listReg d)
    if regs.any cx.destWaits then .wait cx.s .issue
    else cx.blockOn (regs ++ [a, b]) fun cx => .done (cx.writeList d (cx.topkLane d a b k) (2 * k)) 0

/-- `topk.clr` (R262). -/
def execTopkClr (d : Operand) (code : BitVec 8) : State → Host.Outcome State Fault Refusal :=
  perform
    { ops := [d, .lane], wf := (Instr.topkClr d code).wf, inSys := false, ok := fun cx => cx.listOk d code.toNat } fun cx =>
    let k := code.toNat
    if ((List.range (2 * k)).map (listReg d)).any cx.destWaits then .wait cx.s .issue
    else
      .done (cx.writeList d (fun _ => List.replicate k 0xFF800000#32 ++ List.replicate k 0xFFFFFFFF#32) (2 * k)) 0

/-! Symbols (R263, R264). -/

/-- A vector or uniform register, no special operand (R244). -/
def Ctx.isReg (cx : Ctx) : Operand → Bool
  | .v n => cx.vOk n.val
  | .w n => cx.uOk n.val
  | _ => false

/-- The tag of a register as `sym.q` reads it (R56, R263). -/
def Ctx.tagWord (cx : Ctx) (a : Operand) : Nat :=
  let word (sym : Nat) (half flt : Bool) : Nat := sym % 256 * 256 + (if half then 8 else 0) + (if flt then 4 else 0) + 2
  match a with
  | .v n =>
    let r := cx.vreg n.val
    (match r.st with
     | .perLane => 0
     | .uniform => 1
     | .symbolic => word r.sym r.half r.flt)
  | .w n =>
    let r := cx.x.ureg n.val
    (match r.sym with
     | none => 1
     | some k => word k r.half r.flt)
  | _ => 1

/-- The symbols of a team, or of a team in system mode beyond its program's (R263, R358). -/
def Ctx.symbols (cx : Ctx) : List Symbol :=
  ((cx.s.core cx.c).syms.filter fun e => e.2.slot == cx.t && e.2.sys == cx.sys).map fun e => e.2

def symQRules (d a : Operand) : Rules :=
  { ops := [d, a], ok := fun cx => cx.dstU d && cx.isReg a, p15 := true, passes := fun cx => cx.passesFor [d, a] }

/-- `sym.q` (R263). -/
def execSymQ (d a : Operand) : State → Host.Outcome State Fault Refusal :=
  perform (symQRules d a) fun cx =>
    let v := BitVec.ofNat 64 (cx.symbols.length % 256 * 2 ^ 16 + cx.tagWord a)
    if cx.destWaits d then .wait cx.s .issue
    else .done (cx.writeP15 (cx.write cx.s d (fun _ => v) noOrigin) fun _ => cx.symbolic a) 0

/-- `sym.wait` (R264). -/
def execSymWait (a : Operand) : State → Host.Outcome State Fault Refusal :=
  perform { ops := [a], ok := fun cx => cx.isReg a } fun cx => if cx.symbolic a then .wait cx.s .issue else .done cx.s 0

/-- `sym.wall` (R264): every symbol of the team has arrived. -/
def execSymWall : State → Host.Outcome State Fault Refusal :=
  perform {} fun cx => if cx.symbols.any fun y => y.arrived != y.lanes then .wait cx.s .issue else .done cx.s 0

end Sys2Proof.Machine
end

