-- ==== Sys2Proof/Machine/Links.lean ====
section
/-!
DEFINITION. Pytus links: their training and keys (R11, R310, R315), replay (R316), and the flits that this device passes on (R311, R313,
R314).
-/

namespace Sys2Proof.Machine

/-! Replay (R316). -/

/-- A link-control flit of this device to its neighbour (R313, R316); it is not resent. -/
def State.control (s : State) (n : Nat) (note : LinkNote) : State :=
  let l := s.link n
  if !l.usable then s
  else
    let k : Packet := { kind := 12, dst := l.peer, payload := Config.payload 12 [note.counter, if note.replay then 1 else 0, if note.ack then 1 else 0] }
    (k.flits s.devid.toNat false).foldl (fun s f => s.emit n f) (s.send (.linkControl n { note with flit := l.tx }))

/-- Every flit of a link's retry buffer sent again, under new counter values (R316). -/
def State.resend (s : State) (n : Nat) : State :=
  let l := s.link n
  l.unacked.foldl (fun s e => s.transmit n e.2) (s.setLink n { l with unacked := [] })

/-- The flits of a link's retry buffer below a counter acknowledged (R316). -/
def Link.acknowledged (l : Link) (counter : Nat) : Link := { l with unacked := l.unacked.filter fun e => decide (counter ≤ e.1) }

/-- The link once a link-control flit has come: in its turn among the neighbour's flits it takes their next counter value, as each does (R314,
R316). What it says counts in either case (log entry 4). -/
def Link.noted (l : Link) (note : LinkNote) : Link := if note.flit = l.rx then { l with rx := l.rx + 1, fails := 0 } else l

/-- `link_control` (R316): a neighbour asks for replay, or acknowledges; flits below the counter that it names have arrived. The resending starts
with an announcement of the counter value that comes next; such an announcement of the neighbour ends a failure (log entry 4). -/
def execLinkControl (link : Nat) (note : LinkNote) (s : State) : Host.Outcome State Fault Refusal :=
  .next (
    if !s.intakes || !(s.link link).up then s
    else
    let s := s.setLink link ((s.link link).noted note)
    let l := s.link link
    if note.replay then
      let s := s.setLink link (l.acknowledged note.counter)
      (s.control link { counter := l.tx + 1, replay := false }).resend link
    else if note.ack then s.setLink link (l.acknowledged note.counter)
    else if l.fails != 0 && decide (l.rx ≤ note.counter) then s.setLink link { l with rx := note.counter }
    else s)

/-- A link that goes down, with a report (R316). -/
def State.dropLink (s : State) (n : Nat) : State :=
  (s.setLink n { s.link n with up := false, keying := none }).raise 0x0003 0 none 0 (BitVec.ofNat 32 n)

/-- `link_down` (R316): 16 consecutive failures at the other end of a link; those at this end take it down by themselves. -/
def execLinkDown (link : Nat) (s : State) : Host.Outcome State Fault Refusal :=
  .next (if s.intakes && (s.link link).up then s.dropLink link else s)

/-! Training (R11, R310, R315). -/

/-- The device that a port joins to another in a domain of some columns and rows; none for a surplus port (R310). -/
def portPeer (cols rows own port : Nat) : Option Nat :=
  if port < 31 then
    if port + 1 < cols then some (32 * devRow own + (devCol own + 1 + port) % cols) else none
  else if port < 46 && port < 30 + rows then some (32 * ((devRow own + port - 30) % rows) + devCol own)
  else none

/-- The port that a training gives a link: its own number, or of a spare the number of the port that it replaces (R11, R310). -/
def portOf (t : LinkTraining) : Option Nat :=
  if t.link < 46 then if t.replaces.isNone then some t.link else none else t.replaces

/-- Whether a training fits the domain: its shape, this device's place in it, and the neighbour that the port joins; and a spare replaces
a port whose link is down (R11, R310). -/
def State.trains (s : State) (t : LinkTraining) (port : Nat) : Bool :=
  let own := s.devid.toNat
  decide (1 ≤ t.cols) && decide (t.cols ≤ 32) && decide (1 ≤ t.rows) && decide (t.rows ≤ 16) && decide (devCol own < t.cols) &&
    decide (devRow own < t.rows) && portPeer t.cols t.rows own port == some t.peer &&
    (decide (t.link < 46) || (decide (t.link < 48) && !(s.link port).up &&
      !(s.links.any fun e => e.1 != t.link && e.2.up && e.2.port == some port)))

/-- The two ends' keys: bytes 0-31 of the digest key the direction from the lower device to the higher (R315). -/
def keysOf (secret : List Byte) (lower higher : BitVec 32) : BitVec 256 × BitVec 256 :=
  let d := Config.sha3 (secret ++ leBytes 4 lower.toNat ++ leBytes 4 higher.toNat)
  (d.extractLsb' 0 256, d.extractLsb' 256 256)

/-- A link keyed: the epoch advances, both counters start at 0, and what waits in the retry buffer is sent, with a spare what waits for the
port that it replaces (R310, R314-R316). -/
def State.keyLink (s : State) (t : LinkTraining) (port : Nat) (secret : List Byte) : State :=
  let own := s.devid.toNat
  let l := s.link t.link
  let epoch := l.epoch + 1
  let mine := lidOf own port epoch
  let theirs := lidOf t.peer (portTo t.cols t.rows t.peer own) epoch
  let (up, down) := if own < t.peer then keysOf secret mine theirs else keysOf secret theirs mine
  let moved := if t.link < 46 then [] else (s.link port).unacked
  let s := if t.link < 46 then s else s.setLink port { s.link port with unacked := [] }
  let s := s.setLink t.link { l with
    up := true, keying := none, peer := t.peer, port := some port, epoch := epoch
    txKey := if own < t.peer then up else down, rxKey := if own < t.peer then down else up
    rxLid := theirs, tx := 0, rx := 0, fails := 0, unacked := l.unacked ++ moved }
  State.resend { s with cols := t.cols, rows := t.rows } t.link

/-- This device's signed encapsulation key sent, the key of a counter, with a ciphertext (R315). -/
def State.sendKey (s : State) (n id : Nat) (cipher : List Byte) : State :=
  let key := Config.mlkemKey id
  s.send (.training n key (Config.mldsaSign (Config.sha3 key)) cipher)

/-- What a training leaves: the lower device verifies its neighbour's key, encapsulates to it and is keyed; the higher sends its key first,
and is keyed by the ciphertext that comes back (R315). A signature that does not verify leaves the link as it is. -/
def State.train (s : State) (t : LinkTraining) (port : Nat) : State :=
  let fresh (s : State) : State := { s with fresh := s.fresh + 1 }
  if s.devid.toNat < t.peer then
    if !Config.mldsaVerify (Config.peerKey t.peer) (Config.sha3 t.encKey) t.signature then s
    else
      let (cipher, secret) := Config.mlkemSeal t.encKey s.fresh
      ((fresh s).sendKey t.link s.fresh cipher).keyLink t port secret
  else match (s.link t.link).keying with
    | some id => if t.cipher.isEmpty then s.sendKey t.link id [] else s.keyLink t port (Config.mlkemOpen id t.cipher)
    | none => ((fresh s).setLink t.link { s.link t.link with keying := some s.fresh }).sendKey t.link s.fresh []

/-- `link_training` (R11, R310, R315). -/
def execLinkTraining (t : LinkTraining) (s : State) : Host.Outcome State Fault Refusal :=
  .next (match portOf t with
    | none => s
    | some port => if s.intakes && s.trains t port then s.train t port else s)

/-! Flits that arrive (R313, R314, R316). -/

/-- The fields of a flit's header (R313). -/
def flitLen (f : Flit) : Nat := (f.header.extractLsb' 52 8).toNat
def flitKind (f : Flit) : Nat := (f.header.extractLsb' 48 4).toNat
def flitDst (f : Flit) : Nat := (f.header.extractLsb' 27 9).toNat
def flitHop (f : Flit) : BitVec 2 := f.header.extractLsb' 25 2
def flitDet (f : Flit) : Bool := f.header.getLsbD 24
def flitReserved (f : Flit) : BitVec 24 := f.header.extractLsb' 0 24

/-- Whether a flit's header is none that R313 gives: a reserved bit, a reserved KIND or HOP, or a LEN out of its range or not its own
(R6, R8). -/
def flitBad (f : Flit) : Bool :=
  flitReserved f != 0 || decide (12 < flitKind f) || flitHop f == 3 || decide (224 < flitLen f) || flitLen f != f.payload.length

/-- The device of a packet's next hop: the column hop comes last on a minimal route, and before the second row hop on a detour
(R311). -/
def nextHop (own dst : Nat) (det : Bool) : Nat :=
  if det then
    (if devRow own = devRow dst then dst else 32 * devRow dst + devCol own)
  else if devCol own = devCol dst then dst
  else 32 * devRow own + devCol dst

/-- A flit as it leaves on its next hop. -/
def flitOnward (f : Flit) (plain : List Byte) : Flit :=
  let h := (f.header &&& ~~~(3#128 <<< 25)) ||| ((flitHop f + 1).setWidth 128 <<< 25)
  { header := h, payload := plain, gcm := 0, counter := 0 }

/-- A flit of a link passed on towards its destination, encrypted again for its next hop; only its source router has chosen a detour (R311, R314). One
that is for this device, or that multicast routers replicate, comes to it as a message of its own (log entry 4). One for a device outside
the domain is discarded, with a report of the link. -/
def State.passOn (s : State) (n : Nat) (f : Flit) (plain : List Byte) : State :=
  let own := s.devid.toNat
  if flitDst f = own then s
  else if s.cols ≤ devCol (flitDst f) || s.rows ≤ devRow (flitDst f) then s.raise 0x0003 0 none 0 (BitVec.ofNat 32 n)
  else s.transmit (s.linkFor (portTo s.cols s.rows own (nextHop own (flitDst f) (flitDet f)))) (flitOnward f plain)

/-- A flit discarded: its replay is requested, until the 16th failure in a row takes the link down (R316). -/
def State.discardFlit (s : State) (n : Nat) : State :=
  let l := s.link n
  let s := s.setLink n { l with fails := l.fails + 1 }
  if 16 ≤ l.fails + 1 then s.dropLink n else s.control n { counter := l.rx, replay := true }

/-- A flit taken in order: it ends a failure, and is acknowledged, unless it is one of link control (R316). -/
def State.takeFlit (s : State) (n : Nat) (f : Flit) : State :=
  let s := s.setLink n { s.link n with rx := f.counter + 1, fails := 0 }
  if flitKind f = 12 then s else s.control n { counter := f.counter + 1, replay := false, ack := true }

/-- `transit_flit` (R313, R314, R316): a flit whose tag fails or that comes out of counter order is discarded, as is one with a
header that R313 does not give, which also raises a report. -/
def execTransitFlit (link : Nat) (flit : Flit) (s : State) : Host.Outcome State Fault Refusal :=
  .next (
    let l := s.link link
    if !s.intakes || !l.up then s
    else if flit.counter != l.rx then s.discardFlit link
    else match Config.gcmOpen l.rxKey (nonceOf l.rxLid flit.counter) flit.header flit.payload flit.gcm with
      | none => s.discardFlit link
      | some plain =>
        let s := s.takeFlit link flit
        if flitBad flit then s.raise 0x0003 0 none 0 (BitVec.ofNat 32 link) else s.passOn link flit plain)

end Sys2Proof.Machine
end

