-- ==== Sys2Proof/Machine/Restore.lean ====
section
/-!
DEFINITION. `ctx.load` (R376, R396-R398): how an area is read and refused, the resources that a restore waits for, and the team or
partition that it puts back.
-/

namespace Sys2Proof.Machine

/-! Accesses as they were issued (R392). -/

/-- The request of a memory instruction. -/
def reqOf (m : ModHint) : Instr → Option Req
  | .ldB d a b => some (loadReq 1 d a b m)
  | .ldH d a b => some (loadReq 2 d a b m)
  | .ldW d a b => some (loadReq 4 d a b m)
  | .ldD d a b => some (loadReq 8 d a b m)
  | .stB d a b => some (storeReq 1 d a b)
  | .stH d a b => some (storeReq 2 d a b)
  | .stW d a b => some (storeReq 4 d a b)
  | .stD d a b => some (storeReq 8 d a b)
  | .zeroLine a b => some (zeroReq a b)
  | .atomAdd d a b => some (atomReq .add d a b m)
  | .atomAddSatN d a b => some (atomReq .addSatN d a b m)
  | .atomFadd d a b => some (atomReq .fadd d a b m)
  | .atomXchg d a b => some (atomReq .xchg d a b m)
  | .atomMinI d a b => some (atomReq .minI d a b m)
  | .atomMaxI d a b => some (atomReq .maxI d a b m)
  | .atomMinN d a b => some (atomReq .minN d a b m)
  | .atomMaxN d a b => some (atomReq .maxN d a b m)
  | .atomAnd d a b => some (atomReq .andB d a b m)
  | .atomOr d a b => some (atomReq .orB d a b m)
  | .atomXor d a b => some (atomReq .xorB d a b m)
  | .atomCas d a b => some (atomReq .cas d a b m)
  | .rld d a b => some (rldReq d a b m)
  | .rst d a b => some (rstReq d a b)
  | .ratom d a b => some (ratomReq d a b m)
  | .mcst d a b => some (mcstReq d a b)
  | _ => none

/-- New identifiers of saved symbols. -/
abbrev NewIds := List (Nat × Nat)

/-- The new identifier of a code; none for a known operand. -/
def NewIds.of (ids : NewIds) (code : Nat) : Option Nat := if code = 0xFF then none else (ids.find? fun e => e.1 == code).map fun e => e.2

/-- An operand's form from a record: a uniform one has its offset in every lane's place. -/
def AreaAccess.form (r : AreaAccess) (o : Operand) (sym : Option Nat) (scale : W64) (flt half : Bool) (off : SMap W64) : Form :=
  if uniformOp o then
    { sym := sym, scale := scale, uni := true, flt := flt, half := half, off := SMap.store 0 [] 0 (off.atD (lowLane r.mask) 0) }
  else { sym := sym, scale := scale, flt := flt, half := half, off := off }

/-- The access of a request from its record, without its symbol and its positions. -/
def AreaAccess.ofReq (r : AreaAccess) (q : Req) (m : ModHint) (ids : NewIds) (order : Nat) : Access :=
  let lanes := if q.once then laneBit (lowLane r.mask) else r.mask
  let opt (o : Option Operand) (f : Operand → Form) : Form := match o with
    | none => {}
    | some o => f o
  { pc := r.pc, word := r.word, mods := r.mods, ext := r.ext, op := q.op, lanes := lanes, spread := if lanes == r.mask then 0 else r.mask
    done := r.part &&& lanes, base := .const r.base
    idx := r.form q.idx (ids.of r.isym) r.isc false false (r.idx.map fun e => (e.1, e.2.setWidth 64))
    data := opt q.data fun o => r.form o (ids.of r.dsym) r.dsc r.dflt r.dhalf r.data
    s3 := opt q.s3 fun o => r.form o (ids.of r.ssym) r.ssc false false r.s3
    p15 := q.p15, acq := m.acq, rel := m.rel, scope := m.scope.getD .dev, order := order }

/-- The access or marker of a record; none where its word is no instruction, or of KIND 00 or 01 none of such an access or fence, or its MOD is
none that R181 gives (R8, R397). A marker of KIND 10 or 11 whose word is no memory instruction's orders as an acquire or a release of the device
does. -/
def AreaAccess.restore (r : AreaAccess) (ids : NewIds) (order : Nat) : Option Access :=
  let mark (p q : BitVec 4) (sc : Scope) : Access :=
    { pc := r.pc, word := r.word, mods := r.mods, op := .fence p q, lanes := r.mask, scope := sc, order := order }
  let alone : Option Access := if r.kind = 2 then some (mark 8 12 .dev) else if r.kind = 3 then some (mark 12 4 .dev) else none
  match modHintOf r.mods, decodeWord r.word with
  | none, _ | _, none => none
  | some _, some (.fence p q sc) => some (mark p q sc)
  | some m, some i => match reqOf m i with
    | some q => some (r.ofReq q m ids order)
    | none => alone

/-- The destination that an access's instruction gives its result to. -/
def Access.boundTo (a : Access) : Operand :=
  match decodeWord a.word, modHintOf a.mods with
  | some i, some m => ((reqOf m i).bind fun q => q.dest).getD .zero
  | _, _ => .zero

/-- Whether an access's instruction binds its result to a register. -/
def Access.binds (a : Access) : Bool := takesSymbol a.boundTo

/-- The symbol of a restored access: that of the record which names it, else of one which names another part of the same access. -/
def symbolFor (ys : List AreaSymbol) (ids : NewIds) (src i : Nat) (a : Access) (all : List (Nat × Nat × Access)) : Option Nat :=
  let part (y : AreaSymbol) : Bool := all.any fun e =>
    e.1 == y.src && e.2.1 == y.index && e.2.2.pc == a.pc && e.2.2.word == a.word && e.2.2.lanes &&& a.lanes == 0
  let own := ys.find? fun y => y.src == src && y.index == i
  let y := match own with
    | some y => some y
    | none => if a.binds then ys.find? fun y => y.src ≠ 2 && part y else none
  y.bind fun y => ids.of y.id

/-- Accesses numbered by their source and index, with their symbols. -/
def withSymbols (ys : List AreaSymbol) (ids : NewIds) (all : List (Nat × Nat × Access)) : List (Nat × Nat × Access) :=
  all.map fun e => (e.1, e.2.1, { e.2.2 with rsym := symbolFor ys ids e.1 e.2.1 e.2.2 all })

/-! What a restore refuses (R397). -/

/-- Whether an instruction names a handle. -/
def namesHandle : Instr → Bool
  | .tload _ _ | .cp _ _ | .cpSg _ _ | .hWait _ | .hSet _ _ _ | .hSetFree _ | .hQ _ _ | .pullReq _ _ | .grantCfg _ _ _ | .xferQ _ _
  | .smp _ _ _ | .smpQ _ _ => true
  | _ => false

/-- The instruction of a group at a splinter's address, with the address of its word. -/
def State.instrAt (s : State) (w : Who) (p : AreaSplinter) : Option (Instr × W64) :=
  let pc := p.pc &&& ~~~3#64
  match s.fetchGroup w (lowLane p.mask) 6 {} 0 pc.toNat with
  | .group _ i n _ => some (i, pc + BitVec.ofNat 64 (4 * (n - 1)))
  | _ => none

/-- The instruction that a splinter waits at: of a dictionary word, the entry that issues next (R183, R184). -/
def State.waitsAt (s : State) (w : Who) (e : EntryRecord) (p : AreaSplinter) : Option Instr :=
  match s.instrAt w p with
  | some (.dictionaryWord hi lo, _) =>
    let i := if p.pc.getLsbD 0 then lo else hi
    match s.fetchWord w (lowLane p.mask) ((e.dict.toNat + 4 * i.toNat) % 2 ^ 64) with
    | .word v => decodeWord v
    | _ => none
  | i => i.map fun i => i.1

/-- A tensor operation from its record; none where its word is not one. -/
def AreaOp.kind (o : AreaOp) : Option TensorKind :=
  match decodeWord o.word with
  | some (.tload x h) => some (.tload (bankNumber x) h.toNat)
  | some (.mma x y zc nb na acc) => some (.mma acc.toNat (bankNumber x) (bankNumber y) zc nb na)
  | some (.accZero x) => some (.zero (bankNumber x))
  | some (.accLd x _) => some (.ld (bankNumber x) o.addr o.lock)
  | some (.accSt x _) => some (.st (bankNumber x) o.addr o.lock)
  | _ => none

/-- The view of the team of an area. -/
def Area.who (a : Area) (c : Nat) (e : EntryRecord) : Who := { core := c, part := a.part, privAt := a.privb.toNat, priv := e.priv }

/-- Whether an area may not go to a core other than its own (R397). -/
def State.boundTo (s : State) (a : Area) (c : Nat) (e : EntryRecord) : Bool :=
  e.sv || ((s.barList a.part e).getD []).any (fun b => b.1 == 0) || a.symbols.any (fun y => y.src == 2) ||
    a.ops.any (fun o => match o.kind with
      | some (.tload _ _) => true
      | _ => false) ||
    a.splinters.any fun p => p.st == 3 && (s.waitsAt (a.who c e) e p).any namesHandle

/-- The entry of an area's team, as the table has it now, with the sizes that the area gives. -/
def State.areaEntry (s : State) (a : Area) : Option EntryRecord :=
  (s.entry? a.part a.entry).map fun e => { e with wm := a.wm, rg := a.rg, wg := a.wg }

/-- The walks of the device's reads of the instructions at which a splinter waits: of its group, and of the entry that a dictionary word names
(R397, R410). -/
def State.walkWaiter (s : State) (w : Who) (e : EntryRecord) (p : AreaSplinter) : State :=
  let lane := lowLane p.mask
  let pc := (p.pc &&& ~~~3#64).toNat
  let s := s.laneWalks w .fetch lane pc (4 * s.groupLen w lane pc)
  match s.instrAt w p with
  | some (.dictionaryWord hi lo, _) =>
    s.laneWalks w .fetch lane ((e.dict.toNat + 4 * (if p.pc.getLsbD 0 then lo else hi).toNat) % 2 ^ 64) 4
  | _ => s

/-- The place of a sampler job's record that tells its result (R337, R396). -/
def State.jobRecord (s : State) (c h : Nat) : Nat := (s.handle c h).base.toNat + 19

/-- The walks of the device's reads for an area that is loaded on a core: of its entry and its barrier list, of the instructions at which its
splinters wait or are held at a join, and of the records of its sampler jobs (R397, R410). -/
def State.walkArea (s : State) (c : Nat) (a : Area) : State :=
  let s := s.walkEntry a.part a.entry
  match s.areaEntry a with
  | none => s
  | some e =>
    let s := (a.splinters.filter fun p => p.st == 2 || p.st == 3).foldl (fun s p => s.walkWaiter (a.who c e) e p) (s.walkBars a.part e)
    (a.symbols.filter fun y => y.src == 2 && (s.handle c y.index).st == .full).foldl
      (fun s y => s.walks (deviceWho c a.part) .load (s.jobRecord c y.index) 5) s

/-- Whether a team area is refused for a core (R397). -/
def State.areaRefused (s : State) (a : Area) (c : Nat) : Bool :=
  match s.areaEntry a with
  | none => true
  | some e =>
    (c != a.core && s.boundTo a c e) || a.ops.any (fun o => o.kind.isNone) ||
      (a.deferred ++ a.parked).any fun r => (r.restore [] 0).isNone

/-! Resources (R396, step 1). -/

/-- Whether the lanes, the registers, with those of a share group that is not live, and the slot of a team fit a core and the partition's quotas
(R15, R59, R148, R396). -/
def State.teamFits (s : State) (c p : Nat) (e : EntryRecord) : Bool :=
  let k := s.core c
  let q := s.quota c p
  let here (n : Nat) : Bool := n == p
  decide (k.lanesUsed + e.width ≤ 16384) && decide (k.vrfUsed (fun _ => true) + k.vrfNeed e ≤ 0x100000) && decide (k.urfUsed (fun _ => true) + e.wregs * 8 ≤ 0x4000) &&
    decide ((k.resident.filter fun t => t.2.pool == p).length < quotaTeams q) &&
    k.groupAdmits p e && decide (k.vrfUsed here + k.vrfNeed e ≤ quotaVrf q) && decide (k.urfUsed here + e.wregs * 8 ≤ quotaUrf q) &&
    decide (k.slotsUsed p + e.slots ≤ quotaSlots q)

/-- Claims put back one after another, pairs first, with the marks that a ticket keeps; none where operand slots are wanting (R265, R396). -/
def State.placeClaims (s : State) (c t : Nat) (kept : SMap Claim) : List (Nat × AreaTile) → Option State
  | [] => some s
  | (n, z) :: rest => match s.team? c t with
    | none => none
    | some x => match s.claimPlace c x z.pair with
      | none => none
      | some (i, own) =>
        let mark := (kept.atD n {}).pois.getD .addr
        let k : Claim :=
          { record := z.record, first := i, pair := z.pair, reserved := own, bytes := z.bytes, pois := if z.pois then some mark else none }
        let s : State := { s with fresh := s.fresh + 1 }
        (s.setTeam c t { x with tiles := x.tiles.put n k }).placeClaims c t kept rest

/-- The position that a saved item's record names: it is out, and has not reached its release point. -/
def State.heldPosition (s : State) (p : Nat) (i : Item) : Option Position :=
  (s.flow p i.flow).positions.find? fun q => q.seq == i.seq && !q.recorded && q.core.isNone && q.slot == noSlot

/-- Held stores put back, each in its flow's reserve or in the shared space; none where the buffer has no room (R42, R396). Of the record of an
altered area, the position is that of its flow and number. -/
def State.placeStores (s : State) (c : Nat) : List OsEntry → Option State
  | [] => some s
  | e :: rest =>
    let id := if e.pos != 0 then e.pos
      else (((s.flow e.part e.flow).positions.find? fun q => q.seq == e.seq && q.core == some c).map fun q => q.id).getD 0
    if !(s.osRoom c id) then none
    else (s.onCore c fun k => { k with osb := k.osb ++ [{ e with pos := id }] }).placeStores c rest

/-- The ordered positions of an area's items back on a core; none where a flow finds no place there (R41, R396). -/
def State.placeItems (s : State) (c t p : Nat) : List Item → Option State
  | [] => some s
  | i :: rest =>
    if i.cls != 1 || i.pos = 0 then s.placeItems c t p rest
    else if !(s.flowFits c p i.flow i.pos i.seq) then none
    else (s.onPosition i.pos fun q => { q with core := some c, slot := t, lanes := i.mask, first := i.since }).placeItems c t p rest

/-- The positions that stayed in the buffer while their team was out, by the number of its save. -/
def State.leftBehind (s : State) (num : Nat) : List (FlowRecord × Position) :=
  s.flows.flatMap fun f => (f.positions.filter fun q => q.out == some num).map fun q => (f, q)

/-- The positions of a team that stayed in the buffer joined with it again, and moved with it to another core, where that has room for them
(R41, R42, R386). `exact` tells that the team's accesses keep their numbers; else the release waits for all `n` of them where it waited for any. -/
def State.rejoin (s : State) (c t n : Nat) (exact : Bool) : List (FlowRecord × Position) → Option State
  | [] => some s
  | (f, q) :: rest =>
    let back (q : Position) : Position :=
      let r := { q with core := some c, slot := t, out := none, barred := false }
      if exact then r else { r with first := 0, since := 0, limit := if q.barred then n else 0 }
    let es := (s.cores.filter fun k => k.1 != c).flatMap fun k => k.2.osb.filter fun e => e.pos == q.id
    let away : State := { s with cores := s.cores.map fun k => if k.1 = c then k else (k.1, { k.2 with osb := k.2.osb.filter fun e => e.pos != q.id }) }
    if q.core = some c then (s.onPosition q.id back).rejoin c t n exact rest
    else if !(s.flowFits c f.part f.label q.id q.seq) then none
    else match (away.onPosition q.id back).placeStores c es with
      | none => none
      | some s => s.rejoin c t n exact rest

/-- Pending operations queued again, with the pages that a ticket knows to be left out; a lock held on another core is taken anew. None where the queue or the lock table is full (R396, step
6). -/
def State.placeOps (s : State) (c t : Nat) (a : Area) : List (AreaOp × List Nat) → Option State
  | [] => some s
  | (o, bad) :: rest => match o.kind with
    | none => none
    | some kind =>
      let add (s : State) (kind : TensorKind) : State := s.onCore c fun k =>
        { k with tq := k.tq ++ [{ slot := t, part := a.part, pc := o.pc, word := o.word, batch := o.batch, kind := kind, stall := { badPages := bad } }] }
      let far (l : Nat) (f : Nat → TensorKind) : Option State :=
        if c = a.core then (add s kind).placeOps c t a rest
        else match (s.core c).freeLocks, (s.core a.core).locks.at? l with
          | i :: _, some e => (add ((s.unlock a.core l).lock c i e) (f i)).placeOps c t a rest
          | _, _ => none
      if 64 ≤ (s.core c).tq.length then none
      else match kind with
        | .ld n x l => far l fun i => .ld n x i
        | .st n x l => far l fun i => .st n x i
        | _ => (add s kind).placeOps c t a rest

/-! The team put back (R396). -/

/-- The poison of a register or symbol among the entries of an area. -/
def Area.poisonOf (a : Area) (code : Nat) (symbol : Bool) : SMap Origin :=
  (a.poison.filter fun p => p.code == code && p.symbol == symbol).foldl
    (fun m p => (lanesOf p.mask).foldl (fun m l => SMap.put m l p.origin) m) []

/-- Registers of an area as a team holds them; a ticket knows the lanes that a form has had alone since they were packed (R58). -/
def Area.vregMap (a : Area) (ids : NewIds) (kept : SMap VReg) : SMap VReg :=
  (((List.range a.vregs.length).zip a.vregs).map fun e =>
    (e.1, { e.2 with
      sym := if e.2.st = .symbolic then (ids.of e.2.sym).getD 0 else 0, pois := a.poisonOf e.1 false
      alone := if e.2.st = .symbolic then (kept.atD e.1 {}).alone else 0 })).filter fun e => e.2 != {}

def Area.uregMap (a : Area) (ids : NewIds) : SMap UReg :=
  (((List.range a.uregs.length).zip a.uregs).map fun e =>
    (e.1, { e.2 with sym := e.2.sym.bind ids.of, pois := (a.poisonOf (0x80 + e.1) false).at? 0 })).filter fun e => e.2 != {}

/-- Masks by number, without empty ones. -/
def maskMap (ms : List Mask) : SMap Mask := ((List.range ms.length).zip ms).filter fun e => e.2 != 0

/-- What lanes that have been relabelled wait for: their token, which may have been granted while the team was out (R37, R43). -/
def tokenWait (items : List Item) (m : Mask) : Wait := if items.any fun i => i.wtok && i.mask &&& m != 0 then .token else .tokenDone

/-- A splinter put back from its record (R384, R389): at `join.arr` with its label again; at `flow.set` waiting for the token alone. -/
def State.splinterBack (s : State) (w : Who) (items : List Item) (p : AreaSplinter) : Splinter :=
  let r : Splinter := { pc := p.pc &&& ~~~3#64, half := p.pc.getLsbD 0, mask := p.mask, idle := p.idle, did := p.mask &&& ~~~p.rmask }
  if p.st = 1 then (if p.rmask = 0 then { r with did := 0, st := .held true } else { r with st := .held false })
  else if p.st = 2 then
    match s.instrAt w p with
    | some (.joinArr j off, a) => { r with st := .joinWait (joinOf j) (a + 4 * off.signExtend 64) }
    | _ => r
  else if p.st = 3 then
    match s.instrAt w p with
    | some (.flowSet _ _, _) => if p.rmask = 0 then { r with did := 0, st := .waiting (tokenWait items p.mask) } else { r with st := .waiting .issue }
    | _ => { r with st := .waiting .issue }
  else r

/-- A splinter put back as a ticket keeps it, with what its instruction has read and done: what it waited for is tried again (R384). -/
def Splinter.back (items : List Item) (p : Splinter) : Splinter :=
  let st : SplinterState := match p.st with
    | .waiting .token | .waiting .tokenDone => .waiting (tokenWait items p.mask)
    | .waiting _ => .waiting .issue
    | .fetchHeld _ => .able
    | st => st
  { p with st := st, armed := none, due := false }

/-- An item put back, with its position; the token that it waits for may have been granted while the team was out (R37, R43). -/
def State.itemBack (s : State) (p : Nat) (i : Item) : Item :=
  let f := s.flow p i.flow
  let i := { i with part := p, pos := if i.cls = 1 then ((s.heldPosition p i).map fun q => q.id).getD 0 else 0 }
  if i.wtok && f.tok && f.holder == BitVec.ofNat 32 i.seq then { i with tok := true, wtok := false } else i

/-- The waits of a team's items for tokens, at its new place. -/
def State.waitersBack (s : State) (c t p : Nat) (items : List Item) : State :=
  let mine (f : FlowRecord) (w : Waiter) : Bool := f.part == p && w.queued.isNone && w.slot == noSlot &&
    items.any fun i => i.wtok && i.flow == f.label && i.seq == w.seq
  { s with flows := s.flows.map fun f => { f with waiters := f.waiters.map fun w => if mine f w then { w with core := c, slot := t } else w } }

/-- The sampler jobs that a team had registered before it was saved are its own again, in its new slot (R336, R384). -/
def State.jobsBack (s : State) (c t : Nat) (save : Option Nat) : State :=
  s.onSector (sectorOf c) fun q => { q with
    offered := q.offered.map fun j => if j.away.isSome && j.away == save then { j with slot := t, away := none } else j }

/-- The result of a sampler job on a handle that is FULL, read from its record (R337, R396). -/
def State.jobValue (s : State) (c p h : Nat) : Option W64 :=
  let x := s.handle c h
  if x.st != .full then none
  else match s.readRange (deviceWho c p) (s.jobRecord c h) 5 with
    | some (st :: tok) => if x.err = errFault then some (BitVec.ofNat 64 (stFault * 2 ^ 32 + noToken))
        else some (BitVec.ofNat 64 (st.toNat * 2 ^ 32 + leNat tok))
    | _ => some (BitVec.ofNat 64 (stFault * 2 ^ 32 + noToken))

/-- A saved symbol put back (R391, R396). -/
def State.symbolBack (s : State) (c t : Nat) (a : Area) (index : Nat) (r : AreaSymbol) (waiting : Mask) (uni : Bool) : Symbol :=
  let y : Symbol :=
    { slot := t, uni := uni, arrived := r.arrived, vals := r.vals.filter fun e => r.arrived.getLsbD e.1, pois := a.poisonOf index true, w64 := r.w64 }
  if r.src = 2 then
    let z : Symbol := { y with lanes := if r.arrived = 0 then 1 else r.arrived, uni := true, src := .handle r.index }
    match s.jobValue c a.part r.index with
    | some v => if r.arrived = 0 then z.put 0 v none else z
    | none => z
  else { y with lanes := r.arrived ||| waiting }

/-- The position that each lane of a `.o` store of an altered area belongs to, as the items have it (R221, R392). -/
def holdAgain (x : Team) (mods : BitVec 24) (m : Mask) : SMap Nat :=
  if !mods.getLsbD 9 then []
  else (lanesOf m).filterMap fun l => (x.itemOf l).bind fun i => if i.2.cls = 1 && i.2.pos != 0 then some (l, i.2.pos) else none

/-- A parked access tried again for its incomplete lanes (R396, step 4). -/
def State.retryParked (s : State) (c t : Nat) (w : Who) (a : Access) : State :=
  if a.left = 0 then s
  else
    let r := s.passAccess w t a none true
    if r.left = 0 then r.s else r.s.queueAccess c t { a with lanes := r.left, done := 0 }

/-- A pending condition raised again (R354, R396): that of an atomic's ISAT waits for the atomic's returns. -/
def State.conditionBack (s : State) (c p : Nat) (accs : List Access) (cd : Condition) : Condition :=
  if cd.cause = .arith then
    { cd with code := (s.flags c p &&& s.enabled c p).toNat
              order := ((accs.find? fun a => a.pc == cd.eiaddr).map fun a => a.order).getD 0 }
  else cd

/-- The ticket of an area: of several that hold the same bytes, that of the first save. -/
def State.ticketFor (s : State) (a : Area) : Option Ticket :=
  s.tickets.find? fun k => k.part == a.part && k.image == a.encode

/-- The save that an area comes from, an altered one by its header: its positions join the team again, and held lanes without a record. -/
def State.saveFor (s : State) (a : Area) : Option Ticket :=
  (s.ticketFor a).or (s.tickets.find? fun k => k.part == a.part && k.image.take 64 == a.encode.take 64)

/-- The accesses of an area, parked (1) and deferred (0), with their places in its sections: as a ticket keeps them, else from their records. -/
def Area.accesses (a : Area) (news : NewIds) (kept : Option Ticket) : List (Nat × Nat × Access) :=
  let number (src : Nat) (l : List Access) : List (Nat × Nat × Access) := ((List.range l.length).zip l).map fun r => (src, r.1, r.2)
  match kept with
  | some k => number 1 (k.parked.map (Access.renames (NewIds.of news))) ++ number 0 (k.team.queue.map (Access.renames (NewIds.of news)))
  | none =>
    let np := a.parked.length
    let back (src n : Nat) (l : List AreaAccess) : List (Nat × Nat × Access) :=
      ((List.range l.length).zip l).filterMap fun r => (r.2.restore news (n + r.1)).map fun x => (src, r.1, { x with part := a.part })
    withSymbols a.symbols news (back 1 0 a.parked ++ back 0 np a.deferred)

/-- A team of an area put back on a core in a free slot; none where it has to wait for a resource (R396). Its ticket gives back what the area has
no field for (log entry 33). -/
def State.placeArea (s : State) (c : Nat) (a : Area) (e : EntryRecord) : Option State := do
  let k := s.core c
  let p := a.part
  let t ← choose s.fresh (freeKeys k.teams 0 32)
  let ids := (freeKeys k.syms 0 256).take a.symbols.length
  let phys := k.freeAccs.take a.accs.length
  let reserve ← takeReserve k.freeSlots e.slots
  if !(s.teamFits c p e) || ids.length != a.symbols.length || phys.length != a.accs.length ||
      decide (224 < (k.syms.filter fun y => !y.2.sys).length + a.symbols.length) || decide (128 < k.queued + a.deferred.length) then none
  let news : NewIds := (a.symbols.map fun y => y.id).zip ids
  let n := a.parked.length + a.deferred.length
  let kept := s.ticketFor a
  let old : Team := (kept.map fun k => k.team).getD {}
  let origin := s.saveFor a
  let save := origin.map fun k => k.num
  let accs := a.accesses news kept
  let sinces := (kept.map fun k => k.team.saved.map Item.since).getD []
  let items := ((List.range a.items.length).zip a.items).map fun i => { s.itemBack p i.2 with since := sinces.getD i.1 0 }
  let w := a.who c e
  let x : Team :=
    { part := p, entryIdx := a.entry, entry := e, age := s.fresh, quarter := Config.pick s.fresh % 4
      vregs := a.vregMap news old.vregs, uregs := a.uregMap news, preds := maskMap a.preds, joins := maskMap a.joins
      p15pend := (accs.filter fun r => r.2.2.p15 && !r.2.2.sys && r.2.2.left != 0).length
      accs := (a.accs.map fun z => z.1).zip phys
      splinters := match kept with
        | some k => k.team.splinters.map (Splinter.back items)
        | none => a.splinters.map (s.splinterBack w items) ++ ((origin.map fun k => k.team.leftOut).getD []).map (Splinter.back items)
      items := items, released := a.released
      barGen := a.barGen, batch := a.batch, batchPois := old.batchPois, batchFlags := old.batchFlags, stage := a.stage, privBase := a.privb
      reserve := reserve, lastIssue := s.clock
      orderCtr := if kept.isSome then old.orderCtr else n
      pend := if kept.isSome then old.pend else a.pend.map (s.conditionBack c p (accs.map fun r => r.2.2)) }
  let s : State := { s with fresh := s.fresh + 1 }
  let s := (s.setTeam c t x).onCore c fun k => { k with
    accs := (phys.zip a.accs).foldl (fun m z =>
      SMap.put m z.1 { z.2.2 with pois := z.2.2.pois.map fun o => ((kept.bind fun k => k.marks.at? z.2.1).getD o) }) k.accs
    groups := if (k.groups.at? e.sg).isSome then k.groups else (k.joinGroup p e).groups }
  let s ← s.placeClaims c t old.tiles ((a.tiles.filter fun z => z.2.pair) ++ a.tiles.filter fun z => !z.2.pair)
  let s ← s.placeItems c t p items
  let s ← s.rejoin c t n kept.isSome (match save with
    | some num => s.leftBehind num
    | none => [])
  let s : State := { (s.waitersBack c t p items).jobsBack c t save with tickets := s.tickets.filter fun k => some k.num != save }
  let s ← s.placeStores c ((kept.map fun k => k.stores).getD a.stores)
  let s ← s.placeOps c t a (((List.range a.ops.length).zip a.ops).map fun o =>
    (o.2, ((kept.bind fun k => k.ops[o.1]?).map fun p => p.stall.badPages).getD []))
  let held (r : Access) : Access := match r.op with
    | .store _ => if kept.isSome then r else { r with hold := holdAgain x r.mods r.left }
    | _ => r
  let waiting (n : Nat) : Mask := (accs.filter fun r => r.2.2.rsym == some n).foldl (fun m r => m ||| r.2.2.left) 0
  let syms := ((List.range a.symbols.length).zip (a.symbols.zip ids)).map fun y =>
    (y.2.2, s.symbolBack c t a y.1 y.2.1 (waiting y.2.2) (accs.any fun r => r.2.2.rsym == some y.2.2 && uniformOp r.2.2.boundTo))
  let s := (s.discardLines c p .sys).onCore c fun k => { k with syms := syms.foldl (fun m y => SMap.put m y.1 y.2) k.syms }
  let s := (accs.filter fun r => r.1 == 0).foldl (fun s r => s.queueAccess c t (held r.2.2)) s
  let s := (accs.filter fun r => r.1 == 1).foldl (fun s r => s.retryParked c t w (held r.2.2)) s
  some (s.drainCore c)

/-! Reading areas. -/

/-- Bytes of an area loaded; what keeps the device from them is a double trap, or consumption of poison (R359, R380). -/
def Ctx.readArea (cx : Ctx) (a n : Nat) (k : List Byte → Did) : Did :=
  match cx.s.rangeParts cx.who .load (chunksOf a n) with
  | .error (a, sp) => .gone (cx.recordTrouble a sp)
  | .ok ps => match cx.s.badPart ps with
    | some tag => .gone (cx.s.consume true tag)
    | none => k (cx.s.readParts ps)

/-- A load that is over: it is no longer in progress. -/
def State.endLoad (s : State) (target : Nat) : State := { s with loads := s.loads.filter fun e => e.1 != target }

/-- A load refused (R376, R397). -/
def Ctx.refuseLoad (cx : Ctx) (target : Nat) : Did := Ctx.refuse { cx with s := cx.s.endLoad target }

/-- What a load comes to: the restored state, or a wait. -/
def Ctx.finishLoad (cx : Ctx) (target : Nat) : Option State → Did
  | some s => .done (cx.writeP15 (s.endLoad target) fun _ => true) 0
  | none =>
    let s := cx.s
    .wait (if s.loads.any fun e => e.1 == target then s else { s with loads := s.loads ++ [(target, cx.agent)] }) .issue

/-- Whether a save or load of a target is under way for another team (R376). -/
def Ctx.targetBusy (cx : Ctx) (target p : Nat) : Bool :=
  (cx.s.part p).saver.isSome || cx.s.loads.any fun e => e.1 == target && e.2 != cx.agent

/-! The load of one team (K = 0). -/

def Ctx.loadTeam (cx : Ctx) (w : Nat) : Did :=
  let a := areaAddr w
  let c := bits w 5 8
  cx.readArea a 64 fun h =>
    let v := leNat h
    let size := bits v 448 64
    if size < 64 || areaLimit < size then cx.refuseLoad (8 + a)
    else cx.readArea (a + 64) (size - 64) fun bs => match Area.decode v bs with
      | none => cx.refuseLoad (8 + a)
      | some r =>
        let cx : Ctx := { cx with s := cx.s.walkArea c r }
        if cx.targetBusy (8 + a) r.part then cx.refuse
        else if cx.s.areaRefused r c then cx.refuseLoad (8 + a)
        else match cx.s.areaEntry r with
          | none => cx.refuseLoad (8 + a)
          | some e => cx.finishLoad (8 + a) (cx.s.placeArea c r e)

/-! The load of a partition (K = 1). -/

/-- The team areas of a partition area and what follows them, from the bytes after a place in it; none where one is refused. -/
def cutAreas : Nat → Nat → List Byte → Option (List Area × List Byte)
  | 0, _, bs => some ([], bs)
  | n + 1, at_, bs =>
    let bs := bs.drop (roundUp at_ 8192 - at_)
    match takeBytes 64 bs with
    | none => none
    | some (h, r) =>
      let v := leNat h
      let size := bits v 448 64
      if size < 64 || areaLimit < size then none
      else match Area.decode v (r.take (size - 64)) with
        | none => none
        | some a => (cutAreas n (roundUp at_ 8192 + size) (r.drop (size - 64))).map fun t => (a :: t.1, t.2)

/-- A group of a partition area: its core, its number and itself. DESIGN CHOICE: the bits of a head, as of a barrier record, that the layout of
log entry 32 gives no field are ignored. -/
def readGroups (p : Nat) : Nat → List Byte → Option (List (Nat × Nat × ShareGroup) × List Byte)
  | 0, bs => some ([], bs)
  | n + 1, bs => match takeBytes 16 bs with
    | none => none
    | some (h, r) =>
      let v := leNat h
      let count := bits v 18 5 + 1
      let wm := bits v 23 5
      let w := 32 * (wm + 1)
      match takeBytes (4 * w * count) r with
      | none => none
      | some (d, r) =>
        let first := bits v 11 7
        let reg (i : Nat) : VReg :=
          let m : SMap W32 := lanesAt 4 w (d.drop (4 * w * i))
          if m = [] then {} else { st := .perLane, lanes := m }
        let g : ShareGroup :=
          { part := p, first := first, count := count, wm := wm, members := bits v 64 16
            regs := ((List.range count).map fun i => (first + i, reg i)).filter fun e => e.2 != {}
            full := (List.range count).map fun i => (first + i, bits v (32 + i) 1 == 1) }
        (readGroups p n r).map fun t => ((bits v 0 8, bits v 8 3, g) :: t.1, t.2)

/-- A barrier of a partition area. -/
def barrierOf (p : Nat) (bs : List Byte) : Option (Nat × Nat × Nat × Barrier) :=
  let v := leNat bs
  if 2 < bits v 0 2 then none
  else some (bits v 0 2, bits v 8 8, bits v 2 6,
    { exp := BitVec.ofNat 32 (bits v 64 32), arr := BitVec.ofNat 32 (bits v 96 32), gen := bits v 16 1 == 1, last := bits v 17 1 == 1
      owned := true, entry := bits v 32 16, part := p })

/-- A request of a partition area (R309): a HOLE has nothing of its token counted as arrived. -/
def requestBack (now : W64) (bs : List Byte) : Option (Option PullEntry) :=
  let v := leNat bs
  if bits v 1 62 != 0 || bits v 95 2 == 3 then none
  else if bits v 0 1 = 0 then some none
  else
    let hole (lo : Nat) : TokenSlot := if bits v (lo + 10) 1 = 1 then .hole (bits v lo 10) [] else .free
    let r : PullEntry :=
      { off := bits v 224 32, len := bits v 199 25, gnext := bits v 174 25, slots := [hole 130, hole 141, hole 152, hole 163]
        orph := bits v 120 10 * cyclesPerUs, since := now, sdev := bits v 111 9, score := bits v 103 8, sh := bits v 97 6
        path := bits v 95 2, ue := bits v 95 2 == 2, pri := bits v 92 3, dcore := bits v 84 8, dh := bits v 78 6, pfxl := bits v 63 15 }
    some (some { r with inLevel := r.grantable })

/-- The lists of a partition area: groups, barriers, the configuration word and the requests. -/
structure PartRest where
  groups : List (Nat × Nat × ShareGroup)
  bars : List (Nat × Nat × Nat × Barrier)
  caller : W64
  requests : List PullEntry

/-- Those lists read from the bytes behind the team areas (R395). -/
def PartRest.read (p v : Nat) (now : W64) (bs : List Byte) : Option PartRest := do
  let (gs, bs) ← readGroups p (bits v 424 8) bs
  let (b, bs) ← takeBytes (16 * bits v 412 12) bs
  let bars ← (cutAll (List.replicate (bits v 412 12) 16) b).bind (readEach (barrierOf p))
  let (word, bs) ← takeBytes 8 bs
  let (q, _) ← takeBytes (32 * bits v 397 15) bs
  let rs ← (cutAll (List.replicate (bits v 397 15) 32) q).bind (readEach (requestBack now))
  if leNat word &&& (2 ^ 64 - 1 - (Ctl.caller p).mask.toNat) != 0 || 64 < bits (leNat word) 0 7 then none
  some { groups := gs, bars := bars, caller := BitVec.ofNat 64 (leNat word), requests := rs.filterMap id }

/-- A group allocated again; none where its number or its storage is taken (R59, R395). -/
def State.placeGroup (s : State) (p : Nat) (g : Nat × Nat × ShareGroup) : Option State :=
  let k := s.core g.1
  let q := s.quota g.1 p
  match k.groups.at? g.2.1 with
  | some _ => none
  | none =>
    if 0x100000 < k.vrfUsed (fun _ => true) + g.2.2.bytes || quotaVrf q < k.vrfUsed (fun n => n == p) + g.2.2.bytes then none
    else some (s.onCore g.1 fun k => { k with groups := k.groups.put g.2.1 g.2.2 })

/-- A barrier owned again; none where another entry owns it (R146, R395). -/
def State.placeBar (s : State) (p : Nat) (b : Nat × Nat × Nat × Barrier) : Option State :=
  let old := s.bar b.1 b.2.1 b.2.2.1
  if old.owned && !(old.part == p && old.entry == b.2.2.2.entry) then none else some (s.setBar b.1 b.2.1 b.2.2.1 b.2.2.2)

/-- Each of a list placed, or none. -/
def placeAll {α : Type} (f : State → α → Option State) (s : State) : List α → Option State
  | [] => some s
  | a :: as => match f s a with
    | none => none
    | some s => placeAll f s as

/-- Whether two entries are of one sender, by its path, and one receive handle. -/
def PullEntry.pairs (a b : PullEntry) : Bool :=
  a.path == b.path && a.sdev == b.sdev && a.score == b.score && a.sh == b.sh && a.dcore == b.dcore && a.dh == b.dh

/-- Entries of an area with what the device has kept of the requests that it saved there, each request for one entry at most. -/
def reunited (kept : List PullEntry) : List PullEntry → List PullEntry
  | [] => []
  | r :: rs => match kept.find? r.pairs with
    | some o => { r with id := o.id, ue := o.ue, stalled := o.stalled, stall := o.stall } :: reunited (kept.erase o) rs
    | none => r :: reunited kept rs

/-- The Caller's list reloaded in the saved order; what has arrived since the save follows it (R308). -/
def Partition.reload (q : Partition) (caller : W64) (rs : List PullEntry) (now : W64) : Partition :=
  let late := q.savedRequests.filter fun o => !o.inArea
  { q with
    caller := caller, savedRequests := [], callerSaved := false, preempted := false, saver := none
    requests := reunited (q.savedRequests.filter PullEntry.inArea) rs ++ (late.map fun r => { r with since := now }) ++ q.requests }

/-- Requests that no record of the device knows numbered anew. -/
def State.numberRequests (s : State) (rs : List PullEntry) : State × List PullEntry :=
  rs.foldl (fun (a : State × List PullEntry) r =>
    ({ a.1 with fresh := a.1.fresh + 1 }, a.2 ++ [{ r with id := a.1.fresh }])) (s, [])

/-- A partition put back: groups, barriers and the Caller before its teams, each on the core that it was saved from (R396, R398). -/
def State.placePart (s : State) (p : Nat) (as : List Area) (r : PartRest) : Option State :=
  match placeAll (fun s g => s.placeGroup p g) s r.groups with
  | none => none
  | some s => match placeAll (fun s b => s.placeBar p b) s r.bars with
    | none => none
    | some s =>
      let (s, rs) := s.numberRequests r.requests
      let s := s.onPart p fun q => q.reload r.caller rs s.clock
      placeAll (fun s a => (s.areaEntry a).bind (s.placeArea a.core a)) s as

def Ctx.loadPart (cx : Ctx) (w : Nat) : Did :=
  let a := areaAddr w
  let p := bits w 0 3
  if cx.targetBusy p p then cx.refuse
  else cx.readArea a 64 fun h =>
    let v := leNat h
    let size := bits v 448 64
    if size < 64 || decide (2 ^ 37 < size) || bits v 445 3 != p then cx.refuseLoad p
    else cx.readArea (a + 64) (size - 64) fun bs => match cutAreas (bits v 432 13) 64 bs with
      | none => cx.refuseLoad p
      | some (as, bs) => match PartRest.read p v cx.s.clock bs with
        | none => cx.refuseLoad p
        | some r =>
          let cx : Ctx := { cx with s := as.foldl (fun s a => s.walkArea a.core a) cx.s }
          if as.any fun z => z.part != p || cx.s.areaRefused z z.core then cx.refuseLoad p
          else cx.finishLoad p (cx.s.placePart p as r)

/-- `ctx.load` (R376, R396-R398). -/
def execCtxLoad (d : Operand) (k : Bool) : State → Host.Outcome State Fault Refusal :=
  perform { ops := [d], priv := true, p15 := true, ok := fun cx => cx.isU d } fun cx =>
    cx.blockOn [d] fun cx =>
      let w := ((cx.read d).at_ 0).toNat
      if areaWordBad w k then cx.refuse else if k then cx.loadPart w else cx.loadTeam w

end Sys2Proof.Machine
end

