-- ==== Sys2Proof/Machine/Sync.lean ====
section
/-!
DEFINITION. Majors 0x27 to 0x29: fences (R231), hardware barriers (R232-R235) and shared registers (R236).
-/

namespace Sys2Proof.Machine

/-! Fences (R103, R109, R231). -/

/-- `fence` (R231): performed at once when nothing that it orders waits, else a marker in the queue; none with an empty set (R175). -/
def execFence (pred succ : BitVec 4) (scope : Scope) : State → Host.Outcome State Fault Refusal :=
  perform { ops := [.lane] } fun cx =>
    let a : Access :=
      { pc := cx.iaddr, word := cx.word, op := .fence pred succ, lanes := cx.act, scope := scope, sys := cx.sys, part := cx.part, order := cx.x.orderCtr }
    if pred = 0 || succ = 0 then .done cx.s 0
    else if cx.s.mayPerform cx.c cx.t cx.who a then
      let s := cx.s.nextOrder cx.c cx.t
      .done (if succ.getLsbD 3 then s.discardLines cx.c cx.who.part scope else s) 0
    else if 128 ≤ (cx.s.core cx.c).queued then .wait cx.s .issue
    else .done ((cx.s.nextOrder cx.c cx.t).queueAccess cx.c cx.t a) 0

/-! Hardware barriers (R232-R235). -/

/-- The level that a barrier instruction names (R232). -/
def barLevel (m : ModHint) : Nat :=
  match m.scope with
  | some .sector => 1
  | some .dev => 2
  | _ => 0

/-- The modifier fields of a barrier instruction (R217). -/
def barMods (m : ModHint) : Bool := m == { scope := m.scope } && m.scope != some .team && m.scope != some .sys

/-- The checks of R232 on a barrier at issue: its index, and that an entry of the team's own partition owns it, or of the system for a
team formed for a system item: ACTP plays no part here (R147, R361). -/
def Ctx.barBad (cx : Ctx) (target : Nat) (idx : BitVec 6) : Bool :=
  let lvl := barLevel cx.mods
  let b := cx.s.bar lvl target idx.toNat
  decide (barCount lvl ≤ idx.toNat) || !b.owned || b.part != cx.x.pool

/-- A count operand: its low 32 bits, or 1 for 0xFF (R232). -/
def Ctx.count (cx : Ctx) (x : Operand) : Nat := if x = .zero then 1 else ((cx.read x).at_ 0).toNat % 2 ^ 32

/-- A barrier made anew with an expected count (R233). -/
def Barrier.renew (b : Barrier) (exp : Nat) : Barrier := { b with exp := BitVec.ofNat 32 exp, arr := 0, gen := !b.gen }

/-- Lane after lane of `bar.init` or `bar.init.force`: the state, and p15 on each lane (R233). -/
def State.initBar (s : State) (lvl c i n : Nat) (force : Bool) : List Nat → State × SMap Bool
  | [] => (s, [])
  | l :: ls =>
    let b := s.bar lvl c i
    if s.barWaited lvl c i && !force then
      let (s, r) := s.initBar lvl c i n force ls
      (s, (l, false) :: r)
    else
      let s := (s.setBar lvl c i { b.renew n with last := b.last || force }).wakeBar lvl c i true
      let (s, r) := s.initBar lvl c i n force ls
      (s, (l, true) :: r)

/-- `bar.init` and `bar.init.force`. Of a count above 32 bits the low 32 bits count, as EXP has 32 (DESIGN CHOICE, log entry 64). -/
def Ctx.barInit (cx : Ctx) (x : Operand) (idx : BitVec 6) (force : Bool) : Did :=
  cx.blockOn [x] fun cx =>
    let n := ((cx.read x).at_ 0).toNat % 2 ^ 32
    if cx.barBad cx.c idx || n = 0 then .trap cx.s .barrier 0 none cx.act
    else
      let (s, ok) := cx.s.initBar (barLevel cx.mods) cx.c idx.toNat n force (lanesOf cx.act)
      .done (cx.writeP15 s fun l => SMap.atD ok l false) 0

/-- `bar.init` (R233). -/
def execBarInit (x : Operand) (idx : BitVec 6) : State → Host.Outcome State Fault Refusal :=
  perform { ops := [x, .lane], mods := barMods, ok := fun cx => cx.isU x, p15 := true } fun cx => cx.barInit x idx false

/-- `bar.init.force` (R233). -/
def execBarInitForce (x : Operand) (idx : BitVec 6) : State → Host.Outcome State Fault Refusal :=
  perform { ops := [x, .lane], mods := barMods, ok := fun cx => cx.isU x, p15 := true } fun cx => cx.barInit x idx true

/-- The core whose barrier `bar.arr` names (R232). -/
def Ctx.barCore (cx : Ctx) (y : Operand) : Nat := if y = .zero then cx.c else ((cx.read y).at_ 0).toNat

/-- An arrival of a lane, with the generation read at issue; the team keeps it for a barrier of its own core (R233, R234). -/
def Ctx.arriveOnce (cx : Ctx) (lvl target i n : Nat) (s : State) : State :=
  let g := (cx.s.bar lvl target i).gen
  let s := if lvl = 0 && target = cx.c then s.onTeam cx.c cx.t fun x => { x with barGen := x.barGen.put i g } else s
  s.arrive lvl target i n g

/-- `bar.arr` (R233-R235): an item operation and a release. -/
def execBarArr (x : Operand) (y : Operand) (idx : BitVec 6) : State → Host.Outcome State Fault Refusal :=
  perform
    { ops := [x, y, .lane], mods := fun m => barMods m && (y == .zero || barLevel m == 0), ok := fun cx => cx.isU x && cx.isU y } fun cx =>
    cx.behind 0 fun cx => cx.blockOn [x, y] fun cx =>
      let target := cx.barCore y
      if sectorOf target != sectorOf cx.c || cx.barBad target idx then .trap cx.s .barrier 0 none cx.act
      else if cx.unsettled then .wait cx.s .issue
      else
        .done ((lanesOf cx.act).foldl (fun s _ => cx.arriveOnce (barLevel cx.mods) target idx.toNat (cx.count x) s) cx.s) 0

/-- `bar.wait` (R234): it returns at once for a generation that has passed, else the splinter waits. -/
def execBarWait (idx : BitVec 6) : State → Host.Outcome State Fault Refusal :=
  perform { ops := [.lane], mods := barMods, p15 := true } fun cx =>
    match cx.p.st with
    | .waiting (.barDone last) => .done (cx.writeP15 cx.s fun _ => last) 0
    | _ =>
      if barLevel cx.mods != 0 || cx.barBad cx.c idx then .trap cx.s .barrier 0 none cx.act
      else
        let b := cx.s.bar 0 cx.c idx.toNat
        match cx.x.barGen.at? idx.toNat with
        | some g =>
          if g != b.gen then
            .done (cx.writeP15 (cx.s.onTeam cx.c cx.t fun x => { x with barGen := SMap.del x.barGen idx.toNat }) fun _ => b.last) 0
          else .wait cx.s (.bar idx.toNat)
        | none => .wait cx.s (.bar idx.toNat)

/-- `bar.inv` (R233). -/
def execBarInv (idx : BitVec 6) : State → Host.Outcome State Fault Refusal :=
  perform { ops := [.lane], mods := barMods } fun cx =>
    if cx.barBad cx.c idx then .trap cx.s .barrier 0 none cx.act
    else
      let lvl := barLevel cx.mods
      .done ((lanesOf cx.act).foldl (fun (s : State) _ =>
        let b := s.bar lvl cx.c idx.toNat
        (s.setBar lvl cx.c idx.toNat { b with last := true, arr := 0, gen := !b.gen }).wakeBar lvl cx.c idx.toNat true) cx.s) 0

/-- `bar.q` (R235). -/
def execBarQ (x : Operand) (idx : BitVec 6) : State → Host.Outcome State Fault Refusal :=
  perform { ops := [x, .lane], mods := barMods, ok := fun cx => cx.dstU x, p15 := true } fun cx =>
    if cx.barBad cx.c idx then .trap cx.s .barrier 0 none cx.act
    else if cx.destWaits x then .wait cx.s .issue
    else
      let b := cx.s.bar (barLevel cx.mods) cx.c idx.toNat
      .done (cx.writeP15 (cx.write cx.s x (fun _ => b.exp.setWidth 64 <<< 32 ||| b.arr.setWidth 64) noOrigin) fun _ => b.gen) 0

/-! Shared registers (R60, R62, R236). -/

/-- A register in the team's shared range. -/
def Ctx.isShared (cx : Ctx) : Operand → Bool
  | .v n => cx.vOk n.val && cx.x.entry.shared n.val
  | _ => false

/-- The number of a vector register. -/
def vNum : Operand → Nat
  | .v n => n.val
  | _ => 0

/-- The full/empty bit of a shared register, as this cycle's instructions read it (R60, R61). -/
def Ctx.full (cx : Ctx) (a : Operand) : Bool :=
  match cx.s.prior? cx.c cx.t cx.x (vNum a) with
  | some p => p.full
  | none => SMap.atD ((cx.s.core cx.c).groups.atD cx.x.entry.sg {}).full (vNum a) false

/-- The full/empty bit of a shared register written. -/
def Ctx.setFull (cx : Ctx) (s : State) (a : Operand) (b : Bool) : State :=
  s.onCore cx.c fun k =>
    let g := (k.groups.atD cx.x.entry.sg {}).keep s.clock cx.t (vNum a)
    { k with groups := k.groups.put cx.x.entry.sg { g with full := SMap.store false g.full (vNum a) b } }

/-- `sput` (R236): the data stands in D, the shared register in S1. -/
def execSput (d a : Operand) : State → Host.Outcome State Fault Refusal :=
  perform { ops := [d, a], inSys := false, ok := fun cx => cx.isVU d && cx.isShared a } fun cx =>
    if cx.symbolic d || cx.full a || cx.lostTo a then .wait cx.s .issue
    else cx.use [cx.read d] fun cx => .done (cx.setFull (cx.write cx.s a (cx.read d).at_ noOrigin) a true) 0

def sgetRules (d a : Operand) : Rules := { ops := [d, a], inSys := false, ok := fun cx => cx.dstV d && cx.isShared a }

/-- A shared register read when it is full. -/
def Ctx.sharedGet (cx : Ctx) (d a : Operand) (clear : Bool) : Did :=
  if cx.destWaits d || !cx.full a || (clear && cx.lostTo a) then .wait cx.s .issue
  else cx.use [cx.read a] fun cx =>
    let s := cx.write cx.s d (cx.read a).at_ noOrigin
    .done (if clear then cx.setFull s a false else s) 0

/-- `sget.c` (R236). -/
def execSgetC (d a : Operand) : State → Host.Outcome State Fault Refusal :=
  perform (sgetRules d a) fun cx => cx.sharedGet d a true

/-- `sget` (R236). -/
def execSget (d a : Operand) : State → Host.Outcome State Fault Refusal :=
  perform (sgetRules d a) fun cx => cx.sharedGet d a false

/-- `sq` (R236). -/
def execSq (d a : Operand) : State → Host.Outcome State Fault Refusal :=
  perform { ops := [d, a], inSys := false, ok := fun cx => dstP d && cx.isShared a } fun cx =>
    cx.compute d [] fun cx _ => if cx.full a then 1 else 0

end Sys2Proof.Machine
end

