-- ==== Sys2Proof/Machine/Dispatch.lean ====
section
/-!
DEFINITION. The dispatch of an instruction or event to its meaning: one arm per constructor of Instr.
-/

namespace Sys2Proof.Machine

def exec (i : Instr) (s : State) : Host.Outcome State Fault Refusal :=
  match i with
  | .add d a b => Sys2Proof.Machine.execAdd d a b s
  | .sub d a b => Sys2Proof.Machine.execSub d a b s
  | .addSatI d a b => Sys2Proof.Machine.execAddSatI d a b s
  | .addSatN d a b => Sys2Proof.Machine.execAddSatN d a b s
  | .mul d a b => Sys2Proof.Machine.execMul d a b s
  | .mulhiI d a b => Sys2Proof.Machine.execMulhiI d a b s
  | .mulhiN d a b => Sys2Proof.Machine.execMulhiN d a b s
  | .mad d a b => Sys2Proof.Machine.execMad d a b s
  | .divI d a b => Sys2Proof.Machine.execDivI d a b s
  | .divN d a b => Sys2Proof.Machine.execDivN d a b s
  | .remI d a b => Sys2Proof.Machine.execRemI d a b s
  | .remN d a b => Sys2Proof.Machine.execRemN d a b s
  | .andOp d a b => Sys2Proof.Machine.execAndOp d a b s
  | .orOp d a b => Sys2Proof.Machine.execOrOp d a b s
  | .xorOp d a b => Sys2Proof.Machine.execXorOp d a b s
  | .andn d a b => Sys2Proof.Machine.execAndn d a b s
  | .shl d a b => Sys2Proof.Machine.execShl d a b s
  | .shr d a b => Sys2Proof.Machine.execShr d a b s
  | .sar d a b => Sys2Proof.Machine.execSar d a b s
  | .rotl d a b => Sys2Proof.Machine.execRotl d a b s
  | .clz d a => Sys2Proof.Machine.execClz d a s
  | .popc d a => Sys2Proof.Machine.execPopc d a s
  | .brev d a => Sys2Proof.Machine.execBrev d a s
  | .ffs d a => Sys2Proof.Machine.execFfs d a s
  | .minI d a b => Sys2Proof.Machine.execMinI d a b s
  | .maxI d a b => Sys2Proof.Machine.execMaxI d a b s
  | .minN d a b => Sys2Proof.Machine.execMinN d a b s
  | .maxN d a b => Sys2Proof.Machine.execMaxN d a b s
  | .bfxI d a b => Sys2Proof.Machine.execBfxI d a b s
  | .bfxN d a b => Sys2Proof.Machine.execBfxN d a b s
  | .bfi d a b => Sys2Proof.Machine.execBfi d a b s
  | .lea d a b => Sys2Proof.Machine.execLea d a b s
  | .addi d a imm => Sys2Proof.Machine.execAddi d a imm s
  | .muli d a imm => Sys2Proof.Machine.execMuli d a imm s
  | .andi d a imm => Sys2Proof.Machine.execAndi d a imm s
  | .ori d a imm => Sys2Proof.Machine.execOri d a imm s
  | .xori d a imm => Sys2Proof.Machine.execXori d a imm s
  | .shli d a amt => Sys2Proof.Machine.execShli d a amt s
  | .shri d a amt => Sys2Proof.Machine.execShri d a amt s
  | .sari d a amt => Sys2Proof.Machine.execSari d a amt s
  | .movi d imm => Sys2Proof.Machine.execMovi d imm s
  | .movk d sel imm => Sys2Proof.Machine.execMovk d sel imm s
  | .mov d a => Sys2Proof.Machine.execMov d a s
  | .cmov d a b => Sys2Proof.Machine.execCmov d a b s
  | .p2v d a => Sys2Proof.Machine.execP2v d a s
  | .v2p d a => Sys2Proof.Machine.execV2p d a s
  | .cmpEq d a b => Sys2Proof.Machine.execCmpEq d a b s
  | .cmpNe d a b => Sys2Proof.Machine.execCmpNe d a b s
  | .cmpLtI d a b => Sys2Proof.Machine.execCmpLtI d a b s
  | .cmpLeI d a b => Sys2Proof.Machine.execCmpLeI d a b s
  | .cmpLtN d a b => Sys2Proof.Machine.execCmpLtN d a b s
  | .cmpLeN d a b => Sys2Proof.Machine.execCmpLeN d a b s
  | .tst d a b => Sys2Proof.Machine.execTst d a b s
  | .tstz d a b => Sys2Proof.Machine.execTstz d a b s
  | .pand d a b => Sys2Proof.Machine.execPand d a b s
  | .por d a b => Sys2Proof.Machine.execPor d a b s
  | .pxor d a b => Sys2Proof.Machine.execPxor d a b s
  | .pandn d a b => Sys2Proof.Machine.execPandn d a b s
  | .pset d => Sys2Proof.Machine.execPset d s
  | .pclr d => Sys2Proof.Machine.execPclr d s
  | .pfirst d a => Sys2Proof.Machine.execPfirst d a s
  | .pcnt d a => Sys2Proof.Machine.execPcnt d a s
  | .br cond off => Sys2Proof.Machine.execBr cond off s
  | .call cond off => Sys2Proof.Machine.execCall cond off s
  | .brx a => Sys2Proof.Machine.execBrx a s
  | .ret a => Sys2Proof.Machine.execRet a s
  | .callx d a => Sys2Proof.Machine.execCallx d a s
  | .joinArr cond off => Sys2Proof.Machine.execJoinArr cond off s
  | .joinSet d a => Sys2Proof.Machine.execJoinSet d a s
  | .joinAdd d a => Sys2Proof.Machine.execJoinAdd d a s
  | .joinClr d => Sys2Proof.Machine.execJoinClr d s
  | .joinRem d a => Sys2Proof.Machine.execJoinRem d a s
  | .exitLanes => Sys2Proof.Machine.execExitLanes s
  | .refill => Sys2Proof.Machine.execRefill s
  | .yield => Sys2Proof.Machine.execYield s
  | .nop => Sys2Proof.Machine.execNop s
  | .ldB d a b => Sys2Proof.Machine.execLdB d a b s
  | .ldH d a b => Sys2Proof.Machine.execLdH d a b s
  | .ldW d a b => Sys2Proof.Machine.execLdW d a b s
  | .ldD d a b => Sys2Proof.Machine.execLdD d a b s
  | .stB d a b => Sys2Proof.Machine.execStB d a b s
  | .stH d a b => Sys2Proof.Machine.execStH d a b s
  | .stW d a b => Sys2Proof.Machine.execStW d a b s
  | .stD d a b => Sys2Proof.Machine.execStD d a b s
  | .pref a b => Sys2Proof.Machine.execPref a b s
  | .zeroLine a b => Sys2Proof.Machine.execZeroLine a b s
  | .gaddr d a => Sys2Proof.Machine.execGaddr d a s
  | .space d a => Sys2Proof.Machine.execSpace d a s
  | .alloc d a b => Sys2Proof.Machine.execAlloc d a b s
  | .freeMem a => Sys2Proof.Machine.execFreeMem a s
  | .allocZ d a b => Sys2Proof.Machine.execAllocZ d a b s
  | .atomAdd d a b => Sys2Proof.Machine.execAtomAdd d a b s
  | .atomAddSatN d a b => Sys2Proof.Machine.execAtomAddSatN d a b s
  | .atomFadd d a b => Sys2Proof.Machine.execAtomFadd d a b s
  | .atomXchg d a b => Sys2Proof.Machine.execAtomXchg d a b s
  | .atomMinI d a b => Sys2Proof.Machine.execAtomMinI d a b s
  | .atomMaxI d a b => Sys2Proof.Machine.execAtomMaxI d a b s
  | .atomMinN d a b => Sys2Proof.Machine.execAtomMinN d a b s
  | .atomMaxN d a b => Sys2Proof.Machine.execAtomMaxN d a b s
  | .atomAnd d a b => Sys2Proof.Machine.execAtomAnd d a b s
  | .atomOr d a b => Sys2Proof.Machine.execAtomOr d a b s
  | .atomXor d a b => Sys2Proof.Machine.execAtomXor d a b s
  | .atomCas d a b => Sys2Proof.Machine.execAtomCas d a b s
  | .fence pred succ scope => Sys2Proof.Machine.execFence pred succ scope s
  | .barInit x idx => Sys2Proof.Machine.execBarInit x idx s
  | .barInitForce x idx => Sys2Proof.Machine.execBarInitForce x idx s
  | .barArr x y idx => Sys2Proof.Machine.execBarArr x y idx s
  | .barWait idx => Sys2Proof.Machine.execBarWait idx s
  | .barInv idx => Sys2Proof.Machine.execBarInv idx s
  | .barQ x idx => Sys2Proof.Machine.execBarQ x idx s
  | .sput d a => Sys2Proof.Machine.execSput d a s
  | .sgetC d a => Sys2Proof.Machine.execSgetC d a s
  | .sget d a => Sys2Proof.Machine.execSget d a s
  | .sq d a => Sys2Proof.Machine.execSq d a s
  | .flowRel => Sys2Proof.Machine.execFlowRel s
  | .flowSet a b => Sys2Proof.Machine.execFlowSet a b s
  | .flowQ d a => Sys2Proof.Machine.execFlowQ d a s
  | .enq x y => Sys2Proof.Machine.execEnq x y s
  | .enqW x y => Sys2Proof.Machine.execEnqW x y s
  | .cntSet x y => Sys2Proof.Machine.execCntSet x y s
  | .cntAdd x y => Sys2Proof.Machine.execCntAdd x y s
  | .cntDec x y => Sys2Proof.Machine.execCntDec x y s
  | .cntQ x y => Sys2Proof.Machine.execCntQ x y s
  | .heapIns x y => Sys2Proof.Machine.execHeapIns x y s
  | .heapRm x => Sys2Proof.Machine.execHeapRm x s
  | .admitHeap x y => Sys2Proof.Machine.execAdmitHeap x y s
  | .rld d a b => Sys2Proof.Machine.execRld d a b s
  | .rst d a b => Sys2Proof.Machine.execRst d a b s
  | .ratom d a b => Sys2Proof.Machine.execRatom d a b s
  | .mcst d a b => Sys2Proof.Machine.execMcst d a b s
  | .tclaim x y => Sys2Proof.Machine.execTclaim x y s
  | .trel x => Sys2Proof.Machine.execTrel x s
  | .tload x h => Sys2Proof.Machine.execTload x h s
  | .mma x y zc nb na acc => Sys2Proof.Machine.execMma x y zc nb na acc s
  | .mfence x => Sys2Proof.Machine.execMfence x s
  | .mwait x => Sys2Proof.Machine.execMwait x s
  | .accZero x => Sys2Proof.Machine.execAccZero x s
  | .accLd x y => Sys2Proof.Machine.execAccLd x y s
  | .accSt x y => Sys2Proof.Machine.execAccSt x y s
  | .accMv x y vi => Sys2Proof.Machine.execAccMv x y vi s
  | .tinfo x y => Sys2Proof.Machine.execTinfo x y s
  | .fadd d a b => Sys2Proof.Machine.execFadd d a b s
  | .fsub d a b => Sys2Proof.Machine.execFsub d a b s
  | .fmul d a b => Sys2Proof.Machine.execFmul d a b s
  | .ffma d a b => Sys2Proof.Machine.execFfma d a b s
  | .fmin d a b => Sys2Proof.Machine.execFmin d a b s
  | .fmax d a b => Sys2Proof.Machine.execFmax d a b s
  | .fdiv d a b => Sys2Proof.Machine.execFdiv d a b s
  | .fcpsgn d a b => Sys2Proof.Machine.execFcpsgn d a b s
  | .frcp d a => Sys2Proof.Machine.execFrcp d a s
  | .frsq d a => Sys2Proof.Machine.execFrsq d a s
  | .fsqrt d a => Sys2Proof.Machine.execFsqrt d a s
  | .fexp2 d a => Sys2Proof.Machine.execFexp2 d a s
  | .flog2 d a => Sys2Proof.Machine.execFlog2 d a s
  | .fsin d a => Sys2Proof.Machine.execFsin d a s
  | .fcos d a => Sys2Proof.Machine.execFcos d a s
  | .ftanh d a => Sys2Proof.Machine.execFtanh d a s
  | .fcmpEq d a b => Sys2Proof.Machine.execFcmpEq d a b s
  | .fcmpLt d a b => Sys2Proof.Machine.execFcmpLt d a b s
  | .fcmpLe d a b => Sys2Proof.Machine.execFcmpLe d a b s
  | .fcmpUn d a b => Sys2Proof.Machine.execFcmpUn d a b s
  | .cvtRn d a code => Sys2Proof.Machine.execCvtRn d a code s
  | .cvtRz d a code => Sys2Proof.Machine.execCvtRz d a code s
  | .cvtRd d a code => Sys2Proof.Machine.execCvtRd d a code s
  | .cvtRu d a code => Sys2Proof.Machine.execCvtRu d a code s
  | .qblk d a b => Sys2Proof.Machine.execQblk d a b s
  | .dqblk d a => Sys2Proof.Machine.execDqblk d a s
  | .qmx d a code => Sys2Proof.Machine.execQmx d a code s
  | .shfl d a b => Sys2Proof.Machine.execShfl d a b s
  | .shflX d a b => Sys2Proof.Machine.execShflX d a b s
  | .shflUp d a b => Sys2Proof.Machine.execShflUp d a b s
  | .shflDn d a b => Sys2Proof.Machine.execShflDn d a b s
  | .voteAny d a => Sys2Proof.Machine.execVoteAny d a s
  | .voteAll d a => Sys2Proof.Machine.execVoteAll d a s
  | .ballot d a => Sys2Proof.Machine.execBallot d a s
  | .voteEq d a => Sys2Proof.Machine.execVoteEq d a s
  | .redwAdd d a => Sys2Proof.Machine.execRedwAdd d a s
  | .redwFadd d a => Sys2Proof.Machine.execRedwFadd d a s
  | .redwFmax d a => Sys2Proof.Machine.execRedwFmax d a s
  | .redwFmin d a => Sys2Proof.Machine.execRedwFmin d a s
  | .topkIns d a b => Sys2Proof.Machine.execTopkIns d a b s
  | .topkClr d code => Sys2Proof.Machine.execTopkClr d code s
  | .symQ d a => Sys2Proof.Machine.execSymQ d a s
  | .symWait a => Sys2Proof.Machine.execSymWait a s
  | .symWall => Sys2Proof.Machine.execSymWall s
  | .cp x h => Sys2Proof.Machine.execCp x h s
  | .cpSg x h => Sys2Proof.Machine.execCpSg x h s
  | .cpStep x => Sys2Proof.Machine.execCpStep x s
  | .hWait h => Sys2Proof.Machine.execHWait h s
  | .hSet x y h => Sys2Proof.Machine.execHSet x y h s
  | .hSetFree h => Sys2Proof.Machine.execHSetFree h s
  | .hQ x h => Sys2Proof.Machine.execHQ x h s
  | .pullReq x h => Sys2Proof.Machine.execPullReq x h s
  | .grantCfg x y h => Sys2Proof.Machine.execGrantCfg x y h s
  | .xferQ x h => Sys2Proof.Machine.execXferQ x h s
  | .smp x y h => Sys2Proof.Machine.execSmp x y h s
  | .smpQ x h => Sys2Proof.Machine.execSmpQ x h s
  | .trapInstr n => Sys2Proof.Machine.execTrapInstr n s
  | .sret => Sys2Proof.Machine.execSret s
  | .ctlR d n => Sys2Proof.Machine.execCtlR d n s
  | .ctlW d n => Sys2Proof.Machine.execCtlW d n s
  | .devid d => Sys2Proof.Machine.execDevid d s
  | .fqhead d p => Sys2Proof.Machine.execFqhead d p s
  | .fqbase d p => Sys2Proof.Machine.execFqbase d p s
  | .tlbInv d k p => Sys2Proof.Machine.execTlbInv d k p s
  | .faultPop d p => Sys2Proof.Machine.execFaultPop d p s
  | .faultPopW d p => Sys2Proof.Machine.execFaultPopW d p s
  | .faultDone d ans => Sys2Proof.Machine.execFaultDone d ans s
  | .teamPark d => Sys2Proof.Machine.execTeamPark d s
  | .teamWake d => Sys2Proof.Machine.execTeamWake d s
  | .ctxSave d k => Sys2Proof.Machine.execCtxSave d k s
  | .ctxLoad d k => Sys2Proof.Machine.execCtxLoad d k s
  | .halt => Sys2Proof.Machine.execHalt s
  | .dictionaryWord hi lo => Sys2Proof.Machine.execDictionaryWord hi lo s
  | .powerOn => Sys2Proof.Machine.execPowerOn s
  | .romVerify => Sys2Proof.Machine.execRomVerify s
  | .firmwareDownload image => Sys2Proof.Machine.execFirmwareDownload image s
  | .downloadRetry => Sys2Proof.Machine.execDownloadRetry s
  | .resetPin => Sys2Proof.Machine.execResetPin s
  | .powerRemoved => Sys2Proof.Machine.execPowerRemoved s
  | .thermalWarning sector => Sys2Proof.Machine.execThermalWarning sector s
  | .thermalTrip sector => Sys2Proof.Machine.execThermalTrip sector s
  | .attestationQuote nonce => Sys2Proof.Machine.execAttestationQuote nonce s
  | .managementRead what => Sys2Proof.Machine.execManagementRead what s
  | .energyWindow measured => Sys2Proof.Machine.execEnergyWindow measured s
  | .teamFormation core => Sys2Proof.Machine.execTeamFormation core s
  | .orderedRelease part label => Sys2Proof.Machine.execOrderedRelease part label s
  | .cutIn core => Sys2Proof.Machine.execCutIn core s
  | .cutInAnswer core => Sys2Proof.Machine.execCutInAnswer core s
  | .teamStarvation core quarter => Sys2Proof.Machine.execTeamStarvation core quarter s
  | .splinterStarvation core slot => Sys2Proof.Machine.execSplinterStarvation core slot s
  | .heldLanesRetry core slot => Sys2Proof.Machine.execHeldLanesRetry core slot s
  | .joinFallback core slot => Sys2Proof.Machine.execJoinFallback core slot s
  | .symbolResolution core sym => Sys2Proof.Machine.execSymbolResolution core sym s
  | .faultRecordRetry core => Sys2Proof.Machine.execFaultRecordRetry core s
  | .trapEntry core slot => Sys2Proof.Machine.execTrapEntry core slot s
  | .uncorrectableError site => Sys2Proof.Machine.execUncorrectableError site s
  | .softError core unit => Sys2Proof.Machine.execSoftError core unit s
  | .copyCompletion sector index => Sys2Proof.Machine.execCopyCompletion sector index s
  | .tensorOperationCompletion core index => Sys2Proof.Machine.execTensorOperationCompletion core index s
  | .pullAnnouncement ann => Sys2Proof.Machine.execPullAnnouncement ann s
  | .callerGrant part => Sys2Proof.Machine.execCallerGrant part s
  | .pullToken tok => Sys2Proof.Machine.execPullToken tok s
  | .pullBeat beat => Sys2Proof.Machine.execPullBeat beat s
  | .pullNotice core handle note => Sys2Proof.Machine.execPullNotice core handle note s
  | .tokenExpiry part req slot => Sys2Proof.Machine.execTokenExpiry part req slot s
  | .orphan part req => Sys2Proof.Machine.execOrphan part req s
  | .abandon core handle => Sys2Proof.Machine.execAbandon core handle s
  | .callerSave part => Sys2Proof.Machine.execCallerSave part s
  | .samplerJobStart sector => Sys2Proof.Machine.execSamplerJobStart sector s
  | .samplerJobCompletion sector => Sys2Proof.Machine.execSamplerJobCompletion sector s
  | .peerRequest req => Sys2Proof.Machine.execPeerRequest req s
  | .readResponse tag vals => Sys2Proof.Machine.execReadResponse tag vals s
  | .ack tag olds => Sys2Proof.Machine.execAck tag olds s
  | .nack msg => Sys2Proof.Machine.execNack msg s
  | .peerTimeout tag => Sys2Proof.Machine.execPeerTimeout tag s
  | .multicastWrite msg => Sys2Proof.Machine.execMulticastWrite msg s
  | .multicastAck tag column bits => Sys2Proof.Machine.execMulticastAck tag column bits s
  | .multicastTimeout tag => Sys2Proof.Machine.execMulticastTimeout tag s
  | .linkControl link note => Sys2Proof.Machine.execLinkControl link note s
  | .linkDown link => Sys2Proof.Machine.execLinkDown link s
  | .linkTraining train => Sys2Proof.Machine.execLinkTraining train s
  | .transitFlit link flit => Sys2Proof.Machine.execTransitFlit link flit s

end Sys2Proof.Machine
end

