-- ==== Sys2Proof/Machine/Turn.lean ====
section
/-!
DEFINITION. The turn of a step (log entry 1): that at the head of the agenda; where the agenda names none, an event of the device itself
that can happen, else one cycle, in which every quarter that has a candidate takes its turn.
-/

namespace Sys2Proof.Machine

/-- An event as what it does. -/
abbrev Event := State → Host.Outcome State Fault Refusal

/-! Which teams can issue. -/

/-- Whether a candidate tried does more than wait. -/
def State.moves (s : State) (c q : Nat) : Candidate → Bool
  | .condition _ => true
  | .splinter t n => match s.try_ c q t n with
    | .stop _ => true
    | .run i s' => match exec i s' with
      | .next s'' => !s.onlyWaited s'' c t n
      | _ => true

/-- Whether a team can issue (R140, R375). -/
def State.canIssue (s : State) (c t : Nat) (x : Team) : Bool :=
  s.issues c && x.open_ && (x.candidates t (s.firstPending c t x).isSome).any (s.moves c x.quarter)

/-- Since when each team has been able to issue, as a cycle finds it; one that is not is not to be taken first any more (R140). -/
def State.noteAble (s : State) : State :=
  { s with cores := s.cores.map fun e => (e.1, { e.2 with teams := e.2.teams.map fun t =>
      let can := s.canIssue e.1 t.1 t.2
      (t.1, { t.2 with able := if can then t.2.able.or (some s.clock) else none, due := t.2.due && can }) }) }

/-- Whether an event can be one of this device's: its numbers are in range, and a Cut-in comes from a core that holds no team which can
issue (R13, R145). -/
def State.mayHappen (s : State) (i : Instr) : Bool :=
  (encode i).isNone && i.wf && (match i with
    | .cutIn c => !((s.core c).resident.any fun e => s.canIssue c e.1 e.2)
    | _ => true)

/-- A core's own Cut-in (R145). -/
def ownCutIn (c : Nat) : Event := fun s => if s.mayHappen (.cutIn c) then exec (.cutIn c) s else .next s

/-- Events of a core: its trap entries, symbols, tensor operations, held lanes, joins, Cut-in, records, senders and formation. -/
def Core.events (k : Core) (c : Nat) : List Event :=
  (k.teams.map fun e => execTrapEntry c e.1) ++ (k.syms.map fun e => execSymbolResolution c e.1) ++
    ((List.range k.tq.length).map fun i => execTensorOperationCompletion c i) ++
    (k.teams.map fun e => execHeldLanesRetry c e.1) ++ (k.teams.map fun e => execJoinFallback c e.1) ++
    (if k.cutIn.isSome then [execCutInAnswer c] else []) ++ (if k.heldRecs.isEmpty then [] else [execFaultRecordRetry c]) ++
    (k.handles.map fun e => execAbandon c e.1) ++ (if k.items.isEmpty then [] else [execTeamFormation c])

/-- Events of a sector's engines. -/
def Sector.events (q : Sector) (n : Nat) : List Event :=
  ((List.range q.copies.length).map fun i => execCopyCompletion n i) ++
    (if q.jobs.isEmpty then [] else [execSamplerJobStart n, execSamplerJobCompletion n])

/-- Events of a partition's Caller. -/
def Partition.events (q : Partition) (p : Nat) : List Event :=
  (q.requests ++ q.savedRequests).flatMap (fun r =>
    ((List.range 4).map fun i => execTokenExpiry p r.id i) ++ [execOrphan p r.id]) ++ execCallerSave p :: (if q.canGrant then [execCallerGrant p] else [])

/-- Events of the device itself that may be able to happen; what comes from outside the device comes by the agenda alone (log
entry 1). -/
def State.ownEvents (s : State) : List Event :=
  (if s.toSelf.isEmpty then [] else [State.arriveSelf]) ++ (if s.power == .rom then [execRomVerify] else []) ++ (if s.retryAt.isSome then [execDownloadRetry] else []) ++
    (s.cores.flatMap fun e => e.2.events e.1) ++ (s.flows.map fun f => execOrderedRelease f.part f.label) ++
    (s.sectors.flatMap fun e => e.2.events e.1) ++ (s.parts.flatMap fun e => e.2.events e.1) ++
    (s.txs.map fun x => if x.ofLanes then execPeerTimeout x.tag else execMulticastTimeout x.tag) ++
    (List.range 256).map ownCutIn

/-- The state after an event, where it changes anything. -/
def State.changedBy (s : State) (f : Event) : Option State :=
  match f s with
  | .next t => if t = s then none else some t
  | _ => none

/-- The slot of a candidate. -/
def Candidate.slot : Candidate → Nat
  | .condition t | .splinter t _ => t

/-- The candidate that a quarter's turn comes to: the first that does more than wait, else the first. -/
def State.chosen (s : State) (c q : Nat) : Option Candidate :=
  let cs := s.candidates c q
  (cs.find? (s.moves c q)).or cs.head?

/-- The quarters of a core that have a candidate, those of lower slots first: of two write-backs to one shared register in a cycle, that
of the lower slot wins (R61). -/
def State.quarters (s : State) (c : Nat) : List Nat :=
  let cs := (List.range 4).filterMap fun q => (s.chosen c q).map fun x => (x.slot, q)
  (sortBy (fun (a b : Nat × Nat) => a.1 < b.1) cs).map fun e => e.2

/-- Whether a team in a higher slot has written a register of a team's share group in this cycle. -/
def State.outrun (s : State) (c t : Nat) : Bool :=
  match s.team? c t with
  | none => false
  | some x => x.entry.sv &&
    ((s.core c).groups.atD x.entry.sg {}).prior.any fun e => e.2.clock == s.clock && decide (t < e.2.slot)

/-- The state in which a quarter takes its turn: where one of its candidates has been outrun, its cycle is a later one, since of two write-backs
in one cycle that of the lower slot wins (R61, log entry 1). -/
def State.inCycle (s : State) (c q : Nat) : State :=
  if (s.candidates c q).any fun x => s.outrun c x.slot then s.noteAble.pass 1 else s

/-- The turns of one cycle: one for each quarter that has a candidate (R16, R140). -/
def State.round (s : State) : List Turn :=
  (s.cores.filter fun e => s.issues e.1).flatMap fun e => (s.quarters e.1).map fun q => .issue e.1 q

/-! Turns taken. -/

/-- Whether a splinter's team is stalled by another splinter of it (R35, R41, R42). -/
def State.stalledBy (s : State) (c t n : Nat) : Bool :=
  (s.team? c t).any fun x => x.saver.isNone && !x.inSys && x.numbered.any fun e => e.1 != n && e.2.stalls

/-- The candidates of a quarter tried in their order: the first that does not merely wait is the turn's (R47, R140); `waited` names the team
whose splinter has merely waited, and has perhaps stalled it. -/
def tryCandidates (s : State) (c q : Nat) (waited : Option Nat) : List Candidate → Host.Outcome State Fault Refusal
  | [] => .next s
  | .condition t :: _ => .next (s.takePending c t)
  | .splinter t n :: rest =>
    if waited == some t && s.stalledBy c t n then tryCandidates s c q waited rest
    else match s.try_ c q t n with
      | .stop s' => .next s'.finish
      | .run i s' => match exec i s' with
        | .next s'' => if s.onlyWaited s'' c t n then tryCandidates (s.allWait s'' c t).finish c q (some t) rest else .next s''.finish
        | o => o

/-- A turn taken. What cannot be an event of this device, as an instruction, does nothing (log entry 11). -/
def turn (s : State) : Turn → Host.Outcome State Fault Refusal
  | .issue c q =>
    if s.issues c then
      let z := s.inCycle c q
      tryCandidates z c q none (z.candidates c q)
    else .next s
  | .event i => if s.mayHappen i then exec i s else .next s
  | .arrive => s.arriveSelf
  | .tick n => .next (s.noteAble.pass n)

/-- The turn that a step takes: that at the head of the agenda, else one of the model's own (log entry 1). -/
def State.nextTurn (s : State) : Host.Outcome State Fault Refusal :=
  match s.agenda with
  | [] => match s.ownEvents.findSome? s.changedBy with
    | some t => .next t
    | none => match s.round with
      | [] => .next (s.noteAble.pass 1)
      | t :: rest => turn { s with agenda := rest ++ [.tick 1] } t
  | t :: rest => turn { s with agenda := rest } t

/-- The poison that walks met in a turn is consumed at its end (R410). -/
def repaid : Host.Outcome State Fault Refusal → Host.Outcome State Fault Refusal
  | .next s => .next s.repay
  | o => o

end Sys2Proof.Machine
end

