-- ==== Sys2Proof/Machine/Step.lean ====
section
/-!
DEFINITION. One step of the machine: its next turn, and what it comes to.
-/

namespace Sys2Proof.Machine

/-- One step (log entry 1). -/
def step (s : State) : Host.Outcome State Fault Refusal := repaid s.nextTurn

/-- A word placed where step fetches its next instruction (log entry 10). -/
def State.withFetchWord (s : State) (nbits w : Nat) : State := if nbits = 32 then s.placeWord w else s

end Sys2Proof.Machine
end

