-- ==== Sys2Proof/Machine/Rulebook.lean ====
section
/-!
DEFINITION. What each instruction admits, in one table: its operands and their classes, its extensions and modifier fields, its mode
(R172-R187, R217, R232, R240, R244, R262-R264, R271, R325, R357, R363); when an instruction is ready to have its effect; and the state
after it has had it. Events have no rules.
-/

namespace Sys2Proof.Machine

/-- The rules of a write of a control register (R371). -/
def ctlRules (d : Operand) (r : Option Ctl) : Rules := { ops := [d], priv := true, wf := r.isSome, ok := fun cx => cx.isU d }

/-- The rules of an instruction. -/
def rulesOf : Instr → Option Rules
  | .add d a b => some (rules3 d a b)
  | .sub d a b => some (rules3 d a b)
  | .addSatI d a b => some (rules3 d a b)
  | .addSatN d a b => some (rules3 d a b)
  | .mul d a b => some (rules3 d a b)
  | .mulhiI d a b => some (rules3 d a b)
  | .mulhiN d a b => some (rules3 d a b)
  | .mad d a b => some (rules4 d a b fun m => m == { s3 := m.s3 })
  | .divI d a b => some (rules3 d a b)
  | .divN d a b => some (rules3 d a b)
  | .remI d a b => some (rules3 d a b)
  | .remN d a b => some (rules3 d a b)
  | .andOp d a b => some (rules3 d a b)
  | .orOp d a b => some (rules3 d a b)
  | .xorOp d a b => some (rules3 d a b)
  | .andn d a b => some (rules3 d a b)
  | .shl d a b => some (rules3 d a b)
  | .shr d a b => some (rules3 d a b)
  | .sar d a b => some (rules3 d a b)
  | .rotl d a b => some (rules3 d a b)
  | .clz d a => some (rules2 d a)
  | .popc d a => some (rules2 d a)
  | .brev d a => some (rules2 d a)
  | .ffs d a => some (rules2 d a)
  | .minI d a b => some (rules3 d a b)
  | .maxI d a b => some (rules3 d a b)
  | .minN d a b => some (rules3 d a b)
  | .maxN d a b => some (rules3 d a b)
  | .bfxI d a b => some (fieldRules d a b)
  | .bfxN d a b => some (fieldRules d a b)
  | .bfi d a b => some (fieldRules d a b)
  | .lea d a b => some (leaRules d a b)
  | .addi d a _ => some (rulesImm d a 2)
  | .muli d a _ => some (rulesImm d a 2)
  | .andi d a _ => some (rulesImm d a 2)
  | .ori d a _ => some (rulesImm d a 2)
  | .xori d a _ => some (rulesImm d a 2)
  | .shli d a _ => some (rulesImm d a 0)
  | .shri d a _ => some (rulesImm d a 0)
  | .sari d a _ => some (rulesImm d a 0)
  | .movi d _ => some (moviRules d)
  | .movk d sel _ => some (movkRules d sel)
  | .mov d a => some (rules2 d a)
  | .cmov d a b => some (rules3 d a b)
  | .p2v d a => some { ops := [d, a], ok := fun cx => cx.dstV d && isP a }
  | .v2p d a => some { ops := [d, a], ok := fun cx => dstP d && cx.isVU a }
  | .cmpEq d a b => some (cmpRules d a b)
  | .cmpNe d a b => some (cmpRules d a b)
  | .cmpLtI d a b => some (cmpRules d a b)
  | .cmpLeI d a b => some (cmpRules d a b)
  | .cmpLtN d a b => some (cmpRules d a b)
  | .cmpLeN d a b => some (cmpRules d a b)
  | .tst d a b => some (cmpRules d a b)
  | .tstz d a b => some (cmpRules d a b)
  | .pand d a b => some (predRules d a b)
  | .por d a b => some (predRules d a b)
  | .pxor d a b => some (predRules d a b)
  | .pandn d a b => some (predRules d a b)
  | .pset d => some { ops := [d], ok := fun _ => dstP d }
  | .pclr d => some { ops := [d], ok := fun _ => dstP d }
  | .pfirst d a => some { ops := [d, a], ok := fun _ => dstP d && isP a }
  | .pcnt d a => some { ops := [d, a], ok := fun cx => cx.dstVU d && isP a }
  | .br cond _ => some { ops := [cond], ok := fun _ => isPz cond }
  | .call cond _ => some { ops := [cond], ok := fun cx => isPz cond && cx.uOk 62 }
  | .brx a => some { ops := [a], ok := fun cx => cx.isEvenU a }
  | .ret a => some { ops := [a], ok := fun cx => cx.isEvenU a }
  | .callx d a => some (callxRules d a)
  | .joinArr cond _ => some (joinRules cond [])
  | .joinSet d a => some (joinRules d [a])
  | .joinAdd d a => some (joinRules d [a])
  | .joinClr d => some (joinRules d [])
  | .joinRem d a => some (joinRules d [a])
  | .exitLanes => some { ops := [.lane], trapped := false }
  | .refill => some { inSys := false }
  | .yield => some {}
  | .nop => some {}
  | .ldB d a b => some (loadRules d a b false)
  | .ldH d a b => some (loadRules d a b false)
  | .ldW d a b => some (loadRules d a b false)
  | .ldD d a b => some (loadRules d a b true)
  | .stB d a b => some (storeRules d a b false)
  | .stH d a b => some (storeRules d a b false)
  | .stW d a b => some (storeRules d a b false)
  | .stD d a b => some (storeRules d a b true)
  | .pref a b => some (lineRules a b)
  | .zeroLine a b => some (lineRules a b)
  | .gaddr d a => some { ops := [d, a], ok := fun cx => (cx.dstEvenU d || d == .zero) && cx.isEvenU a && noMix d [a] }
  | .space d a => some { ops := [d, a], ok := fun cx => cx.dstVU d && cx.isEvenU a && noMix d [a] }
  | .alloc d a b => some (allocRules d a b)
  | .freeMem a => some { ops := [a], ok := fun cx => cx.isEvenU a }
  | .allocZ d a b => some (allocRules d a b)
  | .atomAdd d a b => some (atomRules .add d a b)
  | .atomAddSatN d a b => some (atomRules .addSatN d a b)
  | .atomFadd d a b => some (atomRules .fadd d a b)
  | .atomXchg d a b => some (atomRules .xchg d a b)
  | .atomMinI d a b => some (atomRules .minI d a b)
  | .atomMaxI d a b => some (atomRules .maxI d a b)
  | .atomMinN d a b => some (atomRules .minN d a b)
  | .atomMaxN d a b => some (atomRules .maxN d a b)
  | .atomAnd d a b => some (atomRules .andB d a b)
  | .atomOr d a b => some (atomRules .orB d a b)
  | .atomXor d a b => some (atomRules .xorB d a b)
  | .atomCas d a b => some (atomRules .cas d a b)
  | .fence _ _ _ => some { ops := [.lane] }
  | .barInit x _ => some { ops := [x, .lane], mods := barMods, ok := fun cx => cx.isU x, p15 := true }
  | .barInitForce x _ => some { ops := [x, .lane], mods := barMods, ok := fun cx => cx.isU x, p15 := true }
  | .barArr x y _ => some
      { ops := [x, y, .lane]
        mods := fun m => barMods m && (y == .zero || barLevel m == 0)
        ok := fun cx => cx.isU x && cx.isU y }
  | .barWait _ => some { ops := [.lane], mods := barMods, p15 := true }
  | .barInv _ => some { ops := [.lane], mods := barMods }
  | .barQ x _ => some { ops := [x, .lane], mods := barMods, ok := fun cx => cx.dstU x, p15 := true }
  | .sput d a => some { ops := [d, a], inSys := false, ok := fun cx => cx.isVU d && cx.isShared a }
  | .sgetC d a => some (sgetRules d a)
  | .sget d a => some (sgetRules d a)
  | .sq d a => some { ops := [d, a], inSys := false, ok := fun cx => dstP d && cx.isShared a }
  | .flowRel => some { ops := [.lane], inSys := false, mods := fun m => m == {} || m == { scope := some .sys } }
  | .flowSet a b => some { ops := [a, b, .lane], ok := fun cx => cx.isVU a && cx.isU b }
  | .flowQ d a => some { ops := [d, a], ok := fun cx => cx.dstU d && cx.isU a, p15 := true }
  | .enq x y => some (enqRules x y)
  | .enqW x y => some (enqRules x y)
  | .cntSet x y => some (cntRules x y)
  | .cntAdd x y => some (cntRules x y)
  | .cntDec x y => some (cntRules x y)
  | .cntQ x y => some { ops := [x, y], ok := fun cx => cx.isU x && cx.dstU y }
  | .heapIns x y => some { ops := [x, y, .lane], ok := fun cx => cx.isVU x && cx.isU y, p15 := true }
  | .heapRm x => some { ops := [x, .lane], ok := fun cx => cx.isVU x, p15 := true }
  | .admitHeap x y => some { ops := [x, y, .lane], ok := fun cx => cx.isU x && cx.isU y }
  | .rld d a b => some (rldRules d a b)
  | .rst d a b => some (rstRules d a b)
  | .ratom d a b => some (ratomRules d a b)
  | .mcst d a b => some
      { ops := [d, a, b]
        exts := 1
        p15 := true
        mods := ({ rel := true } : MemMods).ok
        ok := fun cx => cx.dstVU d && cx.isU a && cx.isVU b && noMix d [b] }
  | .tclaim x y => some (tensorRules [x, y] fun cx => isTile x && cx.isU y)
  | .trel x => some (tensorRules [x] fun _ => isTile x || isAcc x)
  | .tload x _ => some (tensorRules [x] fun _ => isTile x)
  | .mma x y _ _ _ _ => some (tensorRules [x, y] fun _ => isTile x && isTile y)
  | .mfence x => some (tensorRules [x] fun cx => cx.dstU x)
  | .mwait x => some (tensorRules [x] fun cx => cx.isU x)
  | .accZero x => some (tensorRules [x] fun _ => isAcc x)
  | .accLd x y => some (tensorRules [x, y] fun cx => isAcc x && cx.isU y)
  | .accSt x y => some (tensorRules [x, y] fun cx => isAcc x && cx.isU y)
  | .accMv x y vi => some (tensorRules [x, y, indexReg vi] fun cx => cx.isV (indexReg vi) && (if isAcc x then cx.isV y else cx.dstV x && isAcc y))
  | .tinfo x y => some (tensorRules [x, y] fun cx => cx.dstU x && (isTile y || isAcc y || y == .zero))
  | .fadd d a b => some (foldRules d a b)
  | .fsub d a b => some (foldRules d a b)
  | .fmul d a b => some (foldRules d a b)
  | .ffma d a b => some (rules4 d a b fun m => m == { rm := m.rm, s3 := m.s3 })
  | .fmin d a b => some (plainRules d a b)
  | .fmax d a b => some (plainRules d a b)
  | .fdiv d a b => some (fpRules d a b fun m => m == { rm := m.rm })
  | .fcpsgn d a b => some (plainRules d a b)
  | .frcp d a => some (fnRules d a)
  | .frsq d a => some (fnRules d a)
  | .fsqrt d a => some (fnRules d a)
  | .fexp2 d a => some (fnRules d a)
  | .flog2 d a => some (fnRules d a)
  | .fsin d a => some (fnRules d a)
  | .fcos d a => some (fnRules d a)
  | .ftanh d a => some (fnRules d a)
  | .fcmpEq d a b => some (fcmpRules d a b)
  | .fcmpLt d a b => some (fcmpRules d a b)
  | .fcmpLe d a b => some (fcmpRules d a b)
  | .fcmpUn d a b => some (fcmpRules d a b)
  | .cvtRn d a code => some (cvtRules d a code)
  | .cvtRz d a code => some (cvtRules d a code)
  | .cvtRd d a code => some (cvtRules d a code)
  | .cvtRu d a code => some (cvtRules d a code)
  | .qblk d a b => some
      { ops := [d, a, b]
        mods := fun m => m == { rm := m.rm, nsat := m.nsat }
        ok := fun cx => cx.dstPair d && cx.isV a && cx.isU b }
  | .dqblk d a => some
      { ops := [d, a]
        ok := fun cx => cx.dstV d && (match a with | .v n => cx.vOk n.val && n.val % 2 == 0 | _ => false) }
  | .qmx d a code => some
      { ops := [d, a]
        wf := (Instr.qmx d a code).wf
        mods := fun m => m == { rm := m.rm, nsat := m.nsat }
        ok := fun cx => cx.dstPair d && cx.isV a }
  | .shfl d a b => some (shflRules d a b)
  | .shflX d a b => some (shflRules d a b)
  | .shflUp d a b => some (shflRules d a b)
  | .shflDn d a b => some (shflRules d a b)
  | .voteAny d a => some (voteRules d a)
  | .voteAll d a => some (voteRules d a)
  | .ballot d a => some { ops := [d, a], inSys := false, ok := fun cx => cx.dstV d && isP a }
  | .voteEq d a => some { ops := [d, a], inSys := false, ok := fun cx => dstP d && cx.isV a }
  | .redwAdd d a => some (redwRules d a)
  | .redwFadd d a => some (redwRules d a)
  | .redwFmax d a => some (redwRules d a)
  | .redwFmin d a => some (redwRules d a)
  | .topkIns d a b => some
      { ops := [d, a, b]
        exts := 1
        extOk := fun e => decide (1 ≤ e.toNat) && decide (e.toNat ≤ 8)
        inSys := false
        ok := fun cx => cx.listOk d (listLen cx.h) && cx.isV a && cx.isVU b }
  | .topkClr d code => some
      { ops := [d, .lane]
        wf := (Instr.topkClr d code).wf
        inSys := false
        ok := fun cx => cx.listOk d code.toNat }
  | .symQ d a => some (symQRules d a)
  | .symWait a => some { ops := [a], ok := fun cx => cx.isReg a }
  | .symWall => some {}
  | .cp x _ => some (copyRules x)
  | .cpSg x _ => some (copyRules x)
  | .cpStep x => some { ops := [x], ok := fun cx => cx.dstU x }
  | .hWait _ => some { ops := [.lane], p15 := true }
  | .hSet x y _ => some { ops := [x, y], ok := fun cx => cx.isU x && cx.isU y && x != .zero && y != .zero }
  | .hSetFree _ => some {}
  | .hQ x _ => some { ops := [x], ok := fun cx => cx.dstU x }
  | .pullReq x _ => some { ops := [x], ok := fun cx => cx.isU x }
  | .grantCfg x y _ => some { ops := [x, y], ok := fun cx => cx.isU x && cx.isU y }
  | .xferQ x _ => some { ops := [x], ok := fun cx => cx.dstU x }
  | .smp x y _ => some { ops := [x, y], ok := fun cx => cx.dstU x && cx.isU y }
  | .smpQ x _ => some { ops := [x], ok := fun cx => cx.dstU x }
  | .trapInstr _ => some { ops := [.lane] }
  | .sret => some { priv := true }
  | .ctlR d n => some { ops := [d], priv := true, wf := (ctlOf n.toNat).isSome, ok := fun cx => cx.dstU d }
  | .ctlW d n => some (ctlRules d (ctlOf n.toNat))
  | .devid d => some (ctlRules d (some .devid))
  | .fqhead d p => some (ctlRules d (some (.fqhead p.toNat)))
  | .fqbase d p => some (ctlRules d (some (.fqbase p.toNat)))
  | .tlbInv d _ _ => some { ops := [d], priv := true, ok := fun cx => cx.isU d }
  | .faultPop d _ => some (popRules d)
  | .faultPopW d _ => some (popRules d)
  | .faultDone d _ => some { ops := [d], priv := true, p15 := true, ok := fun _ => isRecordWord d }
  | .teamPark d => some (parkRules d)
  | .teamWake d => some (parkRules d)
  | .ctxSave d _ => some { ops := [d], priv := true, p15 := true, ok := fun cx => cx.isU d }
  | .ctxLoad d _ => some { ops := [d], priv := true, p15 := true, ok := fun cx => cx.isU d }
  | .halt => some { priv := true }
  | .dictionaryWord hi _ => some { wf := hi != 1023 }
  | .powerOn => none
  | .romVerify => none
  | .firmwareDownload _ => none
  | .downloadRetry => none
  | .resetPin => none
  | .powerRemoved => none
  | .thermalWarning _ => none
  | .thermalTrip _ => none
  | .attestationQuote _ => none
  | .managementRead _ => none
  | .energyWindow _ => none
  | .teamFormation _ => none
  | .orderedRelease _ _ => none
  | .cutIn _ => none
  | .cutInAnswer _ => none
  | .teamStarvation _ _ => none
  | .splinterStarvation _ _ => none
  | .heldLanesRetry _ _ => none
  | .joinFallback _ _ => none
  | .symbolResolution _ _ => none
  | .faultRecordRetry _ => none
  | .trapEntry _ _ => none
  | .uncorrectableError _ => none
  | .softError _ _ => none
  | .copyCompletion _ _ => none
  | .tensorOperationCompletion _ _ => none
  | .pullAnnouncement _ => none
  | .callerGrant _ => none
  | .pullToken _ => none
  | .pullBeat _ => none
  | .pullNotice _ _ _ => none
  | .tokenExpiry _ _ _ => none
  | .orphan _ _ => none
  | .abandon _ _ => none
  | .callerSave _ => none
  | .samplerJobStart _ => none
  | .samplerJobCompletion _ => none
  | .peerRequest _ => none
  | .readResponse _ _ => none
  | .ack _ _ => none
  | .nack _ => none
  | .peerTimeout _ => none
  | .multicastWrite _ => none
  | .multicastAck _ _ _ => none
  | .multicastTimeout _ => none
  | .linkControl _ _ => none
  | .linkDown _ => none
  | .linkTraining _ => none
  | .transitFlit _ _ => none

/-- Whether an instruction waits for a write of p15 (R218). -/
def Ctx.awaitsP15 (cx : Ctx) (r : Rules) : Bool :=
  cx.p15Pending && (r.p15 || r.ops.contains (.p 15) || (match cx.h.guard with
    | some (_, p) => p.val == 15
    | none => false))

/-- Whether the checks of R186 pass, a lane passes the guard (R180), and p15 is not awaited (R218). -/
def Ctx.passes (cx : Ctx) (r : Rules) : Bool :=
  !cx.illegal r && (!r.priv || cx.sys) && r.ok cx && !cx.awaitsP15 r && cx.guarded != 0

/-- The context in which an instruction at issue has its effect; none while its checks do not pass. -/
def State.ready? (s : State) (i : Instr) : Option Ctx :=
  match s.ctx?, rulesOf i with
  | some cx, some r => if cx.passes r then some cx.live else none
  | _, _ => none

/-- The passes that an instruction takes, besides those of expansions (R44, R58, R189). -/
def Ctx.passesOf (cx : Ctx) (i : Instr) : Nat := match rulesOf i with
  | some r => r.passes cx
  | none => 1

/-- The state after an instruction that is done, with the flags that its lanes set (R120, R367). -/
def Ctx.finish (cx : Ctx) (i : Instr) (s : State) (f : Nat → FlagSet) : State := cx.settle (cx.passesOf i) (.done s f)

/-- The state after an instruction that waits at issue. -/
def Ctx.stay (cx : Ctx) (r : Wait) : State := cx.hold cx.s r

/-- The state after an instruction that traps (R355, R359). -/
def Ctx.trapped (cx : Ctx) (i : Instr) (cause : Cause) (code : Nat) (eaddr : Option W64) (lanes : Mask) : State :=
  cx.settle (cx.passesOf i) (.trap cx.s cause code eaddr lanes)

end Sys2Proof.Machine
end

