-- ==== Sys2Proof/Machine/Results.lean ====
section
/-!
DEFINITION. What the computing instructions write: one table for each family, in the words of the spec, for operands that are known and
free of poison (R188-R204, R225, R236, R248-R264).
-/

namespace Sys2Proof.Machine

/-! Operands. -/

/-- The value of an operand on a lane. -/
def Ctx.val (cx : Ctx) (o : Operand) (l : Nat) : W64 := (cx.read o).at_ l

/-- The 32 low bits of an operand on a lane. -/
def Ctx.low (cx : Ctx) (o : Operand) (l : Nat) : W32 := ((cx.read o).at_ l).setWidth 32

/-- Operands whose values are known and free of poison on the active lanes. -/
def Ctx.plain (cx : Ctx) (os : List Operand) : Bool := !os.any cx.symbolic && (cx.origins (os.map cx.read)).isEmpty

/-- The same for operands of 64 bits. -/
def Ctx.plain64 (cx : Ctx) (os : List Operand) : Bool := cx.plain (os.flatMap halvesOf)

/-! Results. -/

/-- What a computing instruction writes: its destination, the operands that it uses in a blocking way, those through which poison
passes, whether the operands and the destination are pairs, the value and the poison of each lane, and the flags that it sets. -/
structure Result where
  d : Operand
  srcs : List Operand := []
  known : List Operand := []
  wideSrc : Bool := false
  wide : Bool := false
  val : Nat → W64
  pois : Nat → Option Origin := noOrigin
  flags : Nat → FlagSet := 0

/-- The destination can be written; the operands are known, and those that are used in a blocking way free of poison. -/
def Result.clear (r : Result) (cx : Ctx) : Bool :=
  !(if r.wide then cx.destWaits64 r.d else cx.destWaits r.d) && (if r.wideSrc then cx.plain64 r.srcs else cx.plain r.srcs) &&
    r.known.all fun o => !cx.symbolic o

/-- The state with a result written (R52, R53, R57, R188). -/
def Result.put (r : Result) (cx : Ctx) : State :=
  if r.wide then cx.write64 cx.s r.d r.val r.pois else cx.write cx.s r.d r.val r.pois

/-- One source, at the width of R188. -/
def Ctx.one (cx : Ctx) (f : (w : Nat) → BitVec w → BitVec w) (d a : Operand) : Option Result :=
  some { d := d, srcs := [a], val := fun l => lift1 f (wideOps [d, a]) (cx.val a l) }

/-- Two sources, at the width of R188. -/
def Ctx.two (cx : Ctx) (f : (w : Nat) → BitVec w → BitVec w → BitVec w) (d a b : Operand) : Option Result :=
  some { d := d, srcs := [a, b], val := fun l => lift2 f (wideOps [d, a, b]) (cx.val a l) (cx.val b l) }

/-- A source and an immediate. -/
def Ctx.imm (cx : Ctx) (f : (w : Nat) → BitVec w → BitVec w → BitVec w) (d a : Operand) (k : W64) : Option Result :=
  some { d := d, srcs := [a], val := fun l => lift2 f (wideOps [d, a]) (cx.val a l) k }

/-- A compare of two sources (R202). -/
def Ctx.cmp (cx : Ctx) (f : (w : Nat) → BitVec w → BitVec w → Bool) (d a b : Operand) : Option Result :=
  some { d := d, srcs := [a, b], val := fun l =>
    if (if wideOps [a, b] then f 64 (cx.val a l) (cx.val b l) else f 32 (cx.low a l) (cx.low b l)) then 1 else 0 }

/-- A saturating sum: its clamped value, and ISAT where a lane clamps (R191). -/
def Ctx.sat (cx : Ctx) (f : (w : Nat) → BitVec w → BitVec w → BitVec w × Bool) (d a b : Operand) : Option Result :=
  let wide := wideOps [d, a, b]
  some { d := d, srcs := [a, b], val := fun l => lift2 (fun w x y => (f w x y).1) wide (cx.val a l) (cx.val b l)
         flags := isatOf fun l => if wide then (f 64 (cx.val a l) (cx.val b l)).2 else (f 32 (cx.low a l) (cx.low b l)).2 }

/-- A result through which the poison of two operands passes (R70). -/
def Ctx.passing (cx : Ctx) (f : W64 → W64 → W64) (d a b : Operand) : Option Result :=
  some { d := d, known := [a, b], val := fun l => f (cx.val a l) (cx.val b l)
         pois := fun l => joinOrigin ((cx.read a).pois l) ((cx.read b).pois l) }

/-- The same for an operand and an immediate. -/
def Ctx.passingImm (cx : Ctx) (f : W64 → W64) (d a : Operand) : Option Result :=
  some { d := d, known := [a], val := fun l => f (cx.val a l), pois := fun l => joinOrigin ((cx.read a).pois l) none }

/-- Predicates, which are known and carry no poison. -/
def Ctx.bit (cx : Ctx) (f : Bool → Bool → Bool) (d a b : Operand) : Option Result :=
  some { d := d, val := fun l => if f (cx.val a l == 1) (cx.val b l == 1) then 1 else 0 }

/-- What the integer, bit-field, move, compare and predicate instructions write, where they use their operands in a blocking way
(R191-R204); sums, differences, products by a known uniform factor, and copies let poison pass (R70). -/
def integerResult (cx : Ctx) : Instr → Option Result
  | .add d a b => cx.passing (fun x y => x + y) d a b
  | .sub d a b => cx.passing (fun x y => x - y) d a b
  | .mul d a b => if cx.fixed b then cx.passing (fun x y => x * y) d a b
    else if cx.fixed a then cx.passing (fun x y => x * y) d b a
    else cx.two (fun _ x y => x * y) d a b
  | .shl d a b =>
    if cx.fixed b then cx.passing (fun x _ => x <<< (((cx.read b).at_ 0).toNat % (if wideOps [d, a, b] then 64 else 32))) d a b
    else cx.two (fun w x y => x <<< (y.toNat % w)) d a b
  | .addi d a k => cx.passingImm (fun x => x + cx.immB k) d a
  | .muli d a k => cx.passingImm (fun x => x * cx.immB k) d a
  | .shli d a n => cx.passingImm (fun x => x <<< (n.toNat % (if wideOps [d, a] then 64 else 32))) d a
  | .mov d a => some { d := d, known := [a], val := cx.val a, pois := (cx.read a).pois }
  | .addSatI d a b => cx.sat addSatSigned d a b
  | .addSatN d a b => cx.sat addSatUnsigned d a b
  | .mulhiI d a b => cx.two mulhiSigned d a b
  | .mulhiN d a b => cx.two mulhiUnsigned d a b
  | .mad d a b => some
      { d := d, srcs := [a, b, cx.mods.s3]
        val := fun l => lift1 (fun _ x => x) (wideOps [d, a, b, cx.mods.s3]) (cx.val a l * cx.val b l + cx.val cx.mods.s3 l) }
  | .divI d a b => cx.two divSigned d a b
  | .divN d a b => cx.two divUnsigned d a b
  | .remI d a b => cx.two remSigned d a b
  | .remN d a b => cx.two remUnsigned d a b
  | .andOp d a b => cx.two (fun _ x y => x &&& y) d a b
  | .orOp d a b => cx.two (fun _ x y => x ||| y) d a b
  | .xorOp d a b => cx.two (fun _ x y => x ^^^ y) d a b
  | .andn d a b => cx.two (fun _ x y => x &&& ~~~y) d a b
  | .shr d a b => cx.two (fun w x y => x >>> (y.toNat % w)) d a b
  | .sar d a b => cx.two (fun w x y => x.sshiftRight (y.toNat % w)) d a b
  | .rotl d a b => cx.two (fun w x y => x.rotateLeft (y.toNat % w)) d a b
  | .clz d a => cx.one countZeros d a
  | .popc d a => cx.one countOnes d a
  | .brev d a => cx.one bitReverse d a
  | .ffs d a => cx.one firstSet d a
  | .minI d a b => cx.two (fun _ x y => if x.sle y then x else y) d a b
  | .maxI d a b => cx.two (fun _ x y => if x.sle y then y else x) d a b
  | .minN d a b => cx.two (fun _ x y => if x.ule y then x else y) d a b
  | .maxN d a b => cx.two (fun _ x y => if x.ule y then y else x) d a b
  | .bfxI d a b => some
      { d := d, srcs := [a, b], val := fun l => lift1 (extractSigned (cx.control b l)) (wideOps [d, a, b]) (cx.val a l) }
  | .bfxN d a b => some
      { d := d, srcs := [a, b], val := fun l => lift1 (extractUnsigned (cx.control b l)) (wideOps [d, a, b]) (cx.val a l) }
  | .bfi d a b => some
      { d := d, srcs := [d, a, b]
        val := fun l => lift2 (insertField (cx.control b l)) (wideOps [d, a, b]) (cx.val d l) (cx.val a l) }
  | .lea d a b => some
      { d := d, srcs := [a, b], wide := true
        val := fun l => cx.val a l + (cx.val b l <<< (cx.ext.extractLsb' 0 2).toNat) + cx.ext.sshiftRight 2 }
  | .andi d a k => cx.imm (fun _ x y => x &&& y) d a (cx.immB k)
  | .ori d a k => cx.imm (fun _ x y => x ||| y) d a (cx.immB k)
  | .xori d a k => cx.imm (fun _ x y => x ^^^ y) d a (cx.immB k)
  | .shri d a n => cx.imm (fun w x _ => x >>> (n.toNat % w)) d a 0
  | .sari d a n => cx.imm (fun w x _ => x.sshiftRight (n.toNat % w)) d a 0
  | .movi d k => some { d := d, val := fun _ => cx.immC k }
  | .movk d sel k => some { d := d, srcs := [d], val := fun l => replace16 (cx.val d l) sel k }
  | .cmov d a b => some
      { d := d, srcs := [d, a, b]
        val := fun l => if lift1 (fun _ x => x) (wideOps [d, a, b]) (cx.val b l) != 0 then cx.val a l else cx.val d l }
  | .p2v d a => some { d := d, val := cx.val a }
  | .v2p d a => some { d := d, srcs := [a], val := fun l => if cx.val a l != 0 then 1 else 0 }
  | .cmpEq d a b => cx.cmp (fun _ x y => x == y) d a b
  | .cmpNe d a b => cx.cmp (fun _ x y => x != y) d a b
  | .cmpLtI d a b => cx.cmp (fun _ x y => x.slt y) d a b
  | .cmpLeI d a b => cx.cmp (fun _ x y => x.sle y) d a b
  | .cmpLtN d a b => cx.cmp (fun _ x y => x.ult y) d a b
  | .cmpLeN d a b => cx.cmp (fun _ x y => x.ule y) d a b
  | .tst d a b => cx.cmp (fun _ x y => x &&& y != 0) d a b
  | .tstz d a b => cx.cmp (fun _ x y => x &&& y == 0) d a b
  | .pand d a b => cx.bit (fun x y => x && y) d a b
  | .por d a b => cx.bit (fun x y => x || y) d a b
  | .pxor d a b => cx.bit (fun x y => x != y) d a b
  | .pandn d a b => cx.bit (fun x y => x && !y) d a b
  | .pset d => some { d := d, val := fun _ => 1 }
  | .pclr d => some { d := d, val := fun _ => 0 }
  | .pfirst d a => some { d := d, val := fun l => if cx.holds a != 0 && l == lowLane (cx.holds a) then 1 else 0 }
  | .pcnt d a => some { d := d, val := fun _ => BitVec.ofNat 64 (laneCount (cx.holds a)) }
  | .gaddr d a => some
      { d := d, srcs := [a], wideSrc := true, wide := true
        val := fun l => gaddrOf cx.who (if cx.sys then 0 else l) ((cx.read64 a).at_ l) }
  | .space d a => some
      { d := d, srcs := [a], wideSrc := true, val := fun l => spaceOf cx.who cx.s.devid.toNat ((cx.read64 a).at_ l) }
  | _ => none

/-- One FP32 operand, with the flags of the active lanes (R245). -/
def Ctx.fp1 (cx : Ctx) (f : W32 → W32 × FlagSet) (d a : Operand) : Option Result :=
  some { d := d, srcs := [a], val := fun l => (f (cx.low a l)).1.setWidth 64, flags := fun l => (f (cx.low a l)).2 }

/-- Two FP32 operands, with the flags of the active lanes (R245). -/
def Ctx.fp2 (cx : Ctx) (f : W32 → W32 → W32 × FlagSet) (d a b : Operand) : Option Result :=
  some { d := d, srcs := [a, b], val := fun l => (f (cx.low a l) (cx.low b l)).1.setWidth 64
         flags := fun l => (f (cx.low a l) (cx.low b l)).2 }

/-- A compare of FP32 operands (R252). -/
def Ctx.fpCmp (cx : Ctx) (f : W32 → W32 → Bool) (d a b : Operand) : Option Result :=
  some { d := d, srcs := [a, b], val := fun l => if f (cx.low a l) (cx.low b l) then 1 else 0 }

/-- A conversion in a rounding mode (R253, R254). -/
def Ctx.conv (cx : Ctx) (mode : RMode) (d a : Operand) (code : BitVec 8) : Option Result :=
  match cvtPair code with
  | none => none
  | some (dt, st) =>
    let v (l : Nat) : W64 := if wideType st then (cx.read64 a).at_ l else cx.val a l
    some { d := d, srcs := [a], wideSrc := wideType st, wide := wideType dt
           val := fun l => (convert dt st mode cx.mods.nsat (v l)).1
           flags := fun l => (convert dt st mode cx.mods.nsat (v l)).2 }

/-- The values of a block of lanes from `l` on, +0 where a lane is not active (R255, R257). -/
def Ctx.block (cx : Ctx) (a : Operand) (l n : Nat) : List W32 := (List.range' l n).map (cx.leaf a)

/-- A scale and a code, as `qblk` and `qmx` write them to a pair (R255, R257). -/
def scalePair (scale code : Nat) : W64 := BitVec.ofNat 64 (scale * 2 ^ 32 + code)

/-- What the floating-point, conversion and quantisation instructions write (R248-R257). -/
def floatResult (cx : Ctx) : Instr → Option Result
  | .fadd d a b => cx.fp2 (fpAdd cx.mods.rm) d a b
  | .fsub d a b => cx.fp2 (fpSub cx.mods.rm) d a b
  | .fmul d a b => cx.fp2 (fpMul cx.mods.rm) d a b
  | .ffma d a b => some
      { d := d, srcs := [a, b, cx.mods.s3]
        val := fun l => (fpFma cx.mods.rm (cx.low a l) (cx.low b l) (cx.low cx.mods.s3 l)).1.setWidth 64
        flags := fun l => (fpFma cx.mods.rm (cx.low a l) (cx.low b l) (cx.low cx.mods.s3 l)).2 }
  | .fmin d a b => cx.fp2 (fun x y => (fpMin x y, 0)) d a b
  | .fmax d a b => cx.fp2 (fun x y => (fpMax x y, 0)) d a b
  | .fdiv d a b => cx.fp2 (fpDiv cx.mods.rm) d a b
  | .fcpsgn d a b => cx.fp2 (fun x y => (fpCpsgn x y, 0)) d a b
  | .frcp d a => cx.fp1 fpRcp d a
  | .frsq d a => cx.fp1 fpRsq d a
  | .fsqrt d a => cx.fp1 (fpSqrt cx.mods.rm) d a
  | .fexp2 d a => cx.fp1 fpExp2 d a
  | .flog2 d a => cx.fp1 fpLog2 d a
  | .fsin d a => cx.fp1 (fpTrig false) d a
  | .fcos d a => cx.fp1 (fpTrig true) d a
  | .ftanh d a => cx.fp1 fpTanh d a
  | .fcmpEq d a b => cx.fpCmp fpEq d a b
  | .fcmpLt d a b => cx.fpCmp fpLt d a b
  | .fcmpLe d a b => cx.fpCmp fpLe d a b
  | .fcmpUn d a b => cx.fpCmp fpUn d a b
  | .cvtRn d a code => cx.conv .rn d a code
  | .cvtRz d a code => cx.conv .rz d a code
  | .cvtRd d a code => cx.conv .rd d a code
  | .cvtRu d a code => cx.conv .ru d a code
  | .qblk d a b =>
    let scale (l : Nat) : Nat := if b = .zero then blockScale (cx.block a (l / 8 * 8) 8) else (cx.val b l).toNat % 256
    let r (l : Nat) := quantise cx.mods.rm cx.mods.nsat (scale l) (cx.block a (l / 8 * 8) 8)
    some { d := d, srcs := [a, b], wide := true, val := fun l => scalePair (scale l) (r l).1
           flags := fun l => (quantise cx.mods.rm cx.mods.nsat (scale l) [cx.leaf a l]).2 }
  | .qmx d a code =>
    let scale (l : Nat) : Nat := mxScale (mxType code).2.1 (cx.block a (l / 32 * 32) 32)
    let elem (l k : Nat) : Nat × FlagSet := mxElement code cx.mods.rm cx.mods.nsat (scale l) (cx.leaf a k)
    some { d := d, srcs := [a], wide := true
           val := fun l => scalePair (scale l)
             (if code = 5#8 then (elem l (l / 2 * 2)).1 + 16 * (elem l (l / 2 * 2 + 1)).1 else (elem l l).1)
           flags := fun l => (elem l l).2 }
  | .dqblk d a => some
      { d := d, srcs := [a], wideSrc := true, val := fun l => (dequantise l ((cx.read64 a).at_ l)).1.setWidth 64
        flags := fun l => (dequantise l ((cx.read64 a).at_ l)).2 }
  | _ => none

/-- A reduction of each mask word (R261). -/
def perWord (f : Nat → W32 × FlagSet) (d a : Operand) : Option Result :=
  some { d := d, srcs := [a], val := fun l => (f (l / 32 * 32)).1.setWidth 64, flags := fun l => (f (l / 32 * 32)).2 }

/-- What the votes, the reductions and `sq` write (R236, R260, R261). -/
def laneResult (cx : Ctx) : Instr → Option Result
  | .voteAny d a => some { d := d, val := fun _ => if cx.holds a != 0 then 1 else 0 }
  | .voteAll d a => some { d := d, val := fun _ => if cx.holds a == cx.act then 1 else 0 }
  | .ballot d a => some { d := d, val := fun l => (maskWord (cx.holds a) (l / 32)).setWidth 64 }
  | .voteEq d a => some
      { d := d, srcs := [a], val := fun _ => if (lanesOf cx.act).all fun l => cx.val a l == cx.val a (lowLane cx.act) then 1 else 0 }
  | .redwAdd d a => perWord (fun l => ((cx.leaves a 0 l).foldl (· + ·) 0, 0)) d a
  | .redwFadd d a => perWord (fun l => sumTree (cx.leaves a 0x80000000#32 l)) d a
  | .redwFmax d a => perWord (fun l => (extreme fpMax (cx.activeLeaves a l), 0)) d a
  | .redwFmin d a => perWord (fun l => (extreme fpMin (cx.activeLeaves a l), 0)) d a
  | .sq d a => some { d := d, val := fun _ => if cx.full a then 1 else 0 }
  | _ => none

/-- What a computing instruction writes. -/
def resultOf (cx : Ctx) (i : Instr) : Option Result := ((integerResult cx i).or (floatResult cx i)).or (laneResult cx i)

end Sys2Proof.Machine
end

