-- ==== Sys2Proof/Machine/Effects.lean ====
section
/-!
DEFINITION. What the other instructions leave when nothing keeps them waiting and nothing traps: one table for each family (R83,
R215-R243, R258-R309, R325-R338, R363-R377). None stands for a case in which the instruction waits, traps or ends its team.
-/

namespace Sys2Proof.Machine

/-- A condition, and what holds under it. -/
def need {α : Type} (b : Bool) (o : Option α) : Option α := if b then o else none

/-- What an instruction leaves, before its splinter goes on: the state, and the flags that it sets. -/
abbrev Effect := Option (State × (Nat → FlagSet))

/-- A state without flags. -/
def gives (s : State) : Effect := some (s, 0)

/-- No marker of the team holds back an item operation (bit 0) or an engine command (bit 1) (R231). -/
def Ctx.unmarked (cx : Ctx) (bit : Nat) : Bool := !cx.marked bit

/-! Lanes (R258, R259, R262-R264). -/

/-- The lane that a shuffle reads, where it is a lane of the team (R259). -/
def Ctx.source (cx : Ctx) (j : Option Nat) : Option Nat :=
  j.bind fun k => if k < cx.x.width && cx.x.live.getLsbD k then some k else none

/-- A shuffle: each lane takes the value of its source lane, or 0 (R259). -/
def Ctx.shuffled (cx : Ctx) (j : Nat → W64 → Option Nat) (d a b : Operand) : Effect :=
  let src (l : Nat) : Option Nat := cx.source (j l (cx.val b l))
  let v : Val :=
    { at_ := fun l => match src l with
        | none => 0
        | some k => cx.val a k
      pois := fun l => match src l with
        | none => none
        | some k => (cx.read a).pois k }
  need (!cx.symbolic a && !cx.symbolic b && !cx.destWaits d && (cx.origins [cx.read b, v]).isEmpty) <|
    gives (cx.write cx.s d v.at_ noOrigin)

/-- What shuffles, sorted lists and symbol instructions leave. -/
def laneEffect (cx : Ctx) : Instr → Effect
  | .shfl d a b => cx.shuffled (fun _ y => some y.toNat) d a b
  | .shflX d a b => cx.shuffled (fun l y => some (BitVec.ofNat 64 l ^^^ y).toNat) d a b
  | .shflUp d a b => cx.shuffled (fun l y => if y.toNat ≤ l then some (l - y.toNat) else none) d a b
  | .shflDn d a b => cx.shuffled (fun l y => some (l + y.toNat)) d a b
  | .topkIns d a b =>
    let k := listLen cx.h
    let regs := (List.range (2 * k)).map (listReg d)
    need (!regs.any cx.destWaits && cx.plain (regs ++ [a, b])) <| gives (cx.writeList d (cx.topkLane d a b k) (2 * k))
  | .topkClr d code =>
    let k := code.toNat
    need (!((List.range (2 * k)).map (listReg d)).any cx.destWaits) <|
      gives (cx.writeList d (fun _ => List.replicate k 0xFF800000#32 ++ List.replicate k 0xFFFFFFFF#32) (2 * k))
  | .symQ d a => need (!cx.destWaits d) <|
    gives (cx.writeP15 (cx.write cx.s d (fun _ => BitVec.ofNat 64 (cx.symbols.length % 256 * 2 ^ 16 + cx.tagWord a)) noOrigin)
      fun _ => cx.symbolic a)
  | .symWait a => need (!cx.symbolic a) <| gives cx.s
  | .symWall => need (!cx.symbols.any fun y => y.arrived != y.lanes) <| gives cx.s
  | .refill => gives (cx.s.refill cx.c cx.t cx.n)
  | .yield => gives (cx.s.onCore cx.c fun k => { k with last := SMap.del k.last cx.x.quarter })
  | .nop => gives cx.s
  | _ => none

/-! Memory (R69, R82, R83, R215-R230, R325-R330). -/

/-- The access that a memory instruction makes. -/
def memReq (cx : Ctx) : Instr → Option Req
  | .ldB d a b => some { op := .load 1 cx.mods.sx, base := a, idx := b, dest := some d }
  | .ldH d a b => some { op := .load 2 cx.mods.sx, base := a, idx := b, dest := some d }
  | .ldW d a b => some { op := .load 4 cx.mods.sx, base := a, idx := b, dest := some d }
  | .ldD d a b => some { op := .load 8 cx.mods.sx, base := a, idx := b, dest := some d, wide := true }
  | .stB d a b => some { op := .store 1, base := a, idx := b, data := some d }
  | .stH d a b => some { op := .store 2, base := a, idx := b, data := some d }
  | .stW d a b => some { op := .store 4, base := a, idx := b, data := some d }
  | .stD d a b => some { op := .store 8, base := a, idx := b, data := some d, wide := true }
  | .zeroLine a b => some { op := .zeroLine, base := a, idx := b }
  | .atomAdd d a b => some (atomReq .add d a b cx.mods)
  | .atomAddSatN d a b => some (atomReq .addSatN d a b cx.mods)
  | .atomFadd d a b => some (atomReq .fadd d a b cx.mods)
  | .atomXchg d a b => some (atomReq .xchg d a b cx.mods)
  | .atomMinI d a b => some (atomReq .minI d a b cx.mods)
  | .atomMaxI d a b => some (atomReq .maxI d a b cx.mods)
  | .atomMinN d a b => some (atomReq .minN d a b cx.mods)
  | .atomMaxN d a b => some (atomReq .maxN d a b cx.mods)
  | .atomAnd d a b => some (atomReq .andB d a b cx.mods)
  | .atomOr d a b => some (atomReq .orB d a b cx.mods)
  | .atomXor d a b => some (atomReq .xorB d a b cx.mods)
  | .atomCas d a b => some (atomReq .cas d a b cx.mods)
  | .rld d a b => some (rldReq d a b cx.mods)
  | .rst d a b => some (rstReq d a b)
  | .ratom d a b => some (ratomReq d a b cx.mods)
  | .mcst d a b => some (mcstReq d a b)
  | _ => none

/-- An access that is no multicast to a group that is not the partition's, and neither misaligned nor in a locked range, as far as its operands
are known (R80, R95, R330). -/
def Ctx.accessClear (cx : Ctx) (a : Access) : Bool :=
  !(a.op == .mcst && a.base.known && a.base.pois.isEmpty && a.mcstBad cx.s cx.who.part) &&
    (!a.addrKnown || (a.op.writes && !a.origins.isEmpty) || (a.misaligned == 0 && (cx.s.hitsLock cx.who a).isNone))

/-- Whether an access is performed at issue: its operands are known, and no earlier access of the team holds it back (R69, R108). -/
def Ctx.atIssue (cx : Ctx) (a : Access) : Bool := a.ready && cx.s.mayPerform cx.c cx.t cx.who a

/-- The destination bound to a new symbol, and the access that resolves it (R63). -/
def Ctx.bound (cx : Ctx) (r : Req) (a : Access) : Option (State × Access) :=
  let d := r.dest.getD .zero
  if takesSymbol d then
    (cx.s.allocSym cx.c cx.t cx.sys a.lanes (r.op.size == 8) (uniformOp d) .access).map fun e => (cx.bind e.2 d r.wide e.1, { a with rsym := some e.1 })
  else some (cx.s, a)

/-- The state after an access: performed on every lane, or deferred (R69). -/
def Ctx.launched (cx : Ctx) (s : State) (a : Access) : Option State :=
  let s := s.nextOrder cx.c cx.t
  if cx.atIssue a then
    let p := s.passAccess cx.who cx.t a none false
    need (p.left == 0) <| some (cx.pendP15 p.s a)
  else need (decide ((cx.s.core cx.c).queued < 128)) <| some (cx.pendP15 (s.queueAccess cx.c cx.t a) a)

/-- What an access leaves that can start: its destination is not shared. -/
def Ctx.accessEffect (cx : Ctx) (r : Req) : Effect :=
  let a := cx.accessOf r
  let d := r.dest.getD .zero
  need (!cx.destBusy r && cx.accessClear a && !cx.sharedDest r.wide d) <|
    (cx.bound r a).bind fun e => (cx.launched e.1 e.2).map fun s => (s, 0)

/-- The addresses that lanes ask for: one for a uniform destination and size (R226). -/
def Ctx.asking (cx : Ctx) (d a : Operand) : List Nat := if uniformOp d && uniformOp a then [lowLane cx.act] else lanesOf cx.act

/-- `alloc` and `alloc.z`; a pool above 2 answers 0 on every lane and sets ALLOCERR (R226). -/
def Ctx.allocated (cx : Ctx) (zeroed : Bool) (d a b : Operand) : Effect :=
  let pool := (cx.val b 0).toNat
  need (!cx.destWaits64 d && cx.plain [a, b]) <|
    if 2 < pool then some (cx.write64 cx.s d (fun _ => 0) noOrigin, flagAt Flag.allocerr (cx.asking d a))
    else
      let r := cx.s.allocLanes cx.who zeroed pool (fun l => (cx.val a l).toNat) (cx.asking d a)
      gives (cx.write64 r.2 d (fun l => SMap.atD r.1 l 0) noOrigin)

/-- Addresses freed in turn for some lanes, and the lanes whose one was an error (R83). -/
def State.freeAll (s : State) (p : Nat) (f : Nat → W64) : List Nat → State × List Nat
  | [] => (s, [])
  | l :: ls => let r := s.freeOne p (f l); let t := r.1.freeAll p f ls; (t.1, if r.2 then l :: t.2 else t.2)

/-- What memory instructions leave. -/
def memoryEffect (cx : Ctx) : Instr → Effect
  | .pref a b => need (!cx.symbolic a && !cx.symbolic b) <|
    let q := cx.accessOf { op := .zeroLine, base := a, idx := b }
    need (!cx.endsTeam (tagsOf q.origins)) <|
    gives ((cx.s.consumeAll cx.sys (tagsOf q.origins)).prefetchAll cx.who cx.t (((lanesOf cx.act).filter fun l => (q.addrPois l).isNone).map fun l => (l, (q.addr l).toNat)))
  | .alloc d a b => cx.allocated false d a b
  | .allocZ d a b => cx.allocated true d a b
  | .freeMem a => need (cx.plain64 [a]) <|
    let r := cx.s.freeAll cx.part (cx.read64 a).at_ (if uniformOp a then [lowLane cx.act] else lanesOf cx.act)
    some (r.1, flagAt Flag.allocerr r.2)
  | i => (memReq cx i).bind cx.accessEffect

/-! Order, barriers and shared registers (R231-R236). -/

/-- What a fence that is performed does: with R in its successor set the partition's cached lines go, as its scope has it (R109). -/
def Ctx.fenced (cx : Ctx) (s : State) (succ : BitVec 4) (scope : Scope) : State :=
  if succ.getLsbD 3 then s.discardLines cx.c cx.who.part scope else s

/-- The marker of a fence (R69). -/
def Ctx.marker (cx : Ctx) (pred succ : BitVec 4) (scope : Scope) : Access :=
  { pc := cx.iaddr, word := cx.word, op := .fence pred succ, lanes := cx.act, scope := scope, sys := cx.sys, part := cx.part
    order := cx.x.orderCtr }

/-- What fences, barrier instructions and shared-register instructions leave. -/
def syncEffect (cx : Ctx) : Instr → Effect
  | .fence pred succ scope =>
    let a := cx.marker pred succ scope
    let s := cx.s.nextOrder cx.c cx.t
    if pred = 0 || succ = 0 then gives cx.s
    else if cx.s.mayPerform cx.c cx.t cx.who a then gives (cx.fenced s succ scope)
    else need (decide ((cx.s.core cx.c).queued < 128)) <| gives (s.queueAccess cx.c cx.t a)
  | .barInit x idx =>
    let n := (cx.val x 0).toNat % 2 ^ 32
    need (cx.plain [x] && !cx.barBad cx.c idx && n != 0) <|
      let r := cx.s.initBar (barLevel cx.mods) cx.c idx.toNat n false (lanesOf cx.act)
      gives (cx.writeP15 r.1 fun l => SMap.atD r.2 l false)
  | .barInitForce x idx =>
    let n := (cx.val x 0).toNat % 2 ^ 32
    need (cx.plain [x] && !cx.barBad cx.c idx && n != 0) <|
      let r := cx.s.initBar (barLevel cx.mods) cx.c idx.toNat n true (lanesOf cx.act)
      gives (cx.writeP15 r.1 fun l => SMap.atD r.2 l false)
  | .barArr x y idx =>
    let target := if y = .zero then cx.c else (cx.val y 0).toNat
    let n := if x = .zero then 1 else (cx.val x 0).toNat % 2 ^ 32
    need (cx.unmarked 0 && cx.plain [x, y] && sectorOf target == sectorOf cx.c && !cx.barBad target idx && !cx.unsettled) <|
      gives ((lanesOf cx.act).foldl (fun s _ => cx.arriveOnce (barLevel cx.mods) target idx.toNat n s) cx.s)
  | .barWait idx =>
    match cx.p.st with
    | .waiting (.barDone last) => gives (cx.writeP15 cx.s fun _ => last)
    | _ => need (barLevel cx.mods == 0 && !cx.barBad cx.c idx) <|
      (cx.x.barGen.at? idx.toNat).bind fun g =>
        let b := cx.s.bar 0 cx.c idx.toNat
        need (g != b.gen) <|
          gives (cx.writeP15 (cx.s.onTeam cx.c cx.t fun x => { x with barGen := SMap.del x.barGen idx.toNat }) fun _ => b.last)
  | .barInv idx => need (!cx.barBad cx.c idx) <|
    let lvl := barLevel cx.mods
    gives ((lanesOf cx.act).foldl (fun (s : State) _ =>
      let b := s.bar lvl cx.c idx.toNat
      (s.setBar lvl cx.c idx.toNat { b with last := true, arr := 0, gen := !b.gen }).wakeBar lvl cx.c idx.toNat true) cx.s)
  | .barQ x idx => need (!cx.barBad cx.c idx && !cx.destWaits x) <|
    let b := cx.s.bar (barLevel cx.mods) cx.c idx.toNat
    gives (cx.writeP15 (cx.write cx.s x (fun _ => BitVec.ofNat 64 (b.exp.toNat * 2 ^ 32 + b.arr.toNat)) noOrigin) fun _ => b.gen)
  | .sput d a => need (!cx.symbolic d && !cx.full a && !cx.lostTo a && (cx.origins [cx.read d]).isEmpty) <|
    gives (cx.setFull (cx.write cx.s a (cx.val d) noOrigin) a true)
  | .sgetC d a => need (!cx.destWaits d && cx.full a && !cx.lostTo a && (cx.origins [cx.read a]).isEmpty) <|
    gives (cx.setFull (cx.write cx.s d (cx.val a) noOrigin) a false)
  | .sget d a => need (!cx.destWaits d && cx.full a && (cx.origins [cx.read a]).isEmpty) <|
    gives (cx.write cx.s d (cx.val a) noOrigin)
  | _ => none

/-! Flows, items, counters and the heap (R29, R38, R43, R141-R143, R237-R243). -/

/-- A record or a range that the instruction reads for itself: the context once it has all of it (R241, R243). -/
def Ctx.recordsRead (cx : Ctx) (a : Access) : Option Ctx :=
  if cx.p.hasAll a then some cx
  else
    need (!(cx.s.waitingOf cx.c cx.t).any (fun e => e.direct && e.sys == a.sys && e.pc == a.pc && e.seat == a.seat && e.lanes &&& a.lanes != 0)
        && cx.accessClear a && cx.s.mayPerform cx.c cx.t cx.who a) <|
      let s := ((cx.s.nextOrder cx.c cx.t).passAccess cx.who cx.t a none false).s
      (s.team? cx.c cx.t).bind fun x => (x.splinterAt cx.n).bind fun p =>
        need (p.hasAll a) <| some { cx with s := s, x := x, p := p }

/-- No record that was read is poisoned on an active lane (R241, R288). -/
def Ctx.readsSound (cx : Ctx) : Bool := maskOf (cx.p.readBad.map fun e => e.1 % 1024) &&& cx.act == 0

/-- `enq` and `enq.w` (R241). -/
def Ctx.enqueued (cx : Ctx) (x y : Operand) (waits : Bool) : Effect :=
  let addr (l : Nat) : W64 := cx.val x 0 + cx.val y l * 64
  need (cx.unmarked 0 && cx.plain [x, y] && maskWhere cx.act (fun l => (addr l).extractLsb' 0 6 != 0) == 0) <|
    (cx.recordsRead (cx.ownAccess (.record 64) cx.act addr)).bind fun cx =>
      need (cx.readsSound && maskWhere cx.act (fun l => !cx.accepts waits l) == 0) <|
        let r := cx.enqueueLanes waits cx.s (lanesOf cx.act)
        need r.2.isEmpty <| gives r.1

/-- An operation on the counter of each active lane in order (R242). -/
def Ctx.counted (cx : Ctx) (x y : Operand) (f : Counter → Nat → Counter) : Effect :=
  let n (l : Nat) : Nat := (cx.val x l).toNat
  need (cx.unmarked 0 && cx.plain [x, y] && maskWhere cx.act (fun l => !cx.counterOk (n l)) == 0) <|
    gives ((lanesOf cx.act).foldl (fun (s : State) l => s.setCounter (n l) (f (s.counter (n l)) (cx.val y 0).toNat)) cx.s)

/-- The items of `flow.set` relabelled, all of them (R43, R238). -/
def Ctx.relabelled (cx : Ctx) (a b : Operand) : Option State :=
  cx.s.relabelAll cx.c cx.t cx.part (fun i => (cx.val a (lowLane (i.mask &&& cx.act))).toNat % 2 ^ 32)
    (if b = .zero then none else some (cx.val b 0).toNat) (cx.x.itemsOf cx.act)

/-- What flow, item, counter and heap instructions leave. -/
def itemEffect (cx : Ctx) : Instr → Effect
  | .flowRel =>
    let lanes := cx.act &&& cx.x.orderedLanes
    let s := cx.s.onTeam cx.c cx.t fun x => { x with released := x.released ||| lanes }
    let s := if cx.mods.scope = some .sys then
        (cx.x.itemsOf lanes).foldl (fun s i => s.onPosition i.pos fun q =>
          if i.mask &&& lanes &&& ~~~cx.x.released = 0 then q else { q with sysScope := true }) s
      else s
    gives (s.settleItems cx.c cx.t)
  | .flowSet a b =>
    if cx.p.st = .waiting .tokenDone then gives cx.s
    else
      let k := (cx.val b 0).toNat
      need (cx.unmarked 0 && cx.plain [a, b] && (b == .zero || decide (k < 3))) <|
        (cx.relabelled a b).bind fun s => (s.team? cx.c cx.t).bind fun x =>
            need (!x.items.any fun i => !i.ended && i.wtok && i.mask &&& cx.act != 0) <| gives s
  | .flowQ d a => need (!cx.destWaits d && cx.plain [a]) <|
    let f := cx.s.flow cx.part ((cx.val a 0).toNat % 2 ^ 32)
    gives (cx.writeP15 (cx.write (cx.s.touchFlow cx.part ((cx.val a 0).toNat % 2 ^ 32)) d (fun _ => BitVec.ofNat 64 (f.nexta.toNat * 2 ^ 32 + f.nextr.toNat)) noOrigin) fun _ => f.tok)
  | .enq x y => cx.enqueued x y false
  | .enqW x y => cx.enqueued x y true
  | .cntSet x y => cx.counted x y fun _ v => { count := BitVec.ofNat 32 v }
  | .cntAdd x y => cx.counted x y fun k v => k.add (if y = .zero then 1 else v)
  | .cntDec x y => cx.counted x y fun k v => k.dec (if y = .zero then 1 else v)
  | .cntQ x y =>
    let n := (cx.val x 0).toNat
    need (cx.unmarked 0 && !cx.destWaits y && cx.plain [x] && cx.counterOk n) <| gives (cx.write cx.s y (fun _ => (cx.s.counter n).word) noOrigin)
  | .heapIns x y => need (cx.unmarked 0 && cx.plain [x, y]) <|
    let r := eachLane (fun s l => s.heapInsert cx.part ((cx.val x l).toNat % 2 ^ 32) (cx.val y 0)) cx.s (lanesOf cx.act)
    gives (cx.writeP15 r.1 fun l => SMap.atD r.2 l false)
  | .heapRm x => need (cx.unmarked 0 && cx.plain [x]) <|
    let r := eachLane (fun s l => s.heapRemove cx.part ((cx.val x l).toNat % 2 ^ 32)) cx.s (lanesOf cx.act)
    gives (cx.writeP15 r.1 fun l => SMap.atD r.2 l false)
  | .admitHeap x y =>
    let a := cx.val x 0
    let room := min (cx.val y 0).toNat 16384
    need (cx.unmarked 0 && cx.plain [x, y] && a.extractLsb' 0 2 == 0) <|
      (cx.recordsRead (cx.ownAccess (.probe (4 + 4 * room)) cx.act fun _ => a)).bind fun cx =>
        need cx.readsSound <|
          let s := (lanesOf cx.act).foldl (cx.admitOnce a room) cx.s
          need (!cx.storing s) <| gives s
  | _ => none

/-! Engines (R91-R96, R286-R309, R335-R338). -/

/-- A copy command of a descriptor that has been read: refused with an error in its handle, complete at once for no bytes, or accepted
into its sector's queue (R288-R290). -/
def Ctx.copied (cx : Ctx) (h : Nat) (d : CopyDesc) (plan : Bool) : Option State :=
  need (!((d.shv && !cx.ownsHandle d.sh) || (plan && !cx.ownsHandle h)) &&
      !((cx.s.handle cx.c h).st != .free || (d.shv && d.sh != h && (cx.s.handle cx.c d.sh).st != .full)) &&
      !cx.copyBarBad d && !cx.copyConflict d) <|
    if cx.copyRefused d plan h then some ((cx.s.fillHandle cx.c h d.dst d.len .core none).fullHandle cx.c h errRefused)
    else need (cx.s.copyRoom cx.c cx.part cx.x.formed) <|
      if d.len = 0 then some (cx.emptyCopy h d)
      else match cx.freeLocks with
        | l1 :: l2 :: _ => some (cx.acceptCopy cx.s h d l1 l2)
        | _ => none

/-- A record of 64 bytes that the instruction reads for itself on its lowest active lane, and its value (R288). -/
def Ctx.ownRecord (cx : Ctx) (seat : Nat) (a : W64) : Option (Ctx × Nat) :=
  need (a.extractLsb' 0 6 == 0) <|
    (cx.recordsRead { cx.ownAccess (.record 64) (laneBit cx.lane) (fun _ => a) with seat := seat }).bind fun cx =>
      need cx.readsSound <| some (cx, leNat (cx.p.reads.atD (cx.lane + 1024 * seat) []))

/-- `cp` and `cp.sg` (R286-R290). -/
def Ctx.copyEffect (cx : Ctx) (x : Operand) (h : Nat) (sg : Bool) : Effect :=
  need (cx.unmarked 1 && cx.plain [x] && cx.ownsHandle h) <| (cx.ownRecord 0 (cx.uval x)).bind fun r =>
    let d := CopyDesc.decode r.2
    (r.1.copied h { d with pk := sg, rsv := if d.pk then 1 else d.rsv } false).map fun s => (s, 0)

/-- `cp.step` (R292): the stage of the team's counter, with its strides. -/
def Ctx.stepEffect (cx : Ctx) (x : Operand) : Effect :=
  let plan := cx.x.entry.plan
  need (cx.unmarked 1 && plan != 0 && !cx.destWaits x) <| (cx.ownRecord 0 plan).bind fun r =>
    let cx := r.1
    need (r.2 / 64 == 0) <|
      let nst := r.2 % 64 + 1
      let n := cx.stage
      (cx.ownRecord 1 (plan + BitVec.ofNat 64 (64 * (1 + n % nst)))).bind fun r =>
        let cx := r.1
        let d := CopyDesc.decode r.2
        let d := d.stride (n / nst)
        (cx.copied d.ph d true).bind fun s =>
          gives ((cx.write s x (fun _ => BitVec.ofNat 64 n) noOrigin).onTeam cx.c cx.t fun y => { y with stage := y.stage + 1 })

/-- The job of `smp` (R336). -/
def Ctx.jobOf (cx : Ctx) (w h : Nat) : SamplerJob :=
  { core := cx.c, slot := cx.t, lane := cx.lane, part := cx.part, pc := cx.iaddr, h := h, lh := bits w 4 6
    record := BitVec.ofNat 64 (bits w 10 46 * 2 ^ 10), sysMode := cx.sys, free := cx.x.formed, block := cx.who.block
    privAt := cx.who.privAt + cx.lane * cx.who.priv, priv := cx.who.priv }

/-- A job put into its sector's queue, with X symbolic on the handle (R63, R336). -/
def Ctx.entered (cx : Ctx) (x : Operand) (j : SamplerJob) : Effect :=
  let enter (s : State) : State := s.onSector (sectorOf cx.c) fun k => { k with
    jobs := k.jobs ++ [j], offered := k.offered.filter fun y => !(y.core == cx.c && y.h == j.h) }
  need (decide ((cx.s.sector (sectorOf cx.c)).jobs.length < samplerDepth)) <|
    if takesSymbol x then
      (cx.s.allocSym cx.c cx.t cx.sys (laneBit cx.lane) true true (.handle j.h)).bind fun e => gives (enter (cx.bind e.2 x false e.1))
    else gives (enter cx.s)

/-- `smp` (R336). -/
def Ctx.smpEffect (cx : Ctx) (x y : Operand) (h : Nat) : Effect :=
  let w := (cx.uval y).toNat
  let lh := bits w 4 6
  need (cx.unmarked 1 && cx.plain [y] && cx.ownsHandle h && bits w 56 8 == 0 && bits w 0 4 == 0 && lh != h && cx.ownsHandle lh) <|
    let j := cx.jobOf w h
    match cx.offeredJob j with
    | some j => cx.entered x j
    | none =>
      let l := cx.s.handle cx.c lh
      let base := aliasOf cx.who cx.lane l.base
      let rec_ := aliasOf cx.who cx.lane j.record
      need (l.st == .full && (cx.s.handle cx.c h).st == .free && !cx.conflicts false base l.len.toNat && !cx.conflicts true rec_ 1024) <|
        match cx.freeLocks with
        | l1 :: l2 :: _ =>
          let s := (cx.s.fillHandle cx.c h rec_ 1024 .core (some l1)).drainHandle cx.c lh l2 base
          let s := s.onHandle cx.c h fun k => { k with job := true }
          Ctx.entered { cx with s := s.onSector (sectorOf cx.c) fun k => { k with offered := k.offered ++ [j] } } x j
        | _ => none

/-- What copy, handle, pull and sampler instructions leave. -/
def engineEffect (cx : Ctx) : Instr → Effect
  | .cp x h => cx.copyEffect x h.toNat false
  | .cpSg x h => cx.copyEffect x h.toNat true
  | .cpStep x => cx.stepEffect x
  | .hWait h =>
    let x := cx.s.handle cx.c h.toNat
    need (cx.ownsHandle h.toNat && x.st == .full) <|
      gives (cx.writeP15 (cx.s.discardLines cx.c cx.who.part x.scope) fun _ => x.err != 0)
  | .hSet x y h =>
    let v := cx.uval y
    need (cx.plain [x, y] && cx.ownsHandle h.toNat && v >>> 35 == 0 && (cx.s.handle cx.c h.toNat).st == .free && !cx.unsettled) <|
      (scopeCoded (v.extractLsb' 32 3).toNat).bind fun sc =>
        gives (cx.s.onHandle cx.c h.toNat fun k => { k with
          base := cx.uval x, len := v.setWidth 32, scope := sc, err := 0, st := .full, lv := false, posted := false, job := false })
  | .hSetFree h =>
    let x := cx.s.handle cx.c h.toNat
    need (cx.ownsHandle h.toNat) <|
      if x.st = .full then gives (cx.s.freeHandle cx.c h.toNat)
      else need (x.st == .filling && x.posted && !cx.unsettled) <| gives (cx.s.cancelPost cx.c h.toNat)
  | .hQ x h => need (cx.ownsHandle h.toNat && !cx.destWaits x) <|
    gives (cx.write { cx.s with fresh := cx.s.fresh + 1 } x (fun _ => (cx.s.handle cx.c h.toNat).word cx.s.fresh) noOrigin)
  | .pullReq x h =>
    let k := cx.sourceHandle h.toNat
    let w := (cx.uval x).toNat
    need (cx.unmarked 1 && cx.plain [x] && cx.ownsHandle h.toNat && k.st == .full && !cx.pullBad w k &&
        !cx.conflicts false k.base k.len.toNat) <|
      if bits w 62 2 == 2 && (cx.s.endpoint? k.part (bits w 53 9)).isNone then
        gives ((cx.s.walkEndpoint k.part (bits w 53 9)).endSend cx.c h.toNat 3)
      else cx.freeLocks.head?.bind fun l =>
        gives (cx.startSend w h.toNat l k)
  | .grantCfg x y h =>
    let w := (cx.uval y).toNat
    let base := cx.uval x
    let len := bits w 0 32
    need (cx.plain [x, y] && cx.ownsHandle h.toNat && (cx.s.handle cx.c h.toNat).st == .free && bits w 32 16 != 0 &&
        bits w 51 13 == 0 && inSlice cx.c base len && !cx.conflicts true base len) <|
      (scopeCoded (bits w 48 3)).bind fun sc =>
        if len = 0 then gives (cx.s.post cx.c h.toNat base 0 (bits w 32 16) sc none cx.who.block)
        else cx.freeLocks.head?.bind fun l => gives (cx.s.post cx.c h.toNat base len (bits w 32 16) sc (some l) cx.who.block)
  | .xferQ x h => need (cx.ownsHandle h.toNat && !cx.destWaits x) <|
    gives (cx.write cx.s x (fun _ => BitVec.ofNat 64 (cx.s.xferWord cx.c h.toNat)) noOrigin)
  | .smp x y h => cx.smpEffect x y h.toNat
  | .smpQ x h => need (cx.ownsHandle h.toNat && !cx.destWaits x) <|
    gives (cx.write { cx.s with fresh := cx.s.fresh + 1 } x (fun _ => BitVec.ofNat 64 (cx.s.jobWord cx.c h.toNat)) noOrigin)
  | _ => none

/-! Tensor instructions (R265-R281). -/

/-- The state with an accumulator name bound, and its accumulator: the one that it has, or a free one in its turn (R270). -/
def Ctx.boundAcc (cx : Ctx) (n : Nat) : Option (State × Nat) :=
  match SMap.at? cx.x.accs n with
  | some i => some (cx.s, i)
  | none =>
    let core := cx.s.core cx.c
    let own : AccRequest := { slot := cx.t, name := n, pc := cx.p.pc }
    need (decide ((core.waitingReqs.takeWhile fun r => r != own).length < core.freeAccs.length)) <|
      (choose cx.s.fresh core.freeAccs).map fun i =>
        let s : State := { cx.s with fresh := cx.s.fresh + 1 }
        let s := s.onCore cx.c fun k => { k with accs := k.accs.put i {}, accReqs := k.accReqs.filter fun r => !(r.slot == cx.t && r.name == n) }
        (s.onTeam cx.c cx.t fun z => { z with accs := z.accs.put n i }, i)

/-- An operation put into the queue, of the batch that is open (R271, R272). -/
def Ctx.queuedOp (cx : Ctx) (s : State) (k : TensorKind) : State :=
  s.onCore cx.c fun core => { core with
    tq := core.tq ++ [{ slot := cx.t, part := cx.x.part, pc := cx.iaddr, word := cx.word, batch := cx.x.batch + 1, kind := k }] }

/-- `acc.ld` and `acc.st` accepted: the range is locked (R279). -/
def Ctx.accMoved (cx : Ctx) (acc base : Operand) (dst : Bool) (kind : Nat → W64 → Nat → TensorKind) : Effect :=
  let a := cx.uval base
  need (cx.unmarked 1 && cx.plain [base] && a.extractLsb' 0 6 == 0 && inNearOrBulk a.toNat 65536 && !cx.conflicts dst a 65536 &&
      cx.tensorRoom) <| cx.freeLocks.head?.bind fun l => (cx.boundAcc (bankNumber acc)).bind fun e =>
    gives (cx.queuedOp (e.1.lock cx.c l { base := a, len := 65536, dst := dst, part := cx.x.part }) (kind (bankNumber acc) a l))

/-- The flags of the batches up to a number (R120, R272). -/
def Ctx.flagsUpTo (cx : Ctx) (n : BitVec 32) : FlagSet := (upTo n cx.x.batchFlags).foldl (fun f e => f ||| e.2) 0

/-- What tensor instructions leave. -/
def tensorEffect (cx : Ctx) : Instr → Effect
  | .tclaim x y =>
    let f := TileFormat.decode (cx.uval y)
    need (cx.plain [y] && !f.refused && (cx.tile? x).isNone) <| (cx.s.claimPlace cx.c cx.x f.pair).bind fun e =>
      let s : State := { cx.s with fresh := cx.s.fresh + 1 }
      gives (s.onTeam cx.c cx.t fun z => { z with
        tiles := z.tiles.put (bankNumber x) { record := cx.uval y, first := e.1, pair := f.pair, reserved := e.2 } })
  | .trel x =>
    let n := bankNumber x
    if isTile x then need (!cx.pendingOp fun k => k.namesTile n) <|
      gives (cx.s.onTeam cx.c cx.t fun z => { z with tiles := z.tiles.del n })
    else need (!cx.pendingOp fun k => k.namesAcc n) <|
      let s := match SMap.at? cx.x.accs n with
        | none => cx.s
        | some i => cx.s.onCore cx.c fun k => { k with accs := k.accs.del i }
      gives (s.onTeam cx.c cx.t fun z => { z with accs := z.accs.del n })
  | .tload x h =>
    let k := cx.s.handle cx.c h.toNat
    need (cx.unmarked 1 && cx.ownsHandle h.toNat && k.st == .full) <| (cx.tile? x).bind fun c =>
      need (decide (k.len.toNat ≤ c.room) && inNearOrBulk k.base.toNat k.len.toNat && !cx.conflicts false k.base k.len.toNat &&
          cx.tensorRoom) <| cx.freeLocks.head?.bind fun l =>
        gives (cx.queuedOp (cx.s.drainHandle cx.c h.toNat l k.base) (.tload (bankNumber x) h.toNat))
  | .mma x y zc nb na acc => (cx.tile? x).bind fun a => (cx.tile? y).bind fun b =>
    need (cx.unmarked 1 && legalPair (TileFormat.decode a.record) (TileFormat.decode b.record) && cx.tensorRoom) <|
      (cx.boundAcc acc.toNat).bind fun e => gives (cx.queuedOp e.1 (.mma acc.toNat (bankNumber x) (bankNumber y) zc nb na))
  | .accZero x => need (cx.unmarked 1 && cx.tensorRoom) <|
    (cx.boundAcc (bankNumber x)).bind fun e => gives (cx.queuedOp e.1 (.zero (bankNumber x)))
  | .accLd x y => cx.accMoved x y false .ld
  | .accSt x y => cx.accMoved x y true .st
  | .mfence x => need (!cx.destWaits x) <|
    gives (cx.write (cx.s.onTeam cx.c cx.t fun y => { y with batch := cx.x.batch + 1 }) x (fun _ => (cx.x.batch + 1).setWidth 64) noOrigin)
  | .mwait x =>
    let n : BitVec 32 := (cx.uval x).setWidth 32
    let f := cx.flagsUpTo n
    need (cx.plain [x] && batchUpTo n cx.x.batch && (cx.s.core cx.c).batchDone cx.t n && (upTo n cx.x.batchPois).isEmpty &&
        f &&& (cx.s.enabled cx.c cx.part) == 0) <|
      gives ((cx.s.onTeam cx.c cx.t fun y => { y with batchPois := beyond n y.batchPois, batchFlags := beyond n y.batchFlags }).setFlags
        cx.c cx.part f)
  | .accMv x y vi =>
    if isAcc x then need (cx.plain [y, indexReg vi] && !cx.pendingOp fun k => k.namesAcc (bankNumber x)) <|
      (cx.boundAcc (bankNumber x)).bind fun e =>
        gives (e.1.onCore cx.c fun k =>
          let a := k.accs.atD e.2 {}
          { k with accs := k.accs.put e.2 { a with
              words := (lanesOf cx.act).foldl (fun m l => SMap.store 0 m (cx.accIndex vi l) (cx.low y l)) a.words } })
    else need (!cx.destWaits x && cx.plain [indexReg vi] && !cx.pendingOp fun k => k.writesAcc (bankNumber y)) <|
      (cx.boundAcc (bankNumber y)).bind fun e =>
        let k := (e.1.core cx.c).accs.atD e.2 {}
        gives (cx.write e.1 x (fun l => (SMap.atD k.words (cx.accIndex vi l) 0).setWidth 64) fun _ => k.pois)
  | .tinfo x y => need (!cx.destWaits x) <| gives (cx.write cx.s x (fun _ => match y with
      | .t _ => ((cx.tile? y).map Claim.info).getD 0
      | .a n => cx.accInfo n.val
      | _ => (cx.x.batch ++ cx.lastDone : BitVec 64)) noOrigin)
  | _ => none

/-! The handler's instructions (R363-R377). -/

/-- A control register written from an operand (R371). -/
def Ctx.ctlEffect (cx : Ctx) (d : Operand) (r : Option Ctl) : Effect :=
  need (cx.plain [d]) <| r.bind fun r => gives (cx.s.ctlWrite cx.c cx.t r (cx.val d 0))

/-- The oldest record of a fault queue taken (R373). -/
def Ctx.popEffect (cx : Ctx) (d : Operand) (p : Nat) : Effect :=
  let q := cx.s.part p
  match cx.s.rangeParts { core := cx.c, part := p, sys := true } .load (chunksOf (q.fqbase.toNat + 64 * (q.fqhead.toNat % 4096)) 64) with
  | .error _ => none
  | .ok ps => need (cx.s.badPart ps).isNone <|
    gives (cx.writeP15 (cx.writeRecord (cx.s.onPart p fun q => { q with fqhead := q.fqhead + 1 }).retryAll d (leNat (cx.s.readParts ps)))
      fun _ => true)

/-- A team saved into its area, once nothing keeps it on its core (R376, R385). -/
def Ctx.saveTeamEffect (cx : Ctx) (w : Nat) : Effect :=
  let c := bits w 5 8
  let t := bits w 0 5
  (cx.s.team? c t).bind fun x => need (!x.inSys && !cx.s.savedByOther x cx.agent && cx.s.saveReady c t x) <|
    let bs := (cx.s.areaOf c t x).encode
    match cx.s.rangeParts cx.who .store (chunksOf (areaAddr w) bs.length) with
    | .error _ => none
    | .ok ps => gives (cx.writeP15 (((cx.s.storeParts cx.who ps bs).removeTeam c t).drainCore c) fun _ => true)

/-- A partition saved into its area, once all its teams and its Caller have stopped (R308, R376). -/
def Ctx.savePartEffect (cx : Ctx) (w : Nat) : Effect :=
  let p := bits w 0 3
  let s := cx.s.preempt p cx.agent
  need ((match (cx.s.part p).saver with
      | some n => n == cx.agent
      | none => true) && !(cx.s.loads.any fun e => e.1 == p) &&
      (s.teamsOf p).all (fun e => e.2.2.saver == some cx.agent && s.saveReady e.1 e.2.1 e.2.2) && (s.part p).callerSaved) <|
    let bs := s.partArea p
    match s.rangeParts cx.who .store (chunksOf (areaAddr w) bs.length) with
    | .error _ => none
    | .ok ps => gives (cx.writeP15 ((s.storeParts cx.who ps bs).removePart p) fun _ => true)

/-- The bytes of an area, where they translate and none of them is poisoned. -/
def Ctx.areaBytes (cx : Ctx) (a n : Nat) : Option (List Byte) :=
  match cx.s.rangeParts cx.who .load (chunksOf a n) with
  | .error _ => none
  | .ok ps => need (cx.s.badPart ps).isNone <| some (cx.s.readParts ps)

/-- A team restored from its area (R376, R396, R397). -/
def Ctx.loadTeamEffect (cx : Ctx) (w : Nat) : Effect :=
  let a := areaAddr w
  let c := bits w 5 8
  (cx.areaBytes a 64).bind fun h =>
    let size := bits (leNat h) 448 64
    need (decide (64 ≤ size) && decide (size ≤ areaLimit)) <| (cx.areaBytes (a + 64) (size - 64)).bind fun bs =>
      (Area.decode (leNat h) bs).bind fun r =>
        let cx : Ctx := { cx with s := cx.s.walkArea c r }
        need (!cx.targetBusy (8 + a) r.part && !cx.s.areaRefused r c) <|
        (cx.s.areaEntry r).bind fun e => (cx.s.placeArea c r e).bind fun s => gives (cx.writeP15 (s.endLoad (8 + a)) fun _ => true)

/-- A partition restored from its area (R308, R376, R398). -/
def Ctx.loadPartEffect (cx : Ctx) (w : Nat) : Effect :=
  let a := areaAddr w
  let p := bits w 0 3
  need (!cx.targetBusy p p) <| (cx.areaBytes a 64).bind fun h =>
    let v := leNat h
    let size := bits v 448 64
    need (decide (64 ≤ size) && decide (size ≤ 2 ^ 37) && bits v 445 3 == p) <| (cx.areaBytes (a + 64) (size - 64)).bind fun bs =>
      (cutAreas (bits v 432 13) 64 bs).bind fun e => (PartRest.read p v cx.s.clock e.2).bind fun r =>
        let cx : Ctx := { cx with s := e.1.foldl (fun s a => s.walkArea a.core a) cx.s }
        need (!e.1.any fun z => z.part != p || cx.s.areaRefused z z.core) <|
          (cx.s.placePart p e.1 r).bind fun s => gives (cx.writeP15 (s.endLoad p) fun _ => true)

/-- What the handler's instructions leave. -/
def systemEffect (cx : Ctx) : Instr → Effect
  | .ctlR d n => gives (cx.write cx.s d (fun _ => ((ctlOf n.toNat).map (cx.s.ctlRead cx.c cx.x)).getD 0) noOrigin)
  | .ctlW d n => cx.ctlEffect d (ctlOf n.toNat)
  | .devid d => cx.ctlEffect d (some .devid)
  | .fqhead d p => cx.ctlEffect d (some (.fqhead p.toNat))
  | .fqbase d p => cx.ctlEffect d (some (.fqbase p.toNat))
  | .tlbInv d k p => need (cx.plain (if k.toNat < 2 then [d] else []) && !cx.storesLeft && !cx.s.invHeld k.toNat p.toNat (cx.val d 0).toNat) <|
    gives { cx.s with tlb := cx.s.tlb.filter fun e => !e.removed k.toNat p.toNat (cx.val d 0).toNat }
  | .faultPop d p =>
    if (cx.s.part p.toNat).fqCount = 0 then gives (cx.writeP15 (cx.writeRecord cx.s d 0) fun _ => false) else cx.popEffect d p.toNat
  | .faultPopW d p => need ((cx.s.part p.toNat).fqCount != 0) <| cx.popEffect d p.toNat
  | .faultDone d ans => need (cx.plain [d, wBefore d] && !cx.storesLeft) <|
    let r := cx.s.answerFault (cx.val (wBefore d) 0).toNat (cx.val d 0).toNat ans
    gives (cx.writeP15 r.1 fun _ => r.2)
  | .teamPark d => need (cx.plain [d]) <|
    let r := cx.s.setParked (cx.val d 0) true
    gives (cx.writeP15 r.1 fun _ => r.2)
  | .teamWake d => need (cx.plain [d]) <|
    let r := cx.s.setParked (cx.val d 0) false
    gives (cx.writeP15 r.1 fun _ => r.2)
  | .ctxSave d k =>
    let w := (cx.val d 0).toNat
    need (cx.plain [d] && !areaWordBad w k) <| if k then cx.savePartEffect w else cx.saveTeamEffect w
  | .ctxLoad d k =>
    let w := (cx.val d 0).toNat
    need (cx.plain [d] && !areaWordBad w k) <| if k then cx.loadPartEffect w else cx.loadTeamEffect w
  | .halt => gives { cx.s with power := .halted }
  | _ => none

/-- What an instruction of these families leaves. -/
def effectOf (cx : Ctx) (i : Instr) : Effect :=
  ((laneEffect cx i).or (memoryEffect cx i)).or (((syncEffect cx i).or (itemEffect cx i)).or
    ((engineEffect cx i).or ((tensorEffect cx i).or (systemEffect cx i))))

/-! Instructions that place their splinter themselves (R205-R211, R238, R370, R183). -/

/-- A jump to a computed target (R206). -/
def Ctx.jumped (cx : Ctx) (passes : Nat) (d a : Operand) : Option State :=
  let v := (cx.read64 a).at_
  need (!cx.destWaits64 d && cx.plain64 [a] && maskWhere cx.act (fun l => (v l).extractLsb' 0 2 != 0) == 0) <|
    let parts := (cx.p.mask &&& ~~~cx.act, cx.onward) :: (targetGroups cx.act v).map fun g => (g.1, cx.at_ g.2)
    let went := cx.act &&& cx.placed parts
    let s := if went = 0 then cx.s else Ctx.write64 { cx with act := went } cx.s d (fun _ => cx.link) noOrigin
    need (went == cx.act || !Ctx.destWaits64 { cx with act := went } d) <|
      some (cx.divide s passes parts)

/-- A branch: the taken lanes go to the target, all others of the splinter to the next word (R205). -/
def Ctx.branched (cx : Ctx) (s : State) (cond : Operand) (off : BitVec 18) : State :=
  cx.divide s cx.wordPasses
    [(cx.holds cond, cx.at_ (cx.target off)), (cx.p.mask &&& ~~~cx.holds cond, cx.onward)]

/-- A change of the team's joins, after the splinter has gone on (R209). -/
def Ctx.rejoined (cx : Ctx) (f : Team → Team) : Option State :=
  some ((cx.retire cx.s cx.wordPasses).onTeam cx.c cx.t f)

/-- The state after an instruction that places its splinter itself. -/
def movedBy (cx : Ctx) : Instr → Option State
  | .br cond off => some (cx.branched cx.s cond off)
  | .call cond off =>
    need (cx.holds cond == 0 || !Ctx.destWaits { cx with act := cx.holds cond } (.w 62)) <|
      some (cx.branched (if cx.holds cond = 0 then cx.s else cx.s.writeU cx.c cx.t 62 (cx.base + 4) none) cond off)
  | .brx a => cx.jumped cx.wordPasses .zero a
  | .ret a => cx.jumped cx.wordPasses .zero a
  | .callx d a => cx.jumped (cx.passesFor [d, a]) d a
  | .joinSet d a => cx.rejoined fun x =>
    { (x.freeJoin (joinOf d)) with joins := SMap.store 0 (x.freeJoin (joinOf d)).joins (joinOf d) (cx.holds a) }
  | .joinAdd d a => cx.rejoined fun x =>
    { x with joins := SMap.store 0 x.joins (joinOf d) (SMap.atD x.joins (joinOf d) 0 ||| cx.holds a) }
  | .joinClr d => cx.rejoined fun x => x.freeJoin (joinOf d)
  | .joinRem d a => (cx.rejoined fun x =>
    { x with joins := SMap.store 0 x.joins (joinOf d) (SMap.atD x.joins (joinOf d) 0 &&& ~~~cx.holds a) }).map fun s =>
      s.settleJoins cx.c cx.t
  | .joinArr cond off =>
    let label := cx.target off
    let e := SMap.atD cx.x.joins (joinOf cond) 0
    let waits : Splinter := { cx.p with st := .joinWait (joinOf cond) label, armed := none, idle := 0, due := false }
    some ((cx.divide cx.s cx.wordPasses
      [(cx.act &&& e, waits), (cx.p.mask &&& ~~~cx.act, cx.onward), (cx.act &&& ~~~e, cx.at_ label)]).settleJoins cx.c cx.t)
  | .exitLanes =>
    if cx.sys then some (cx.s.leaveTrap cx.c cx.t)
    else some ((cx.retire cx.s cx.wordPasses).leave cx.c cx.t cx.act)
  | .flowSet a b =>
    let k := (cx.val b 0).toNat
    need (!cx.sys && cx.p.st != .waiting .tokenDone && cx.unmarked 0 && cx.plain [a, b] && (b == .zero || decide (k < 3))) <|
      (cx.relabelled a b).bind fun s => (s.team? cx.c cx.t).bind fun x =>
          let waits := x.items.filter fun i => !i.ended && i.wtok && i.mask &&& cx.act != 0
          need (!waits.isEmpty) <| some (s.setTeam cx.c cx.t ((x.idleOthers cx.n cx.wordPasses).divideTokens cx.n
            { cx.p with idle := 0, due := false } cx.onward (waits.map fun i => i.mask &&& cx.act)))
  | .sret => some (cx.s.leaveTrap cx.c cx.t)
  | .dictionaryWord hi lo =>
    let pair := lo != 1023
    let word (i : BitVec 10) (hiOfTwo : Bool) : Option (BitVec 32) := match (cx.dictEntry i).2 with
      | .word w => need (entryWordOk w hiOfTwo) <| some w
      | _ => none
    let arm (w : BitVec 32) : State := cx.s.onTeam cx.c cx.t fun x => match x.sys with
      | some y => { x with sys := some { y with armed := some (w, pair) } }
      | none => { x with splinters := modAt (fun p => { p with armed := some (w, pair) }) x.splinters cx.n }
    need (cx.x.entry.dict != 0 && !(cx.p.half && !pair)) <|
      (word hi pair).bind fun h => if pair then (word lo false).bind fun l => some (arm (if cx.p.half then l else h)) else some (arm h)
  | _ => none

end Sys2Proof.Machine
end

