-- ==== Sys2Proof/Machine/Happenings.lean ====
section
/-!
DEFINITION. What the events leave when their conditions hold: of boot and power (R399-R403, R408, R409), the scheduler (R38, R47, R48,
R67, R68, R88, R138, R140, R145, R355, R405), errors (R378, R380), the engines (R271, R289-R291, R298-R308, R333, R337) and the fabric
(R313-R321, R327-R332). None stands for a case in which the event cannot happen, or turns something away.
-/

namespace Sys2Proof.Machine

/-! Boot, power and management. -/

/-- The image that a ROM starts: A where it verifies, else B (R400). -/
def romImage : Option Nat := if flashImageOk 0 then some 0 else if flashImageOk 0x800000 then some 0x800000 else none

/-- What events of boot, power, temperature and management leave. -/
def bootEvent (s : State) : Instr → Option State
  | .powerOn => need (s.power == .off) <| some s.powerOnReset
  | .romVerify => need (s.power == .rom) <| some (match romImage with
      | some b => s.startStageOne b
      | none => { s with power := .halted })
  | .firmwareDownload image => need (s.power == .stage1 && s.retryAt.isNone && (s.ports.atD 0 {}).up && s.firmwareOk image) <| some (s.startFirmware image)
  | .downloadRetry => s.retryAt.bind fun t =>
    need (s.power == .stage1 && s.elapsed t (s.retry * 1000 * cyclesPerMs)) <| some { s with retryAt := none }
  | .resetPin => some s.held
  | .powerRemoved => some s.held
  | .thermalWarning n => need s.isUp <|
    some ((s.onSector n fun k => { k with hot := true }).raise 0x000A 0 none 0 (BitVec.ofNat 32 n))
  | .thermalTrip n => need s.isUp <| some { s.raise 0x000B 0 none 0 (BitVec.ofNat 32 n) with power := .halted }
  | .attestationQuote nonce => need (s.manages && nonce.length == 64) <|
    some (s.reply (.quote (Config.mldsaSign (Config.sha3 (nonce ++ (s.attLog.map LogEntry.encode).flatten)))))
  | .managementRead what => need s.manages <| some (s.reply (s.answerOf what))
  | _ => none

/-! Scheduling, faults and errors. -/

/-- A thief's Cut-in request, its victim and the items of the victim's answer (R145). -/
def State.cutsIn (s : State) (c : Nat) : State :=
  let v := lfsrNext c 65536 ((s.core c).lfsrX ^^^ lfsrSeed c)
  let took := s.takeFor c [] (s.core (v.toNat % 256)).items.reverse
  (s.onCore (v.toNat % 256) fun k => { k with items := dropItems k.items took }).onCore c fun k =>
    { k with lfsrX := v ^^^ lfsrSeed c, cutIn := some { victim := v.toNat % 256, items := took } }

/-- A trap entry that waited for memory, or the entry for a pending condition (R354, R355). -/
def State.trapEvent (s : State) (c t : Nat) : Option State :=
  (s.team? c t).bind fun x => need (!x.inSys) <|
    if x.trap.isSome then need (s.settled c t) <| some (s.enterTrap c t)
    else need (s.issues c && x.open_ && x.saver.isNone && decide (t < 32)) <| some (s.takePending c t)

/-- A line's bytes lost, the line poisoned and a report raised (R378, R380). -/
def State.lineLost (s : State) (l : Nat) : State :=
  (State.poisonLine { s with
    mem := storeBytes s.mem (64 * l) ((List.range 64).map fun k => Config.lostByte (s.fresh + k)), fresh := s.fresh + 64 } l).raise
      0x0009 0 none (BitVec.ofNat 64 (64 * l)) 0

/-- What events of the scheduler, and errors, leave. -/
def coreEvent (s : State) : Instr → Option State
  | .energyWindow _ =>
    need (s.power != .off && s.power != .rom && s.clock.toNat % cyclesPerMs == 0 && s.window != some (s.clock.toNat / cyclesPerMs)) <|
      some s.openWindows
  | .teamFormation c => need s.runs <| some (s.form c)
  | .orderedRelease p label => (s.nextRelease p label).map s.performRelease
  | .cutIn c => need (s.runs && s.idleCore c) <| some (s.cutsIn c)
  | .cutInAnswer c => (s.core c).cutIn.map fun a =>
    let s := s.onCore c fun k => { k with cutIn := none, cutAt := some s.clock, items := k.items ++ a.items }
    if s.runs then a.items.foldl (fun s _ => s.form c) s else s
  | .teamStarvation c q => some (s.markTeams c q)
  | .splinterStarvation c t => some (s.onTeam c t Team.markSplinters)
  | .heldLanesRetry c t => (s.team? c t).bind fun x => x.heldReady.map fun n =>
    s.setTeam c t { x with splinters := modAt x.retryHeld x.splinters n }
  | .joinFallback c t => (s.team? c t).bind fun x => x.fallback.map fun j => s.setTeam c t (x.releaseJoin j)
  | .symbolResolution c n => ((s.core c).syms.at? n).bind fun y => need (y.lanes &&& ~~~y.arrived == 0) <| some (s.resolveSym c n)
  | .faultRecordRetry c => some (s.retryRecords c)
  | .trapEntry c t => s.trapEvent c t
  | .uncorrectableError (.line pa) => need (s.isUp && paExists pa) <| some (s.lineLost (pa / 64))
  | .uncorrectableError (.team c t) => need (s.isUp && s.power != .halted) <| (s.team? c t).map fun x => if x.inSys then s.warmRestart else s.terminate x.part
  | .softError c n => need s.isUp <| some (State.raise { s with softErrors := s.softErrors + 1 } 0x0008 c none 0 (BitVec.ofNat 32 n))
  | _ => none

/-! Engines. -/

/-- A copy command that runs to its end or to a page that stalls it (R289-R291). -/
def State.runCopy (s : State) (n i : Nat) (x : CopyCmd) : State :=
  if x.sg then s.runChain n i x 65538
  else match s.transfer x.who x.stall.badPages x.src.toNat x.dst.toNat x.len with
    | .error (a, k, t) => s.copyTrouble n i x a k t
    | .ok (s, e) => s.endCopy n i x e

/-- A message of the pull protocol as the device takes it in: from the fabric as it stands, over Ultra Ethernet from a port that is configured,
with the index of the endpoint entry that it matches (R12, R323). -/
def State.taken (s : State) (p : Nat) : Option UeFrom → Option (State × Option Nat)
  | none => some (s, none)
  | some u => (s.endpointFrom p u).bind fun i =>
    need ((s.ports.atD u.port {}).up || ((s.endpoint? p i).map fun e => e.port) == some u.port) <|
      some ((s.arrivedAt u).walks (deviceWho 0 p) .load (s.part p).ept.toNat (32 * (i + 1)), some i)

/-- The same of a message whose transfer goes over Ultra Ethernet, or over the fabric. -/
def State.takenBy (s : State) (p : Nat) (ue : Bool) (u : Option UeFrom) : Option State :=
  (s.taken p u).bind fun e => need (e.2.isSome == ue) <| some e.1

/-- A sender that is under way (R306). -/
def Handle.underWay (x : Handle) : Bool := x.st == .draining && x.sst == 1

/-- What events of the engines leave. -/
def engineEvent (s : State) : Instr → Option State
  | .copyCompletion n i => ((s.sector n).copies[i]?).bind fun x => need (!x.stall.waiting && decide (i < 6)) <| some (s.runCopy n i x)
  | .tensorOperationCompletion c i =>
    let q := (s.core c).tq
    (q[i]?).bind fun o => need (!o.stall.waiting && !(q.take i).any fun p => p.slot == o.slot) <| some ((s.runOp c i o).sweep c o.slot)
  | .pullAnnouncement a => need s.intakes <| (s.taken a.part a.ue).bind fun e => need (e.1.accepts a) <|
    some (e.1.announce a (e.2.getD a.sdev))
  | .callerGrant p => need (s.intakes && !(s.part p).preempted) <| some (s.grantToken p)
  | .pullToken k =>
    let x := s.handle k.core k.handle
    need (s.intakes && x.underWay && decide (k.off + k.len ≤ x.len.toNat)) <| (s.takenBy x.part (x.sending.path == 2) k.ue).map fun s =>
      ((s.setHandle k.core k.handle { x with
        sending := { x.sending with since := s.clock, todo := x.sending.todo ++ (if k.len = 0 then [] else [(k.off, k.len)]) } }).pumpAll
          k.core k.handle)
  | .pullBeat b => (s.request? b.part b.req).bind fun r => need s.intakes <| (s.takenBy b.part r.ue b.ue).map fun s =>
    (s.beatArrives b.part r { off := b.off, data := b.data, status := b.status })
  | .pullNotice c h n =>
    let x := s.handle c h
    need (s.intakes && x.underWay) <| (s.takenBy x.part (x.sending.path == 2) n.ue).map fun s =>
      (s.endSend c h (if n.delivered then 2 else 3))
  | .tokenExpiry p q slot => (s.request? p q).bind fun r => need (s.expired r slot) <|
    some ((s.onRequest p q fun r => { r with slots := modAt TokenSlot.expire r.slots slot }).reenter p q)
  | .orphan p q => (s.request? p q).bind fun r =>
    need (r.ticking && !(s.part p).preempted && decide (cyclesPerMs ≤ r.clockAt s.clock)) <|
      some ((s.noteErr r.dcore r.dh errOrphan).completePull p r)
  | .abandon c h =>
    let x := s.handle c h
    need (x.underWay && s.elapsed x.sending.since (2 * cyclesPerMs)) <| some (s.endSend c h 4)
  | .callerSave p =>
    let q := s.part p
    need (q.preempted && !q.callerSaved && q.requests.all fun r => !(r.slots.any TokenSlot.isOut)) <|
      some (s.onPart p fun q => { q with requests := [], savedRequests := byLevel q.requests, callerSaved := true })
  | .samplerJobStart n => (s.sector n).jobs.head?.bind fun x => need (!x.running) <|
    some (s.onSector n fun k => { k with jobs := { x with running := true } :: (s.sector n).jobs.tail })
  | .samplerJobCompletion n => (s.sector n).jobs.head?.bind fun x => need (x.running && !x.stall.waiting) <| some (s.runJob n x)
  | _ => none

/-! The fabric. -/

/-- A flit that arrives in its turn and opens under the link's key: its payload (R314, R316). -/
def State.opened (s : State) (n : Nat) (f : Flit) : Option (List Byte) :=
  let l := s.link n
  need (s.intakes && l.up && f.counter == l.rx) <|
    Config.gcmOpen l.rxKey (nonceOf l.rxLid f.counter) f.header f.payload f.gcm

/-- What events of the fabric leave. -/
def fabricEvent (s : State) : Instr → Option State
  | .peerRequest m => need s.intakes <| some (s.servePeer m)
  | .readResponse tag vals => (s.tx? tag).bind fun x =>
    need (s.intakes && x.ofLanes && x.acc.op.request == .read) <| some (s.answerTx x vals)
  | .ack tag olds => (s.tx? tag).bind fun x => need s.intakes <| match x.relay with
    | some key => some (s.memberAnswer x key true).finishMcasts
    | none =>
      if x.release != 0 then some (s.lineAnswered x true)
      else need (x.ofLanes && x.acc.op.request != .read) <| some (s.answerTx x olds)
  | .nack m => (s.tx? m.tag).bind fun x => need s.intakes <| match x.relay with
    | some key => some (s.memberAnswer x key false).finishMcasts
    | none =>
      if x.release != 0 then some (s.lineAnswered x false)
      else need x.ofLanes <| some (if x.lanes = [] then s.endTx x else s.peerAnswers x [] [] (x.refused m.lanes) [])
  | .peerTimeout tag => (s.tx? tag).bind fun x => need (x.ofLanes && s.elapsed x.since cyclesPerMs) <|
    some (if x.release != 0 then s.lineAnswered x false else s.refuseTx x)
  | .multicastWrite m => need s.intakes <| some (s.multicast m)
  | .multicastAck tag col b => need s.intakes <| some (s.joinColumn s.devid.toNat 0 tag col b).finishMcasts
  | .multicastTimeout tag => (s.tx? tag).bind fun x => need (s.elapsed x.since cyclesPerMs) <| match x.relay with
    | some key => some (s.memberAnswer x key false).finishMcasts
    | none => need (x.acc.op == .mcst) <| some (s.expireMcast x)
  | .linkControl n m => need (s.intakes && (s.link n).up) <|
    let s := s.setLink n ((s.link n).noted m)
    if m.replay then
      some (((s.setLink n { s.link n with unacked := (s.link n).unacked.filter fun e => decide (m.counter ≤ e.1) }).control n
        { counter := (s.link n).tx + 1, replay := false }).resend n)
    else if m.ack then some (s.setLink n { s.link n with unacked := (s.link n).unacked.filter fun e => decide (m.counter ≤ e.1) })
    else need ((s.link n).fails != 0 && decide ((s.link n).rx ≤ m.counter)) <| some (s.setLink n { s.link n with rx := m.counter })
  | .linkDown n => need (s.intakes && (s.link n).up) <|
    some ((s.setLink n { s.link n with up := false, keying := none }).raise 0x0003 0 none 0 (BitVec.ofNat 32 n))
  | .linkTraining t => (portOf t).bind fun port => need (s.intakes && s.trains t port) <| some (s.train t port)
  | .transitFlit n f => (s.opened n f).bind fun plain => need (!flitBad f) <|
    some ((s.takeFlit n f).passOn n f plain)
  | _ => none

/-- What an event leaves. -/
def eventOf (s : State) (i : Instr) : Option State :=
  ((bootEvent s i).or (coreEvent s i)).or ((engineEvent s i).or (fabricEvent s i))

end Sys2Proof.Machine
end

