-- ==== Sys2Proof/Safety.lean ====
section
/-!
DEFINITION. The terms that statements about the machine use: sound states, what an instruction leaves as it was, and how an instruction
that nothing holds up completes.
-/

namespace Sys2Proof.Machine

/-! Sound states. -/

/-- Memory in its canonical form: addresses strictly rising, and no entry that equals what an unlisted address reads as. -/
def Memory.wf (m : List Host.Cell) : Bool := SMap.canon 0 m

/-- A state that a run may reach: its memory is in canonical form. -/
def State.sound (s : State) : Prop := Memory.wf s.mem = true

/-! Frames. -/

/-- Everything outside the cores as it was: memory and its poison, the clock, the device's registers, the sectors, the partitions, the
counters, the heap, the flows, the transactions, the messages, the links and the cached translations. A trap entry may keep the answers of
transactions out of the read cache (R109, R110). -/
structure State.SameDevice (s t : State) : Prop where
  mem : t.mem = s.mem
  poisoned : t.poisoned = s.poisoned
  clock : t.clock = s.clock
  power : t.power = s.power
  reports : t.reports = s.reports
  sysroot : t.sysroot = s.sysroot
  sysent : t.sysent = s.sysent
  tvec : t.tvec = s.tvec
  ftag : t.ftag = s.ftag
  devid : t.devid = s.devid
  sectors : t.sectors = s.sectors
  devBars : t.devBars = s.devBars
  parts : t.parts = s.parts
  counters : t.counters = s.counters
  heap : t.heap = s.heap
  flows : t.flows = s.flows
  groups : t.groups = s.groups
  txs : t.txs.map (fun x => { x with fill := false }) = s.txs.map fun x => { x with fill := false }
  out : t.out = s.out
  toSelf : t.toSelf = s.toSelf
  links : t.links = s.links
  tlb : t.tlb = s.tlb

/-- Everything of the other teams and of their core as it was, but for the sticky flags and the shared registers of the core. A trap entry
may discard lines of the core's read cache (R109, R110). -/
structure State.SameOthers (s t : State) (c u : Nat) : Prop where
  cores : ∀ d, d ≠ c → t.core d = s.core d
  teams : ∀ v, v ≠ u → t.team? c v = s.team? c v
  syms : (t.core c).syms = (s.core c).syms
  fbuf : (t.core c).fbuf = (s.core c).fbuf
  handles : (t.core c).handles = (s.core c).handles
  locks : (t.core c).locks = (s.core c).locks
  osb : (t.core c).osb = (s.core c).osb
  bars : (t.core c).bars = (s.core c).bars
  accs : (t.core c).accs = (s.core c).accs
  tq : (t.core c).tq = (s.core c).tq
  items : (t.core c).items = (s.core c).items
  arithen : (t.core c).arithen = (s.core c).arithen
  quota : (t.core c).quota = (s.core c).quota
  cache : ∀ e ∈ (t.core c).cache, e ∈ (s.core c).cache

/-- A core's read cache, and what fills it, as it was. -/
structure State.SameCache (s t : State) (c : Nat) : Prop where
  cache : (t.core c).cache = (s.core c).cache
  txs : t.txs = s.txs

/-- A vector register that a destination names, or the second one of a pair. -/
def writesV (d : Operand) (wide : Bool) (n : Nat) : Bool :=
  match d with
  | .v m => n == m.val || (wide && n == (m + 1).val)
  | _ => false

/-- A uniform register that a destination names. -/
def writesW (d : Operand) (n : Nat) : Bool :=
  match d with
  | .w m => n == m.val
  | _ => false

/-- A predicate register that a destination names. -/
def writesP (d : Operand) (n : Nat) : Bool :=
  match d with
  | .p m => n == m.val
  | _ => false

/-- What a team keeps when an instruction writes one destination: its other registers, its system bank and saved registers, its items,
tiles, accumulators and batches, its waiting accesses and its pending conditions. -/
structure Team.KeepsRegisters (x y : Team) (d : Operand) (wide : Bool) : Prop where
  vregs : ∀ n, writesV d wide n = false → y.vregs.atD n {} = x.vregs.atD n {}
  uregs : ∀ n, writesW d n = false → y.uregs.atD n {} = x.uregs.atD n {}
  preds : ∀ n, writesP d n = false → y.preds.atD n 0 = x.preds.atD n 0
  bank : ∀ z, x.sys = some z → ∃ u, y.sys = some u ∧ (∀ n, writesW d n = false → u.regs.atD n {} = z.regs.atD n {}) ∧
    (∀ n, n < 16 → writesP d n = false → u.preds.getLsbD n = z.preds.getLsbD n) ∧ u.epc = z.epc ∧ u.estat = z.estat ∧ u.eaddr = z.eaddr ∧
    u.eiaddr = z.eiaddr ∧ u.actp = z.actp ∧ u.formed = z.formed
  part : y.part = x.part
  entry : y.entry = x.entry
  items : y.items = x.items
  tiles : y.tiles = x.tiles
  accs : y.accs = x.accs
  batch : y.batch = x.batch
  queue : y.queue = x.queue
  pend : y.pend = x.pend

/-- The same, with its joins, its barriers and its place in the scheduler. -/
structure Team.Keeps (x y : Team) (d : Operand) (wide : Bool) : Prop extends Team.KeepsRegisters x y d wide where
  joins : y.joins = x.joins
  barGen : y.barGen = x.barGen
  stage : y.stage = x.stage
  quarter : y.quarter = x.quarter
  age : y.age = x.age

/-- The register that a branch, a call, a jump or a join instruction writes, and whether it is a pair (R205-R211). -/
def controlDest : Instr → Option (Operand × Bool)
  | .br _ _ | .brx _ | .ret _ | .joinArr _ _ | .joinSet _ _ | .joinAdd _ _ | .joinClr _ | .joinRem _ _ => some (.zero, false)
  | .call _ _ => some (.w 62, false)
  | .callx d _ => some (d, true)
  | _ => none

/-! Instructions that nothing holds up. -/

/-- Integers at the width of an instruction (R188). -/
def uintOf (wide : Bool) (v : W64) : Nat := if wide then v.toNat else v.toNat % 2 ^ 32

/-- Signed integers at the width of an instruction (R188). -/
def sintOf (wide : Bool) (v : W64) : Int := if wide then v.toInt else (v.setWidth 32).toInt

/-- The width of an instruction (R188). -/
def widthOf (wide : Bool) : Nat := if wide then 64 else 32

/-- An instruction at issue whose checks pass, whose operands are known and free of poison, and whose destination can be written. -/
structure Clear (s : State) (i : Instr) (cx : Ctx) (d : Operand) (srcs : List Operand) : Prop where
  ready : s.ready? i = some cx
  plain : cx.plain srcs = true
  free : cx.destWaits d = false

/-- The instruction completes: it writes a value to each active lane of its destination, without poison, sets some flags and goes on. -/
def Completes (s : State) (i : Instr) (cx : Ctx) (d : Operand) (f : Nat → W64) (g : Nat → FlagSet) : Prop :=
  exec i s = .next (cx.finish i (cx.write cx.s d f noOrigin) g)

/-! Forms over a symbol (R64, R67). -/

/-- A form over a symbol: its scale, the lanes on which it is its offset alone, and its offset and its poison on each lane. -/
structure Linear where
  sym : Nat
  scale : W64
  alone : Mask := 0
  off : Nat → W64
  pois : Nat → Option Origin

/-- The form that a symbolic register holds, of either kind. -/
def Ctx.held (cx : Ctx) (o : Operand) : Linear :=
  match o with
  | .v n => let r := cx.vreg n.val
    { sym := r.sym, scale := r.scale.setWidth 64, alone := r.alone, off := cx.val o, pois := (cx.read o).pois }
  | .w n => let r := cx.x.ureg n.val
    { sym := r.sym.getD 0, scale := r.scale, off := cx.val o, pois := (cx.read o).pois }
  | _ => { sym := 0, scale := 0, off := cx.val o, pois := (cx.read o).pois }

/-- The integer form of an operand; half of a pair has none that an operation but `mov` keeps (R64). -/
def Ctx.integerForm (cx : Ctx) (o : Operand) : Option Linear :=
  let kept : Bool := match o with
    | .v n => let r := cx.vreg n.val; r.st == .symbolic && !r.flt && !cx.halfOfPair r
    | .w n => let r := cx.x.ureg n.val; r.sym.isSome && !r.flt && !r.half
    | _ => false
  if kept then some (cx.held o) else none

/-- The float form of an operand: its own, or 1.0 and 0.0 of the integer form (1, 0) at its first fold (R67, R249). -/
def Ctx.floatingForm (cx : Ctx) (o : Operand) : Option Linear :=
  let own : Bool := match o with
    | .v n => let r := cx.vreg n.val; r.st == .symbolic && r.flt
    | .w n => let r := cx.x.ureg n.val; r.sym.isSome && r.flt
    | _ => false
  let first : Bool := match o with
    | .v n => (lanesOf cx.x.live).all fun l => (cx.vreg n.val).at l == 0
    | _ => cx.val o 0 == 0
  if own then some (cx.held o)
  else (cx.integerForm o).bind fun g =>
    if g.scale == 1 && first then some { g with scale := 0x3F800000, off := fun _ => 0 } else none

/-- Whether a destination takes a form: a vector register that is not shared in a full write, a uniform one that a write does not wait for. -/
def Ctx.takesForm (cx : Ctx) (d : Operand) : Bool :=
  !cx.destWaits d && (match d with
    | .v n => cx.x.fullWrite n.val cx.act && !cx.x.entry.shared n.val
    | _ => true)

/-- A destination that holds a form on the active lanes; an integer form of scale 0 is known at once (R64). -/
def Ctx.putForm (cx : Ctx) (flt : Bool) (d : Operand) (g : Linear) : State :=
  match d with
  | .v n =>
    if !flt && g.scale.setWidth 32 == 0#32 then cx.write cx.s d g.off g.pois
    else cx.s.setVreg cx.c cx.t n.val
      { st := .symbolic, sym := g.sym, scale := g.scale.setWidth 32, flt := flt, alone := g.alone
        lanes := laneTable cx.act fun l => (g.off l).setWidth 32, pois := originTable cx.act g.pois }
  | .w n =>
    if !flt && g.scale == 0 then cx.write cx.s d g.off g.pois
    else cx.s.onTeam cx.c cx.t fun x => x.setUreg n.val
      { val := g.off (lowLane cx.act), sym := some g.sym, scale := if flt then (g.scale.setWidth 32).setWidth 64 else g.scale, flt := flt, pois := g.pois (lowLane cx.act) }
  | _ => cx.s

/-- An instruction that keeps an operand symbolic: it leaves a form in its destination, and sets no flag. -/
def Keeps (s : State) (i : Instr) (cx : Ctx) (flt : Bool) (d : Operand) (g : Linear) : Prop :=
  exec i s = .next (cx.finish i (cx.putForm flt d g) 0)

/-- Whether one of two sources folds into a float form (R249). -/
def Ctx.folds (cx : Ctx) (uniform : Bool) (d a b : Operand) : Bool :=
  let (o, k) := if cx.symbolic a then (a, b) else (b, a)
  cx.mods.sym && cx.mods.rm == .rn && cx.foldsTo d && cx.symbolic a != cx.symbolic b && (!uniform || uniformOp k) && (cx.floatForm o).isSome

/-- Whether an instruction folds instead of waiting (R67, R249). -/
def Ctx.foldsAt (cx : Ctx) : Instr → Bool
  | .fadd d a b | .fsub d a b => cx.folds false d a b
  | .fmul d a b => cx.folds true d a b
  | _ => false

/-- The context of the same team in a later state. -/
def Ctx.after (cx : Ctx) (t : State) : Ctx := { cx with s := t, x := (t.team? cx.c cx.t).getD cx.x }

/-- Whether an active lane of an access stores to a physical address: its store is not held back for a release (R39), and its address
translates to that byte. -/
def State.storesTo (s : State) (w : Who) (a : Access) (pa : Nat) : Bool :=
  (lanesOf a.lanes).any fun l => (a.hold.at? l).isNone && (match (s.fate w a l).1 with
    | .memory ps => ps.any fun p => decide (p.1 ≤ pa) && decide (pa < p.1 + p.2)
    | _ => false)

/-- Every lane of an access reaches memory or a peer. -/
def State.reaches (s : State) (w : Who) (a : Access) : Bool :=
  (lanesOf a.lanes).all fun l => (s.fate w a l).2.isEmpty && (match (s.fate w a l).1 with
    | .memory _ | .remote _ _ _ => true
    | _ => false)

/-- An operation that changes memory: a store, a zeroed line, or an atomic. -/
def AccessOp.changes : AccessOp → Bool
  | .store _ | .zeroLine | .atom _ _ => true
  | _ => false

/-- The instructions of those majors that act for the partition of ACTP in system mode (R361, log entry 35). -/
def actsForActp : Instr → Bool
  | .flowSet _ _ | .flowQ _ _ => true
  | _ => false

/-- The major opcodes that system mode does not admit (R357). -/
def sysIllegal (major : Nat) : Bool := [0x1B, 0x1C, 0x29, 0x2A, 0x2D, 0x37, 0x38, 0x39, 0x3A].contains major

end Sys2Proof.Machine
end

