-- ==== Sys2Proof/Certificates/Slice0/Obligations.lean ====
section
/-!
DEFINITION. The statements about the machine. Those that follow one numbered rule of the spec cite it; those that rest on a choice of
the model name the log entry.
-/

open Sys2Proof Sys2Proof.Machine

/-! Encoding and steps. -/

/-- Words written out bit by bit from the encodings of R168-R176 decode to the instructions that they stand for. -/
def Obligations.WordsDecodeToTheirInstructions : Prop :=
  decodeWord 0b000001_00000101_00000110_00000111_00#32 = some (.add (.v 5) (.v 6) (.v 7)) ∧
  decodeWord 0b001001_00000101_00000110_1111111111#32 = some (.addi (.v 5) (.v 6) (-1)) ∧
  decodeWord 0b011000_11000011_111111111111111110#32 = some (.br (.p 3) (-2)) ∧
  decodeWord 0b100000_00010000_10000010_00000011_10#32 = some (.ldW (.v 16) (.w 2) (.v 3)) ∧
  decodeWord 0b111101_000000_11111111_000000000101#32 = some (.trapInstr 5)

/-- The word of every well-formed instruction decodes to it, with every operand at every value (R168-R185). -/
def Obligations.EncodedInstructionsDecode : Prop :=
  ∀ (i : Instr) (w : BitVec 32), i.wf = true → encode i = some w → decodeTableWord 32 w.toNat = some i

/-- Every word that decodes is the word of the instruction that it decodes to: no two words stand for one instruction, and no bit of a
word is left out (R168-R185). -/
def Obligations.DecodedWordsEncode : Prop :=
  ∀ (w : BitVec 32) (i : Instr), decodeWord w = some i → encode i = some w

/-- A quarter's turn runs the instruction that the words at the program counter of its first candidate decode to: alone, or in a group
with hints. Where a candidate shares a register that a higher slot has written in this cycle, the turn is one of the next cycle (R61). The candidate is tried; the group's translations enter the TLBs, the team counts as issued, the group stands at issue, and
where the instruction does more than wait, the step is exec of it, with nothing left at issue, and with the poison consumed that walks of
the device itself met in the turn (R140, R178, R410; log entries 1 and 12). -/
def Obligations.StepRunsTheDecodedInstruction : Prop :=
  ∀ (s v : State) (c q t n : Nat) (rest : List Turn) (more : List Candidate) (x : Team) (p : Splinter) (h : Hints) (i : Instr) (k : Nat)
    (w : BitVec 32),
    s.agenda = .issue c q :: rest → s.power = .run →
    let z : State := ({ s with agenda := rest } : State).inCycle c q
    z.candidates c q = .splinter t n :: more → z.team? c t = some x → x.splinterAt n = some p → p.armed = none →
    ((z.fetchWord (x.who c x.inSys) (lowLane p.mask) p.pc.toNat = .word w ∧ isHint w = false ∧ decodeWord w = some i ∧ h = {} ∧ k = 1) ∨
      z.fetchGroup (x.who c x.inSys) (lowLane p.mask) 6 {} 0 p.pc.toNat = .group h i k w) →
    let u : State := { (z.fillFetch (x.who c x.inSys) (lowLane p.mask) p.pc.toNat k).issued c t q with
      cur := { valid := true, core := c, slot := t, spl := n, hints := h, len := k, word := w } }
    exec i u = .next v → u.onlyWaited v c t n = false → step s = .next v.finish.repay

/-- Every step from every state answers a next state: nothing stops the machine (log entries 1 and 11). -/
def Obligations.EveryStepAnswersANextState : Prop := ∀ s : State, ∃ t, step s = .next t

/-- Memory stays in its canonical form at every step from every state in which it has that form. -/
def Obligations.StepsKeepMemoryCanonical : Prop := ∀ s t : State, s.sound → step s = .next t → t.sound

/-- After reset memory has its canonical form, every byte of it reads zero, no team is resident, no device register but CALLER holds
anything but zero, and the ROM runs (R299, R364, R400). -/
def Obligations.ResetState : Prop :=
  State.reset.sound ∧ State.reset.power = .rom ∧ State.reset.clock = 0 ∧ (∀ a, State.reset.byte a = 0) ∧
  (∀ c, (State.reset.core c).teams = []) ∧
  ∀ (c : Nat) (x : Team) (r : Ctl), x.sys = none →
    State.reset.ctlRead c x r = match r with
      | .caller _ => 0x0000004000000010
      | _ => 0

/-- A device in OFF, ROM or HALTED issues nothing, and in STAGE1 no core but core 0 does: a quarter's turn leaves everything but the agenda as it
was; what walks of the device itself met before is consumed at its end (R377, R400, R410). That stage one runs on no core but core 0 is read from
R400 (DEDUCED, log entry 10). -/
def Obligations.DeviceThatIsNotRunningIssuesNothing : Prop :=
  ∀ (s : State) (c q : Nat) (rest : List Turn), s.power ≠ .run → (s.power = .stage1 → c ≠ 0) → s.agenda = .issue c q :: rest →
    step s = .next ({ s with agenda := rest } : State).repay ∧ (s.walked = [] → step s = .next { s with agenda := rest })

/-! What instructions leave. -/

/-- Every integer, bit-field, move, compare, predicate and address instruction whose operands are known, free of poison and whose
destination can be written completes with the result of the table (R191-R204, R225). -/
def Obligations.IntegerInstructionsComplete : Prop :=
  ∀ (i : Instr) (s : State) (cx : Ctx) (r : Result), s.ready? i = some cx → integerResult cx i = some r → r.clear cx = true →
    exec i s = .next (cx.finish i (r.put cx) r.flags)

/-- Every floating-point, conversion and quantisation instruction completes in the same way (R248-R257). -/
def Obligations.FloatInstructionsComplete : Prop :=
  ∀ (i : Instr) (s : State) (cx : Ctx) (r : Result), s.ready? i = some cx → floatResult cx i = some r → r.clear cx = true →
    exec i s = .next (cx.finish i (r.put cx) r.flags)

/-- Every vote, reduction and `sq` completes in the same way (R236, R260, R261). -/
def Obligations.VotesAndReductionsComplete : Prop :=
  ∀ (i : Instr) (s : State) (cx : Ctx) (r : Result), s.ready? i = some cx → laneResult cx i = some r → r.clear cx = true →
    exec i s = .next (cx.finish i (r.put cx) r.flags)

/-- Shuffles, sorted lists, symbol instructions, `refill`, `yield` and `nop` leave what the table gives (R212, R213, R259, R262-R264). -/
def Obligations.LaneInstructionsComplete : Prop :=
  ∀ (i : Instr) (s t : State) (cx : Ctx) (g : Nat → FlagSet), s.ready? i = some cx → laneEffect cx i = some (t, g) →
    exec i s = .next (cx.finish i t g)

/-- Loads, stores, atomics, remote accesses, multicasts, prefetches and allocations leave what the table gives: performed at issue, or
put into the team's queue (R69, R82, R83, R215-R230, R325-R330). -/
def Obligations.MemoryInstructionsComplete : Prop :=
  ∀ (i : Instr) (s t : State) (cx : Ctx) (g : Nat → FlagSet), s.ready? i = some cx → memoryEffect cx i = some (t, g) →
    exec i s = .next (cx.finish i t g)

/-- Fences, barrier instructions and shared-register instructions leave what the table gives (R60, R231-R236). -/
def Obligations.OrderAndBarrierInstructionsComplete : Prop :=
  ∀ (i : Instr) (s t : State) (cx : Ctx) (g : Nat → FlagSet), s.ready? i = some cx → syncEffect cx i = some (t, g) →
    exec i s = .next (cx.finish i t g)

/-- Flow, item, counter and heap instructions leave what the table gives (R141-R143, R237-R243). -/
def Obligations.ItemInstructionsComplete : Prop :=
  ∀ (i : Instr) (s t : State) (cx : Ctx) (g : Nat → FlagSet), s.ready? i = some cx → itemEffect cx i = some (t, g) →
    exec i s = .next (cx.finish i t g)

/-- Copy, handle, pull and sampler instructions leave what the table gives (R286-R309, R335-R338). -/
def Obligations.EngineInstructionsComplete : Prop :=
  ∀ (i : Instr) (s t : State) (cx : Ctx) (g : Nat → FlagSet), s.ready? i = some cx → engineEffect cx i = some (t, g) →
    exec i s = .next (cx.finish i t g)

/-- Tensor instructions leave what the table gives (R265-R281). -/
def Obligations.TensorInstructionsComplete : Prop :=
  ∀ (i : Instr) (s t : State) (cx : Ctx) (g : Nat → FlagSet), s.ready? i = some cx → tensorEffect cx i = some (t, g) →
    exec i s = .next (cx.finish i t g)

/-- The handler's instructions leave what the table gives (R363-R377); which stores `tlb.inv` and `fault.done` wait for is read in log entry 23
(DEDUCED). -/
def Obligations.HandlerInstructionsComplete : Prop :=
  ∀ (i : Instr) (s t : State) (cx : Ctx) (g : Nat → FlagSet), s.ready? i = some cx → systemEffect cx i = some (t, g) →
    exec i s = .next (cx.finish i t g)

/-- Branches, calls, jumps, joins, `exit`, `flow.set`, `sret` and dictionary words place their splinters as the table gives (R43, R183,
R205-R211, R370); of an entry of a dictionary word that R357 alone bars, by the reading of log entry 57 (DEDUCED). -/
def Obligations.PlacingInstructionsComplete : Prop :=
  ∀ (i : Instr) (s t : State) (cx : Ctx), s.ready? i = some cx → movedBy cx i = some t → exec i s = .next t

/-- Events of boot, power, temperature and management, of the scheduler, of the engines and of the fabric happen as the table gives (R38,
R47, R48, R68, R88, R138, R140, R145, R271, R289-R291, R298-R308, R313-R321, R327-R333, R337, R355, R378, R399-R409; log entry 11). -/
def Obligations.EventsHappen : Prop := ∀ (i : Instr) (s t : State), eventOf s i = some t → exec i s = .next t

/-! What the checks of an instruction do. -/

/-- The checks of a group come in one order: an illegal group traps with ILLEGAL, else a privileged instruction outside system mode with
PRIV, else an operand of a class that is not admitted with OPCLASS (R52, R174, R185, R186). That LMASK then names all lanes of the splinter,
before the guard, is the model's reading (log entry 60). -/
def Obligations.ChecksTrapInOrder : Prop :=
  ∀ (i : Instr) (r : Rules) (s : State) (cx : Ctx), s.ctx? = some cx → rulesOf i = some r →
    (cx.illegal r = true → exec i s = .next (cx.live.trapped i .illegal 0 none cx.act)) ∧
    (cx.illegal r = false → r.priv = true → cx.sys = false → exec i s = .next (cx.live.trapped i .priv 0 none cx.act)) ∧
    (cx.illegal r = false → (r.priv = true → cx.sys = true) → r.ok cx = false → exec i s = .next (cx.live.trapped i .opclass 0 none cx.act))

/-- The instructions that are privileged are those of major 0x3D but `trap` (R174). -/
def Obligations.PrivilegedInstructions : Prop :=
  ∀ (i : Instr) (r : Rules) (w : BitVec 32), encode i = some w → rulesOf i = some r →
    (r.priv = true ↔ w.extractLsb' 26 6 = 0x3D#6 ∧ w.extractLsb' 20 6 ≠ 0#6)

/-- In system mode the majors 0x1B, 0x1C, 0x29, 0x2A, 0x2D and 0x37-0x3A, and `refill`, meet a double trap with ILLEGAL, and so does
`exit` in a trapped team; `flow.set` and `flow.q`, of major 0x2A, act for ACTP there instead (R357, R359, R361; log entry 35). -/
def Obligations.SystemModeRefusesTheseInstructions : Prop :=
  ∀ (i : Instr) (r : Rules) (w : BitVec 32) (s : State) (cx : Ctx), encode i = some w → rulesOf i = some r → s.ctx? = some cx →
    cx.sys = true → (sysIllegal (w.extractLsb' 26 6).toNat = true ∧ actsForActp i = false ∨ i = .refill ∨ (i = .exitLanes ∧ cx.x.formed = false)) →
    exec i s = .next (cx.s.doubleTrap cx.c cx.t .illegal 0xF cx.iaddr)

/-- An instruction whose guard no lane passes does nothing but go on; one whose guard is p15 first waits for a pending write of it
(`PendingP15IsAwaited`) (R180). -/
def Obligations.GuardedOffInstructionsDoNothing : Prop :=
  ∀ (i : Instr) (r : Rules) (s : State) (cx : Ctx), s.ctx? = some cx → rulesOf i = some r → cx.illegal r = false →
    (r.priv = true → cx.sys = true) → r.ok cx = true → (cx.p15Pending = false ∨ ∀ b p, cx.h.guard = some (b, p) → p ≠ 15) →
    cx.guarded = 0 → exec i s = .next (cx.live.finish i s 0)

/-- While a write of p15 is pending, an instruction whose guard is p15 waits at issue, whether the present value passes a lane or not; and so
does an instruction that reads or writes p15 and has a lane that passes its guard (R218). -/
def Obligations.PendingP15IsAwaited : Prop :=
  ∀ (i : Instr) (r : Rules) (s : State) (cx : Ctx), s.ctx? = some cx → rulesOf i = some r → cx.illegal r = false →
    (r.priv = true → cx.sys = true) → r.ok cx = true →
    (cx.p15Pending = true → (∃ b, cx.h.guard = some (b, 15)) → exec i s = .next (cx.live.stay .issue)) ∧
    (cx.awaitsP15 r = true → cx.guarded ≠ 0 → exec i s = .next (cx.live.stay .issue))

/-- A blocking use: a computing instruction waits at issue for the symbols of the operands that it uses so, but for `fadd`, `fsub` and
`fmul` where they fold, and traps with POISON, without effect, on the active lanes on which one of them has address poison (R65, R70,
R249). -/
def Obligations.BlockingUsesWaitOrTrap : Prop :=
  ∀ (i : Instr) (s : State) (cx : Ctx) (r : Result), s.ready? i = some cx → resultOf cx i = some r →
    let symbolic := r.srcs.any fun o => if r.wideSrc then cx.symbolic64 o else cx.symbolic o
    let os := cx.origins ((r.srcs.flatMap fun o => if r.wideSrc then halvesOf o else [o]).map cx.read)
    (symbolic = true → cx.foldsAt i = false → exec i s = .next (cx.stay .issue)) ∧
    (symbolic = false → (if r.wide then cx.destWaits64 r.d else cx.destWaits r.d) = false → tagsOf os = [] → addrLanes os ≠ 0 →
      exec i s = .next (cx.trapped i .poison 0 none (addrLanes os)))

/-! Registers. -/

/-- A value written to a destination is read back on the active lanes; a vector or predicate register keeps the values of the team's
other lanes; 0xFF discards the value; a pair takes bits [31:0] in its even register and bits [63:32] in its odd register (R52, R53, R57,
R58, R188). -/
def Obligations.WritesAreReadBack : Prop :=
  ∀ (cx : Ctx) (d : Operand) (f : Nat → W64), cx.s.team? cx.c cx.t = some cx.x → cx.sys = cx.x.inSys → cx.act &&& ~~~cx.x.live = 0 →
    (cx.destWaits d = false →
      let cy := cx.after (cx.write cx.s d f noOrigin)
      match d with
      | .v _ => ∀ l, cx.x.live.getLsbD l = true → l < cx.x.width →
          cy.val d l = (if cx.act.getLsbD l then ((f l).setWidth 32).setWidth 64 else cx.val d l) ∧
          (cy.read d).pois l = (if cx.act.getLsbD l then none else (cx.read d).pois l)
      | .w _ => ∀ l, cy.val d l = f (lowLane cx.act) ∧ (cy.read d).pois l = none
      | .p _ => cx.sys = false → ∀ l, l < 1024 → cy.val d l = if cx.act.getLsbD l then (if f l != 0 then 1 else 0) else cx.val d l
      | _ => cx.write cx.s d f noOrigin = cx.s) ∧
    ∀ n : Fin 128, d = .v n → n.val % 2 = 0 → cx.destWaits64 d = false →
      let cy := cx.after (cx.write64 cx.s d f noOrigin)
      ∀ l, cx.act.getLsbD l = true → l < cx.x.width →
        cy.low (.v n) l = (f l).extractLsb' 0 32 ∧ cy.low (.v (n + 1)) l = (f l).extractLsb' 32 32 ∧ (cy.read64 (.v n)).at_ l = f l

/-- A write whose active lanes are every lane present in the team leaves STATE 01 and one value where all lanes write the same value, and
STATE 00 elsewhere; every other write leaves STATE 00 (R57, R58). That a write of a shared register is full where its lanes are all those of
the team's width is the model's reading (log entry 21). -/
def Obligations.WritesSetTheTag : Prop :=
  ∀ (s : State) (c t n : Nat) (x : Team) (act : Mask) (f : Nat → W32), s.team? c t = some x →
    ∃ y, (s.writeV c t n act f noOrigin).team? c t = some y ∧
      let r := (s.writeV c t n act f noOrigin).vreg c y n
      (act = (if x.entry.shared n then laneRange 0 x.width else x.live) →
        (r.st = .uniform ↔ ∀ l ∈ lanesOf act, f l = f (lowLane act)) ∧ (r.st ≠ .uniform → r.st = .perLane) ∧
        (r.st = .uniform → r.uni = f (lowLane act) ∧ r.lanes = [])) ∧
      (act ≠ (if x.entry.shared n then laneRange 0 x.width else x.live) → r.st = .perLane)

/-- What keeps an operand symbolic, for every source and destination, vector or uniform. Integer forms: sums and differences with a known
operand or of two forms of one symbol, products by a known uniform factor, shifts by a known uniform amount, the immediate forms, and
`mov` (R64, R190). Float forms: the folds of `fadd`, `fsub` and `fmul` under SYM and the default rounding (R67, R249). Poison of the operands
passes to the result (R70). The model's own readings: `mov` copies a form of any kind, a float form too, where R65 has an integer instruction
block on one (log entry 45, DEDUCED); a symbolic uniform register stays symbolic for a vector destination (log entry 22); and two operands
poisoned by different owners leave the tag of `joinOrigin` (log entry 18). -/
def Obligations.LinearFormsStaySymbolic : Prop :=
  ∀ (s : State) (cx : Ctx) (d a b : Operand) (g : Linear), cx.takesForm d = true →
    let known (o : Operand) : Prop := cx.symbolic o = false
    let pois (o q : Operand) (l : Nat) : Option Origin := joinOrigin ((cx.read o).pois l) ((cx.read q).pois l)
    let n (o : Operand) : Nat := (cx.val o (lowLane cx.act)).toNat % widthOf (wideOps [d, a, b])
    (cx.integerForm a = some g →
      (s.ready? (.add d a b) = some cx → known b →
        Keeps s (.add d a b) cx false d { g with off := fun l => cx.val a l + cx.val b l, pois := pois a b }) ∧
      (s.ready? (.add d b a) = some cx → known b →
        Keeps s (.add d b a) cx false d { g with off := fun l => cx.val b l + cx.val a l, pois := pois b a }) ∧
      (s.ready? (.sub d a b) = some cx → known b →
        Keeps s (.sub d a b) cx false d { g with off := fun l => cx.val a l - cx.val b l, pois := pois a b }) ∧
      (s.ready? (.sub d b a) = some cx → known b →
        Keeps s (.sub d b a) cx false d { g with scale := -g.scale, off := fun l => cx.val b l - cx.val a l, pois := pois b a }) ∧
      (∀ h, cx.integerForm b = some h → h.sym = g.sym → h.alone = g.alone →
        (s.ready? (.add d a b) = some cx → Keeps s (.add d a b) cx false d
          { g with scale := g.scale + h.scale, off := fun l => cx.val a l + cx.val b l, pois := pois a b }) ∧
        (s.ready? (.sub d a b) = some cx → Keeps s (.sub d a b) cx false d
          { g with scale := g.scale - h.scale, off := fun l => cx.val a l - cx.val b l, pois := pois a b })) ∧
      (s.ready? (.mul d a b) = some cx → known b → uniformOp b = true → Keeps s (.mul d a b) cx false d
        { g with scale := g.scale * cx.val b (lowLane cx.act), off := fun l => cx.val a l * cx.val b l, pois := pois a b }) ∧
      (s.ready? (.mul d b a) = some cx → known b → uniformOp b = true → Keeps s (.mul d b a) cx false d
        { g with scale := g.scale * cx.val b (lowLane cx.act), off := fun l => cx.val a l * cx.val b l, pois := pois a b }) ∧
      (s.ready? (.shl d a b) = some cx → known b → uniformOp b = true → Keeps s (.shl d a b) cx false d
        { g with scale := g.scale <<< n b, off := fun l => cx.val a l <<< n b, pois := pois a b }) ∧
      (∀ k : BitVec 10, s.ready? (.addi d a k) = some cx →
        Keeps s (.addi d a k) cx false d { g with off := fun l => cx.val a l + cx.immB k }) ∧
      (∀ k : BitVec 10, s.ready? (.muli d a k) = some cx →
        Keeps s (.muli d a k) cx false d { g with scale := g.scale * cx.immB k, off := fun l => cx.val a l * cx.immB k }) ∧
      (∀ k : BitVec 6, s.ready? (.shli d a k) = some cx →
        let m := k.toNat % widthOf (wideOps [d, a])
        Keeps s (.shli d a k) cx false d { g with scale := g.scale <<< m, off := fun l => cx.val a l <<< m }) ∧
      (s.ready? (.mov d a) = some cx → uniformOp a = true → g.scale ≠ 0 → Keeps s (.mov d a) cx false d g)) ∧
    (∀ (p q : Fin 128), d = .v p → a = .v q → (cx.vreg q.val).st = .symbolic → s.ready? (.mov d a) = some cx →
      exec (.mov d a) s = .next (cx.finish (.mov d a) (cx.s.setVreg cx.c cx.t p.val
        { cx.vreg q.val with lanes := laneTable cx.act fun l => (cx.vreg q.val).at l, pois := originTable cx.act (cx.read a).pois }) 0)) ∧
    (cx.floatingForm a = some g → cx.allLanes = true → cx.mods.sym = true → cx.mods.rm = .rn → known b →
      let f (h : RMode → W32 → W32 → W32 × FlagSet) (x y : W64) : W64 := (h .rn (x.setWidth 32) (y.setWidth 32)).1.setWidth 64
      (s.ready? (.fadd d a b) = some cx →
        Keeps s (.fadd d a b) cx true d { g with off := fun l => f fpAdd (g.off l) (cx.val b l), pois := pois a b }) ∧
      (s.ready? (.fadd d b a) = some cx →
        Keeps s (.fadd d b a) cx true d { g with off := fun l => f fpAdd (g.off l) (cx.val b l), pois := pois a b }) ∧
      (s.ready? (.fsub d a b) = some cx →
        Keeps s (.fsub d a b) cx true d { g with off := fun l => f fpSub (g.off l) (cx.val b l), pois := pois a b }) ∧
      (s.ready? (.fsub d b a) = some cx → Keeps s (.fsub d b a) cx true d
        { g with scale := (rne32 (f32 (g.scale.setWidth 32)).opp).setWidth 64, off := fun l => f fpSub (cx.val b l) (g.off l), pois := pois b a }) ∧
      (uniformOp b = true → ∀ e c, (e = a ∧ c = b) ∨ (e = b ∧ c = a) → s.ready? (.fmul d e c) = some cx → Keeps s (.fmul d e c) cx true d
        { g with scale := f fpMul g.scale (cx.val b (lowLane cx.act)), off := fun l => f fpMul (g.off l) (cx.val b l), pois := pois a b }))

/-- What a register that holds a form over a symbol reads once the symbol is resolved: an integer form reads scale × X + offset on the live
lanes, a float form the same rounded once, as `ffma` rounds; with HALF set X is its upper half. On lanes that took no part or were packed
later it reads its offset, in a float form CNAN where that is a NaN. A uniform register reads the element of the symbol's lowest lane. A
register that refers to another symbol stays as it is (R58, R63, R64, R67, R68). That a symbol made for a uniform destination has one X
for every lane of a vector register is the model's reading (log entry 22). -/
def Obligations.ResolutionGivesTheFormsValue : Prop :=
  ∀ (r : VReg) (u : UReg) (n w l : Nat) (live : Mask) (y : Symbol), l < w → w ≤ 1024 → live.getLsbD l = true →
    let X (half : Bool) (k : Nat) : W64 := if half then y.vals.atD k 0 >>> 32 else y.vals.atD k 0
    (r.st = .symbolic → r.sym = n →
      let x : W32 := (X r.half (if y.uni then lowLane y.lanes else l)).setWidth 32
      let part : Bool := !r.alone.getLsbD l && (y.uni || y.lanes.getLsbD l)
      (r.resolve n w live y).st ≠ .symbolic ∧
      (r.flt = false → (r.resolve n w live y).at l = if part then r.scale * x + r.at l else r.at l) ∧
      (r.flt = true → (r.resolve n w live y).at l =
        if part then (fpFma .rn r.scale x (r.at l)).1 else if isNaN32 (r.at l) then CNAN else r.at l)) ∧
    (r.st ≠ .symbolic ∨ r.sym ≠ n → r.resolve n w live y = r) ∧
    (u.sym = some n →
      let x := X u.half (lowLane y.lanes)
      (u.resolve n y).sym = none ∧
      (u.resolve n y).val = if u.flt then (fpFma .rn (u.scale.setWidth 32) (x.setWidth 32) (u.val.setWidth 32)).1.setWidth 64 else u.scale * x + u.val) ∧
    (u.sym ≠ some n → u.resolve n y = u)

/-- A computing instruction leaves everything but its destination, its splinter's place and the sticky flags of its partition as it was:
memory, the device, the other cores and teams, the team's other registers and its waiting accesses; where an enabled flag makes the team
trap, the entry may discard lines of the core's read cache (R52, R57, R109, R110, R120, R367). -/
def Obligations.ComputingInstructionsKeepTheRest : Prop :=
  ∀ (i : Instr) (s : State) (cx : Ctx) (r : Result), s.ready? i = some cx → resultOf cx i = some r → r.clear cx = true →
    ∃ t y, exec i s = .next t ∧ t.team? cx.c cx.t = some y ∧ s.SameDevice t ∧ s.SameOthers t cx.c cx.t ∧ cx.x.Keeps y r.d r.wide ∧
      (∀ p, t.flags cx.c p = if p = cx.part then s.flags cx.c p ||| flagsOf cx.act r.flags else s.flags cx.c p) ∧
      (cx.sys = true ∨ flagsOf cx.act r.flags &&& s.enabled cx.c cx.part = 0 → s.SameCache t cx.c) ∧
      (∀ n, writesV r.d r.wide n = false → t.vreg cx.c y n = s.vreg cx.c cx.x n)

/-- A branch, a call, a jump or a join instruction leaves everything but the register that it writes, the team's splinters and, for a join
instruction, its joins as it was: memory, the device, the other cores and teams, and the team's other registers (R205-R211). -/
def Obligations.ControlInstructionsKeepTheRest : Prop :=
  ∀ (i : Instr) (s t : State) (cx : Ctx) (d : Operand) (wide : Bool), s.ready? i = some cx → controlDest i = some (d, wide) →
    movedBy cx i = some t →
    ∃ y, exec i s = .next t ∧ t.team? cx.c cx.t = some y ∧ s.SameDevice t ∧ s.SameOthers t cx.c cx.t ∧ s.SameCache t cx.c ∧
      cx.x.KeepsRegisters y d wide ∧ (∀ p, t.flags cx.c p = s.flags cx.c p) ∧ ∀ n, writesV d wide n = false → t.vreg cx.c y n = s.vreg cx.c cx.x n

/-- Lane, order, barrier, shared-register and tensor instructions, but `refill`, which is left out (it sets its team's private memory to zero),
complete and store nothing: every byte of memory reads as before. That `acc.st` stores nothing as it issues, where R279 has it write memory, is the
model's choice: an engine's command writes at its completion (log entry 4, DESIGN CHOICE). -/
def Obligations.InstructionsThatStoreNothingKeepMemory : Prop :=
  ∀ (i : Instr) (s t : State) (cx : Ctx) (g : Nat → FlagSet), s.ready? i = some cx → i ≠ .refill →
    laneEffect cx i = some (t, g) ∨ syncEffect cx i = some (t, g) ∨ tensorEffect cx i = some (t, g) →
    exec i s = .next (cx.finish i t g) ∧ ∀ a, (cx.finish i t g).byte a = s.byte a

/-- An instruction that sets a flag whose trap is enabled completes, and its team then traps with ARITH: with memory settled, the handler
is entered with the flags as CODE, the lowest mask word of the lanes that set such a flag as LMASK and WORD, EIADDR at the instruction and EPC at
the group behind it (R120, R355, R365-R367). Which lane sets a flag is the model's reading for `qblk`, `qmx` and `redw.fadd` (log entry 60). -/
def Obligations.EnabledFlagsTrap : Prop :=
  ∀ (i : Instr) (s : State) (cx : Ctx) (r : Result), s.ready? i = some cx → resultOf cx i = some r → r.clear cx = true → cx.sys = false →
    let raised := flagsOf cx.act r.flags &&& s.enabled cx.c cx.part
    let lanes := maskWhere cx.act fun l => r.flags l &&& s.enabled cx.c cx.part != 0
    raised ≠ 0 → s.settled cx.c cx.t = true →
    ∃ t y z, exec i s = .next t ∧ t.team? cx.c cx.t = some y ∧ y.sys = some z ∧ z.pc = s.tvec ∧
      z.epc = (if cx.nextHalf then cx.next ||| 1 else cx.next) ∧ z.eiaddr = cx.iaddr ∧
      z.estat.extractLsb' 0 4 = 13#4 ∧ z.estat.extractLsb' 4 12 = raised.setWidth 12 ∧
      (z.estat.extractLsb' 27 5).toNat = lowWord lanes ∧ z.estat.extractLsb' 32 32 = maskWord lanes (lowWord lanes) ∧
      t.flags cx.c cx.part = s.flags cx.c cx.part ||| flagsOf cx.act r.flags

/-! Integer and predicate instructions (R191-R204). -/

/-- Sums and differences wrap modulo 2^width; saturating sums are clamped to the range of the type, and set ISAT where a lane clamps. -/
def Obligations.SumsWrapOrClamp : Prop :=
  ∀ (s : State) (cx : Ctx) (d a b : Operand),
    let w := wideOps [d, a, b]
    let S (o : Operand) (l : Nat) : Int := sintOf w (cx.val o l)
    let U (o : Operand) (l : Nat) : Int := uintOf w (cx.val o l)
    let isat (lo hi : Int) (v : Nat → Int) (l : Nat) : FlagSet := if v l < lo ∨ hi < v l then Flag.isat else 0
    (Clear s (.add d a b) cx d [a, b] → Completes s (.add d a b) cx d (fun l => BitVec.ofInt 64 (U a l + U b l)) 0) ∧
    (Clear s (.sub d a b) cx d [a, b] → Completes s (.sub d a b) cx d (fun l => BitVec.ofInt 64 (U a l - U b l)) 0) ∧
    (Clear s (.addSatI d a b) cx d [a, b] → Completes s (.addSatI d a b) cx d
      (fun l => BitVec.ofInt 64 (max (-2 ^ (widthOf w - 1)) (min (2 ^ (widthOf w - 1) - 1) (S a l + S b l))))
      (isat (-2 ^ (widthOf w - 1)) (2 ^ (widthOf w - 1) - 1) fun l => S a l + S b l)) ∧
    (Clear s (.addSatN d a b) cx d [a, b] → Completes s (.addSatN d a b) cx d
      (fun l => BitVec.ofInt 64 (min (2 ^ widthOf w - 1) (U a l + U b l))) (isat 0 (2 ^ widthOf w - 1) fun l => U a l + U b l))

/-- Products: the low half, the high half of the signed and of the unsigned product, and a product with a sum; S3 is that of the modifier
hint, which reads as zero where it is absent. No flag is set. -/
def Obligations.Products : Prop :=
  ∀ (s : State) (cx : Ctx) (d a b : Operand),
    let w := wideOps [d, a, b]
    let S (o : Operand) (l : Nat) : Int := sintOf w (cx.val o l)
    let U (o : Operand) (l : Nat) : Int := uintOf w (cx.val o l)
    (Clear s (.mul d a b) cx d [a, b] → Completes s (.mul d a b) cx d (fun l => BitVec.ofInt 64 (U a l * U b l)) 0) ∧
    (Clear s (.mulhiI d a b) cx d [a, b] → Completes s (.mulhiI d a b) cx d
      (fun l => BitVec.ofInt 64 (S a l * S b l / 2 ^ widthOf w)) 0) ∧
    (Clear s (.mulhiN d a b) cx d [a, b] → Completes s (.mulhiN d a b) cx d
      (fun l => BitVec.ofInt 64 (U a l * U b l / 2 ^ widthOf w)) 0) ∧
    (Clear s (.mad d a b) cx d [a, b, cx.mods.s3] → Completes s (.mad d a b) cx d
      (fun l => BitVec.ofInt 64 ((cx.val a l).toNat * (cx.val b l).toNat + (cx.val cx.mods.s3 l).toNat)) 0)

/-- Division truncates towards zero, a signed remainder takes the sign of the dividend, a zero divisor gives all ones or the dividend,
and the one signed overflow wraps. No flag is set. -/
def Obligations.DivisionsAndRemainders : Prop :=
  ∀ (s : State) (cx : Ctx) (d a b : Operand),
    let w := wideOps [d, a, b]
    let S (o : Operand) (l : Nat) : Int := sintOf w (cx.val o l)
    let U (o : Operand) (l : Nat) : Int := uintOf w (cx.val o l)
    (Clear s (.divI d a b) cx d [a, b] → Completes s (.divI d a b) cx d (fun l =>
      if S b l = 0 then BitVec.ofInt 64 (2 ^ widthOf w - 1)
      else if S a l = -2 ^ (widthOf w - 1) ∧ S b l = -1 then BitVec.ofInt 64 (S a l) else BitVec.ofInt 64 ((S a l).tdiv (S b l))) 0) ∧
    (Clear s (.divN d a b) cx d [a, b] → Completes s (.divN d a b) cx d (fun l =>
      if U b l = 0 then BitVec.ofInt 64 (2 ^ widthOf w - 1) else BitVec.ofInt 64 (U a l / U b l)) 0) ∧
    (Clear s (.remI d a b) cx d [a, b] → Completes s (.remI d a b) cx d (fun l =>
      if S b l = 0 then BitVec.ofInt 64 (S a l)
      else if S a l = -2 ^ (widthOf w - 1) ∧ S b l = -1 then 0 else BitVec.ofInt 64 (S a l - S b l * (S a l).tdiv (S b l))) 0) ∧
    (Clear s (.remN d a b) cx d [a, b] → Completes s (.remN d a b) cx d (fun l =>
      if U b l = 0 then BitVec.ofInt 64 (U a l) else BitVec.ofInt 64 (U a l - U b l * (U a l / U b l))) 0)

/-- `and`, `or`, `xor` and `andn` work bitwise; `min.i` and `max.i` compare signed values, `min.n` and `max.n` unsigned ones. -/
def Obligations.BitwiseAndExtremes : Prop :=
  ∀ (s : State) (cx : Ctx) (d a b : Operand),
    let w := wideOps [d, a, b]
    let S (o : Operand) (l : Nat) : Int := sintOf w (cx.val o l)
    let U (o : Operand) (l : Nat) : Int := uintOf w (cx.val o l)
    (Clear s (.andOp d a b) cx d [a, b] → Completes s (.andOp d a b) cx d (fun l => cx.val a l &&& cx.val b l) 0) ∧
    (Clear s (.orOp d a b) cx d [a, b] → Completes s (.orOp d a b) cx d (fun l => cx.val a l ||| cx.val b l) 0) ∧
    (Clear s (.xorOp d a b) cx d [a, b] → Completes s (.xorOp d a b) cx d (fun l => cx.val a l ^^^ cx.val b l) 0) ∧
    (Clear s (.andn d a b) cx d [a, b] → Completes s (.andn d a b) cx d (fun l => cx.val a l &&& ~~~cx.val b l) 0) ∧
    (Clear s (.minI d a b) cx d [a, b] → Completes s (.minI d a b) cx d (fun l => BitVec.ofInt 64 (min (S a l) (S b l))) 0) ∧
    (Clear s (.maxI d a b) cx d [a, b] → Completes s (.maxI d a b) cx d (fun l => BitVec.ofInt 64 (max (S a l) (S b l))) 0) ∧
    (Clear s (.minN d a b) cx d [a, b] → Completes s (.minN d a b) cx d (fun l => BitVec.ofInt 64 (min (U a l) (U b l))) 0) ∧
    (Clear s (.maxN d a b) cx d [a, b] → Completes s (.maxN d a b) cx d (fun l => BitVec.ofInt 64 (max (U a l) (U b l))) 0)

/-- Shifts by n = S2 mod width: `shl` multiplies by 2^n, `shr` divides the unsigned value, `sar` the signed value rounded down, and
`rotl` brings the bits that leave at the top back at the bottom. -/
def Obligations.ShiftsAndRotations : Prop :=
  ∀ (s : State) (cx : Ctx) (d a b : Operand),
    let w := wideOps [d, a, b]
    let S (l : Nat) : Int := sintOf w (cx.val a l)
    let U (l : Nat) : Nat := uintOf w (cx.val a l)
    let n (l : Nat) : Nat := uintOf w (cx.val b l) % widthOf w
    (Clear s (.shl d a b) cx d [a, b] → Completes s (.shl d a b) cx d (fun l => BitVec.ofNat 64 (U l * 2 ^ n l)) 0) ∧
    (Clear s (.shr d a b) cx d [a, b] → Completes s (.shr d a b) cx d (fun l => BitVec.ofNat 64 (U l / 2 ^ n l)) 0) ∧
    (Clear s (.sar d a b) cx d [a, b] → Completes s (.sar d a b) cx d (fun l => BitVec.ofInt 64 (S l / 2 ^ n l)) 0) ∧
    (Clear s (.rotl d a b) cx d [a, b] → Completes s (.rotl d a b) cx d
      (fun l => BitVec.ofNat 64 (U l * 2 ^ n l) ||| BitVec.ofNat 64 (U l / 2 ^ ((widthOf w - n l) % widthOf w))) 0)

/-- `clz`, `popc`, `brev` and `ffs` at the width of the instruction, said by the bits of the source: the bits above a leading zero count
are zero and the next is one; the result of `brev` has bit i where the source has bit width − 1 − i; `ffs` finds the lowest one bit. -/
def Obligations.BitCounts : Prop :=
  ∀ (s : State) (cx : Ctx) (d a : Operand),
    let w := wideOps [d, a]
    let bit (l i : Nat) : Bool := (cx.val a l).getLsbD i
    let zero (l : Nat) : Prop := ∀ i, i < widthOf w → bit l i = false
    (Clear s (.clz d a) cx d [a] → ∃ f : Nat → Nat, Completes s (.clz d a) cx d (fun l => BitVec.ofNat 64 (f l)) 0 ∧
      ∀ l, (zero l → f l = widthOf w) ∧
        (¬ zero l → f l < widthOf w ∧ bit l (widthOf w - 1 - f l) = true ∧ ∀ i, widthOf w - 1 - f l < i → i < widthOf w → bit l i = false)) ∧
    (Clear s (.popc d a) cx d [a] → Completes s (.popc d a) cx d
      (fun l => BitVec.ofNat 64 ((List.range (widthOf w)).filter fun i => bit l i).length) 0) ∧
    (Clear s (.brev d a) cx d [a] → ∃ f : Nat → W64, Completes s (.brev d a) cx d f 0 ∧
      ∀ l i, i < widthOf w → (f l).getLsbD i = bit l (widthOf w - 1 - i)) ∧
    (Clear s (.ffs d a) cx d [a] → ∃ f : Nat → W64, Completes s (.ffs d a) cx d f 0 ∧
      ∀ l, (zero l → f l = BitVec.ofNat 64 (2 ^ widthOf w - 1)) ∧
        (¬ zero l → ∃ i, i < widthOf w ∧ f l = BitVec.ofNat 64 i ∧ bit l i = true ∧ ∀ j, j < i → bit l j = false))

/-- Compares write a predicate: at 64 bits where both sources are U, else at 32 bits. -/
def Obligations.ComparesWritePredicates : Prop :=
  ∀ (s : State) (cx : Ctx) (d a b : Operand),
    let w := wideOps [a, b]
    let S (o : Operand) (l : Nat) : Int := sintOf w (cx.val o l)
    let U (o : Operand) (l : Nat) : Nat := uintOf w (cx.val o l)
    let P (f : Nat → Bool) (l : Nat) : W64 := if f l then 1 else 0
    (Clear s (.cmpEq d a b) cx d [a, b] → Completes s (.cmpEq d a b) cx d (P fun l => U a l = U b l) 0) ∧
    (Clear s (.cmpNe d a b) cx d [a, b] → Completes s (.cmpNe d a b) cx d (P fun l => U a l ≠ U b l) 0) ∧
    (Clear s (.cmpLtI d a b) cx d [a, b] → Completes s (.cmpLtI d a b) cx d (P fun l => S a l < S b l) 0) ∧
    (Clear s (.cmpLeI d a b) cx d [a, b] → Completes s (.cmpLeI d a b) cx d (P fun l => S a l ≤ S b l) 0) ∧
    (Clear s (.cmpLtN d a b) cx d [a, b] → Completes s (.cmpLtN d a b) cx d (P fun l => U a l < U b l) 0) ∧
    (Clear s (.cmpLeN d a b) cx d [a, b] → Completes s (.cmpLeN d a b) cx d (P fun l => U a l ≤ U b l) 0) ∧
    (Clear s (.tst d a b) cx d [a, b] → Completes s (.tst d a b) cx d (P fun l => U a l &&& U b l ≠ 0) 0) ∧
    (Clear s (.tstz d a b) cx d [a, b] → Completes s (.tstz d a b) cx d (P fun l => U a l &&& U b l = 0) 0)

/-- Predicates combined on the active lanes; a source of 0xFF reads 0. -/
def Obligations.PredicatesCombine : Prop :=
  ∀ (s : State) (cx : Ctx) (d a b : Operand),
    let B (o : Operand) (l : Nat) : Bool := match o with
      | .p n => (cx.x.pred n.val).getLsbD l
      | _ => false
    let P (f : Nat → Bool) (l : Nat) : W64 := if f l then 1 else 0
    (Clear s (.pand d a b) cx d [] → Completes s (.pand d a b) cx d (P fun l => B a l && B b l) 0) ∧
    (Clear s (.por d a b) cx d [] → Completes s (.por d a b) cx d (P fun l => B a l || B b l) 0) ∧
    (Clear s (.pxor d a b) cx d [] → Completes s (.pxor d a b) cx d (P fun l => B a l != B b l) 0) ∧
    (Clear s (.pandn d a b) cx d [] → Completes s (.pandn d a b) cx d (P fun l => B a l && !B b l) 0)

/-- `space` answers the code of the region of an address: near, the private window below the team's private size, bulk, the window of
another device, and in system mode the system region; 0 for every other address. -/
def Obligations.SpaceClassifiesAddresses : Prop :=
  ∀ (s : State) (cx : Ctx) (d a : Operand), s.ready? (.space d a) = some cx → cx.plain64 [a] = true → cx.destWaits d = false →
    Completes s (.space d a) cx d (fun l =>
      let v := ((cx.read64 a).at_ l).toNat
      if 0x400000000 ≤ v ∧ v < 0x800000000 then 1
      else if 0x800000000 ≤ v ∧ v < 0x800010000 ∧ v - 0x800000000 < cx.x.entry.priv then 2
      else if 0x1000000000000 ≤ v ∧ v < 0x2000000000000 then 3
      else if 0x80000000000000 ≤ v ∧ v < 0xA0000000000000 ∧ (v - 0x80000000000000) / 0x100000000000 ≠ s.devid.toNat then 4
      else if 0xF0000000000000 ≤ v ∧ v < 0x100000000000000 ∧ cx.sys = true then 5
      else 0) 0

/-! Control flow. -/

/-- A branch of a team outside system mode that has a place for the splinter: it stays whole where every lane of it is taken or none is;
else, with a second place, it divides into the taken lanes at the target and the others at the next word (R47, R205). -/
def Obligations.BranchesDivideSplinters : Prop :=
  ∀ (s : State) (cx : Ctx) (cond : Operand) (off : BitVec 18), s.ready? (.br cond off) = some cx → cx.sys = false →
    1 ≤ cx.x.roomFor cx.n →
    let taken := cx.holds cond
    ∃ t y, exec (.br cond off) s = .next t ∧ t.team? cx.c cx.t = some y ∧
      (taken = cx.p.mask → ∃ p, y.splinters[cx.n]? = some p ∧ p.mask = cx.p.mask ∧ p.pc = cx.target off ∧ p.half = false) ∧
      (taken = 0 → ∃ p, y.splinters[cx.n]? = some p ∧ p.mask = cx.p.mask ∧ p.pc = cx.next ∧ p.half = cx.nextHalf) ∧
      (taken ≠ 0 → cx.p.mask &&& ~~~taken ≠ 0 → 2 ≤ cx.x.roomFor cx.n →
        y.splinters.length = cx.x.splinters.length + 1 ∧
        (∃ p ∈ y.splinters, p.mask = taken ∧ p.pc = cx.target off ∧ p.half = false) ∧
        ∃ p ∈ y.splinters, p.mask = cx.p.mask &&& ~~~taken ∧ p.pc = cx.next ∧ p.half = cx.nextHalf)

/-! Memory. -/

/-- Bytes written at a physical address are read back, little-endian values with them; every other byte is as it was (R3). -/
def Obligations.MemoryWritesAreReadBack : Prop :=
  ∀ (s : State) (a x : Nat) (bs : List Byte),
    (s.write a bs).byte x = (if a ≤ x ∧ x < a + bs.length then bs.getD (x - a) 0 else s.byte x) ∧
    ∀ n v, (s.write a (leBytes n v)).word a n = v % 2 ^ (8 * n)

/-- A store, a zeroed line or an atomic that is performed at issue, with no poisoned operand and each lane of it reaching memory or a peer,
completes and leaves every byte of memory that none of its lanes stores to as it was (R216, R220, R224, R228). -/
def Obligations.StoresKeepOtherBytes : Prop :=
  ∀ (i : Instr) (s t : State) (cx : Ctx) (r : Req) (a : Access) (e : State × Access) (g : Nat → FlagSet), s.ready? i = some cx →
    memReq cx i = some r → cx.accessOf r = a → cx.bound r a = some e → a.op.changes = true → a.origins = [] → cx.atIssue a = true →
    e.1.reaches cx.who a = true → memoryEffect cx i = some (t, g) →
    exec i s = .next (cx.finish i t g) ∧
    ∀ pa, e.1.storesTo cx.who a pa = false → (cx.finish i t g).byte pa = s.byte pa

/-- The last active lane's store to a byte is the one that remains, and it stores the bytes of its data, least significant first
(R216, R220). -/
def Obligations.LastLanesStoreRemains : Prop :=
  ∀ (i : Instr) (s t : State) (cx : Ctx) (r : Req) (a : Access) (g : Nat → FlagSet) (n l pa base len : Nat),
    s.ready? i = some cx → memReq cx i = some r → cx.accessOf r = a → a.op = .store n → a.origins = [] → cx.atIssue a = true →
    s.reaches cx.who a = true → memoryEffect cx i = some (t, g) →
    a.lanes.getLsbD l = true → (a.hold.at? l).isNone = true → (s.fate cx.who a l).1 = .memory [(base, len)] →
    base ≤ pa → pa < base + len → (∀ m, l < m → s.storesTo cx.who { a with lanes := a.lanes &&& laneBit m } pa = false) →
    exec i s = .next (cx.finish i t g) ∧
    (cx.finish i t g).byte pa = (leBytes n (a.dataAt l).toNat).getD (pa - base) 0

/-- A load that is performed at issue and whose lanes reach near memory leaves every byte as it was; its destination is symbolic, and the
symbol has arrived on every lane with the bytes at its address, extended as the instruction says (R63, R219). -/
def Obligations.LoadsDeliverMemory : Prop :=
  ∀ (i : Instr) (s t : State) (cx : Ctx) (r : Req) (a : Access) (e : State × Access) (g : Nat → FlagSet) (n : Nat) (sx : Bool) (d : Fin 128),
    s.ready? i = some cx → memReq cx i = some r → r.op = .load n sx → r.dest = some (.v d) → cx.accessOf r = a →
    cx.bound r a = some e → cx.atIssue a = true → memoryEffect cx i = some (t, g) →
    (∀ l ∈ lanesOf a.lanes, ∃ pa, e.1.fate cx.who a l = (.memory [(pa, n)], []) ∧ pa + n ≤ 0x400000000 ∧ s.lineBad pa n = false) →
    (s.core cx.c).osb = [] →
    exec i s = .next (cx.finish i t g) ∧ (∀ pa, (cx.finish i t g).byte pa = s.byte pa) ∧
    ∃ k y x, (t.core cx.c).syms.at? k = some y ∧ y.lanes = a.lanes ∧ y.arrived = a.lanes ∧ t.team? cx.c cx.t = some x ∧
      (t.vreg cx.c x d.val).st = .symbolic ∧ (t.vreg cx.c x d.val).sym = k ∧ (t.vreg cx.c x d.val).scale = 1 ∧
      ∀ l ∈ lanesOf a.lanes, ∀ pa, e.1.fate cx.who a l = (.memory [(pa, n)], []) →
        y.vals.atD l 0 = (if sx then sext64 (8 * n) (BitVec.ofNat 64 (s.word pa n)) else BitVec.ofNat 64 (s.word pa n))

/-- `free` of a uniform address: 0 does nothing; the first address of a live allocation of the partition takes it off the partition's
allocations; any other address does nothing and sets ALLOCERR (R83, R227). -/
def Obligations.FreeReturnsAllocations : Prop :=
  ∀ (s : State) (cx : Ctx) (a : Operand), s.ready? (.freeMem a) = some cx → cx.plain64 [a] = true → uniformOp a = true →
    let v := cx.val a (lowLane cx.act)
    (v = 0 → exec (.freeMem a) s = .next (cx.finish (.freeMem a) s 0)) ∧
    (v ≠ 0 → (∀ e ∈ (s.part cx.part).live, e.base ≠ v.toNat) → exec (.freeMem a) s = .next (cx.finish (.freeMem a) s (flagAt Flag.allocerr [lowLane cx.act]))) ∧
    (v ≠ 0 → ∀ e, (s.part cx.part).live.find? (fun e => e.base == v.toNat) = some e →
      ∃ t, exec (.freeMem a) s = .next (cx.finish (.freeMem a) t 0) ∧ (t.part cx.part).live = (s.part cx.part).live.erase e ∧ t.mem = s.mem ∧
        ∀ p, p ≠ cx.part → t.part p = s.part p)

/-! Items and engines. -/

/-- The home core of a flow is bits [31:24] of (label × 0x9E37_79B9) mod 2^32, whatever its partition; flows of different partitions or
labels share no state (R31): a record written leaves those of all others as they were, but for the place where they are kept (SPL, R34; which
record is spilled is the model's choice, log entry 27). -/
def Obligations.FlowsHaveHomesAndRecordsOfTheirOwn : Prop :=
  (∀ label : BitVec 32, homeOf label.toNat = ((label * 0x9E3779B9#32).extractLsb' 24 8).toNat) ∧ homeOf 1 = 158 ∧
  ∀ (s : State) (f : FlowRecord) (q b : Nat), (f.part, f.label) ≠ (q, b) →
    { (s.setFlow f).flow q b with spl := false } = { s.flow q b with spl := false }

/-- `flow.q` reads the flow that its label names in the partition that it acts for: D := NEXTA shl 32 or NEXTR, and p15 := TOK on every active
lane; a flow that is not active reads the reset values. The model's own: the read counts as a use of the flow's
record (log entry 27, DESIGN CHOICE), the label is the operand modulo 2^32 (log entry 64, DESIGN CHOICE: R239 gives it no width), and in system mode
the instruction acts for ACTP (log entry 35, DEDUCED). -/
def Obligations.FlowQueryReadsTheFlow : Prop :=
  ∀ (s : State) (cx : Ctx) (d a : Operand), s.ready? (.flowQ d a) = some cx → cx.plain [a] = true → cx.destWaits d = false →
    let label := (cx.val a 0).toNat % 2 ^ 32
    let f := s.flow cx.part label
    exec (.flowQ d a) s = .next (cx.finish (.flowQ d a)
      (cx.writeP15 (cx.write (cx.s.touchFlow cx.part label) d (fun _ => (f.nexta.setWidth 64 <<< 32) ||| f.nextr.setWidth 64) noOrigin) fun _ => f.tok) 0) ∧
    ((∀ g ∈ s.flows, ¬ (g.part = cx.part ∧ g.label = label)) → f.nexta = 0 ∧ f.nextr = 0 ∧ f.tok = false)

/-- `trel` waits at issue for the operations of the team that name its tile register or accumulator; it then empties the tile register,
or unbinds the accumulator's name; of an empty register or an unbound name it leaves the team's claims as they are. -/
def Obligations.ReleaseWaitsThenEmpties : Prop :=
  ∀ (s : State) (cx : Ctx) (x : Operand), s.ready? (.trel x) = some cx →
    (isTile x = true → cx.pendingOp (fun k => k.namesTile (bankNumber x)) = true → exec (.trel x) s = .next (cx.stay .issue)) ∧
    (isAcc x = true → cx.pendingOp (fun k => k.namesAcc (bankNumber x)) = true → exec (.trel x) s = .next (cx.stay .issue)) ∧
    (isTile x = true → cx.pendingOp (fun k => k.namesTile (bankNumber x)) = false →
      ∃ t y, exec (.trel x) s = .next (cx.finish (.trel x) t 0) ∧ t.team? cx.c cx.t = some y ∧ y.tiles.at? (bankNumber x) = none ∧
        (∀ n, n ≠ bankNumber x → y.tiles.at? n = cx.x.tiles.at? n) ∧ y.accs = cx.x.accs) ∧
    (isAcc x = true → cx.pendingOp (fun k => k.namesAcc (bankNumber x)) = false →
      ∃ t y, exec (.trel x) s = .next (cx.finish (.trel x) t 0) ∧ t.team? cx.c cx.t = some y ∧ y.accs.at? (bankNumber x) = none ∧
        (∀ n, n ≠ bankNumber x → y.accs.at? n = cx.x.accs.at? n) ∧ y.tiles = cx.x.tiles ∧
        ∀ k, cx.x.accs.at? (bankNumber x) = some k → (t.core cx.c).accs.at? k = none)

/-- `h.wait` holds its splinter until its handle is FULL, and then writes p15 := 1 on every active lane where ERR is not OK (R293). -/
def Obligations.HandleWaitHoldsUntilFull : Prop :=
  ∀ (s : State) (cx : Ctx) (h : BitVec 6), s.ready? (.hWait h) = some cx → cx.ownsHandle h.toNat = true →
    let k := s.handle cx.c h.toNat
    (k.st ≠ .full → exec (.hWait h) s = .next (cx.stay .issue)) ∧
    (k.st = .full → beyondCore k.scope = false →
      exec (.hWait h) s = .next (cx.finish (.hWait h) (cx.writeP15 s fun _ => k.err != 0) 0))

/-! Traps. -/

/-- `trap n` raises a trap with cause SOFT and CODE n, and EPC names its group; in system mode it is a double trap. With memory settled
the handler is entered at once; else the entry waits. -/
def Obligations.SoftTraps : Prop :=
  ∀ (s : State) (cx : Ctx) (n : BitVec 12), s.ready? (.trapInstr n) = some cx →
    let cd : Condition := { cause := .soft, code := n.toNat, eiaddr := cx.iaddr, lanes := cx.act, glen := cx.len }
    (cx.sys = true → exec (.trapInstr n) s = .next (s.doubleTrap cx.c cx.t .soft 0xF cx.iaddr)) ∧
    (cx.sys = false → ∃ t y, exec (.trapInstr n) s = .next t ∧ t.team? cx.c cx.t = some y ∧
      (s.settled cx.c cx.t = true → ∃ z, y.sys = some z ∧ z.epc = cx.iaddr ∧ z.estat = estatOf cx.x.part cd cx.len ∧
        z.estat.extractLsb' 0 4 = 0#4 ∧ z.estat.extractLsb' 4 12 = n) ∧
      (s.settled cx.c cx.t = false → y.sys = none ∧ y.trap = some cd))

/-- Trap entry saves the splinter's place to EPC, the condition to ESTAT, its addresses to EADDR and EIADDR, sets ACTP to the team's
partition, and enters the handler at TVEC with a bank of zeros; the partition's lines leave the core's read cache; the team's own registers
and memory are as they were (R109, R110, R355, R356, R364). -/
def Obligations.TrapEntrySavesAndEnters : Prop :=
  ∀ (s : State) (c t : Nat) (x : Team) (cd : Condition) (p : Splinter), s.team? c t = some x → x.trap = some cd → cd.cause ≠ .arith →
    x.splinters[x.trapSpl]? = some p →
    ∃ y z, (s.enterTrap c t).team? c t = some y ∧ y.sys = some z ∧ y.trap = none ∧ z.pc = s.tvec ∧
      z.epc = (if p.half then p.pc ||| 1 else p.pc) ∧ z.estat = estatOf x.part cd cd.glen ∧ z.eaddr = cd.eaddr ∧ z.eiaddr = cd.eiaddr ∧
      z.actp = x.part ∧ z.regs = [] ∧ z.preds = 0 ∧ z.formed = false ∧ y.vregs = x.vregs ∧ y.uregs = x.uregs ∧ y.preds = x.preds ∧
      y.splinters = x.splinters ∧ y.parked = false ∧ s.SameDevice (s.enterTrap c t) ∧ s.SameOthers (s.enterTrap c t) c t ∧
      ((s.enterTrap c t).core c).cache = (s.core c).cache.filter fun e => e.1 != x.part

/-- ESTAT holds the lanes of the lowest mask word of the condition, that word, the group's length or 0, the partition, DEF, CODE and
CAUSE at their places, and reads zero elsewhere (R365). -/
def Obligations.EstatFields : Prop :=
  ∀ (part glen : Nat) (cd : Condition), part < 8 → glen < 8 → cd.code < 4096 →
    let e := estatOf part cd glen
    e.extractLsb' 32 32 = maskWord cd.lanes (lowWord cd.lanes) ∧ e.extractLsb' 27 5 = BitVec.ofNat 5 (lowWord cd.lanes) ∧
    e.extractLsb' 24 3 = (if cd.deferred then 0 else BitVec.ofNat 3 glen) ∧ e.extractLsb' 20 4 = 0 ∧ e.extractLsb' 17 3 = BitVec.ofNat 3 part ∧
    e.getLsbD 16 = cd.deferred ∧ e.extractLsb' 4 12 = BitVec.ofNat 12 cd.code ∧ e.extractLsb' 0 4 = BitVec.ofNat 4 cd.cause.code

/-- `sret` in a trapped team leaves system mode: the splinter that trapped resumes at EPC with its half bit, the other splinters and the
team's registers stand where they were, and the bank is gone (R370). -/
def Obligations.ReturnResumesAtEpc : Prop :=
  ∀ (s : State) (cx : Ctx) (z : SysCtx) (p : Splinter), s.ready? .sret = some cx → cx.x.sys = some z → z.formed = false → cx.x.dead = false →
    cx.x.splinters[z.spl]? = some p →
    ∃ t y q, exec .sret s = .next t ∧ t.team? cx.c cx.t = some y ∧ y.sys = none ∧ y.splinters[z.spl]? = some q ∧
      q.pc = z.epc &&& ~~~3#64 ∧ q.half = z.epc.getLsbD 0 ∧ q.mask = p.mask ∧
      (∀ n, n ≠ z.spl → y.splinters[n]? = cx.x.splinters[n]?) ∧ y.vregs = cx.x.vregs ∧ y.uregs = cx.x.uregs ∧ y.preds = cx.x.preds ∧
      y.pend = cx.x.pend ∧ s.SameDevice t ∧ s.SameOthers t cx.c cx.t ∧ s.SameCache t cx.c

/-- A team in system mode whose partition is terminated goes on in its handler, and its `sret` ends it. -/
def Obligations.TerminatedTeamsEndAtTheirReturn : Prop :=
  (∀ (s : State) (p c t : Nat) (x : Team), s.team? c t = some x → x.part = p → x.inSys = true → x.formed = false → t < 32 →
    ∃ y, (s.endPartition p).team? c t = some y ∧ y.dead = true ∧ y.sys = x.sys) ∧
  ∀ (s : State) (cx : Ctx), s.ready? .sret = some cx → cx.x.formed = false → cx.x.dead = true →
    ∃ t, exec .sret s = .next t ∧ t.team? cx.c cx.t = none

/-- A control register that is written within its rules reads as it was written (but FQBASE and FQHEAD, whose write goes on to retry the
held records, R88); a read-only register and a refused write change nothing, and a one written to a sticky flag clears it (R5, R364, R366,
R371). -/
def Obligations.ControlRegistersHoldWhatIsWritten : Prop :=
  ∀ (s : State) (c t : Nat) (x : Team) (r : Ctl) (v : W64),
    (r.readOnly = true ∨ s.ctlRefused r v = true → s.ctlWrite c t r v = s) ∧
    (r.readOnly = false → s.ctlRefused r v = false → match r with
      | .flags p => (s.ctlWrite c t r v).flags c p = s.flags c p &&& ~~~v.setWidth 8
      | .epc | .actp => s.team? c t = some x → ∀ z, x.sys = some z → z.formed = false →
          ∃ y, (s.ctlWrite c t r v).team? c t = some y ∧ (s.ctlWrite c t r v).ctlRead c y r = v
      | .fqbase _ | .fqhead _ => True
      | _ => (s.ctlWrite c t r v).ctlRead c x r = v)

/-- A sensor that rises through 100 °C raises one report of code 0x000A; one that reaches 110 °C raises one of code 0x000B, and the
device is then HALTED. -/
def Obligations.TemperatureReportsAndHalts : Prop :=
  ∀ (s : State) (n : Nat), s.isUp = true →
    (∃ t r, exec (.thermalWarning n) s = .next t ∧ t.reports = s.reports ++ [r] ∧ r.code = 0x000A ∧ (t.sector n).hot = true ∧
      t.power = s.power) ∧
    ∃ t r, exec (.thermalTrip n) s = .next t ∧ t.reports = s.reports ++ [r] ∧ r.code = 0x000B ∧ t.power = .halted
end

