-- ==== Sys2Proof/Laws/Decode.lean ====
section
/-!
SUPPORT. The fields of a word that was put together are those it was put together from (R168), and codes read back (R51, R54, R171,
R178-R182): one small lemma for each, which the round trips cite.
-/

namespace Sys2Proof

/-- Bits of the upper part of two joined vectors. -/
theorem extract_high {m n : Nat} (x : BitVec m) (y : BitVec n) (k s l : Nat) (h : n + s = k) :
    BitVec.extractLsb' k l (x ++ y) = BitVec.extractLsb' s l x := by
  subst h
  ext i hi
  rw [BitVec.getElem_extractLsb', BitVec.getElem_extractLsb', BitVec.getLsbD_append]
  simp only [show ¬ (n + s + i < n) by omega, if_false, show n + s + i - n = s + i by omega]

/-- Bits of the lower part of two joined vectors. -/
theorem extract_low {m n : Nat} (x : BitVec m) (y : BitVec n) (k l : Nat) (h : k + l ≤ n) :
    BitVec.extractLsb' k l (x ++ y) = BitVec.extractLsb' k l y := by
  ext i hi
  rw [BitVec.getElem_extractLsb', BitVec.getElem_extractLsb', BitVec.getLsbD_append]
  simp only [show k + i < n by omega, if_true]

/-! The formats (R168). -/

@[simp] theorem major_packA (m : BitVec 6) (d : BitVec 8) (a : BitVec 8) (b : BitVec 8) (fn : BitVec 2) :
    (packA m d a b fn).extractLsb' 26 6 = m := by
  unfold packA
  rw [extract_high _ fn 26 24 6 rfl, extract_high _ b 24 16 6 rfl, extract_high _ a 16 8 6 rfl, extract_high _ d 8 0 6 rfl]
  exact BitVec.extractLsb'_eq_self

@[simp] theorem fD_packA (m : BitVec 6) (d : BitVec 8) (a : BitVec 8) (b : BitVec 8) (fn : BitVec 2) :
    fD (packA m d a b fn) = d := by
  unfold fD packA
  rw [extract_high _ fn 18 16 8 rfl, extract_high _ b 16 8 8 rfl, extract_high _ a 8 0 8 rfl, extract_low _ d 0 8 (by omega)]
  exact BitVec.extractLsb'_eq_self

@[simp] theorem fS1_packA (m : BitVec 6) (d : BitVec 8) (a : BitVec 8) (b : BitVec 8) (fn : BitVec 2) :
    fS1 (packA m d a b fn) = a := by
  unfold fS1 packA
  rw [extract_high _ fn 10 8 8 rfl, extract_high _ b 8 0 8 rfl, extract_low _ a 0 8 (by omega)]
  exact BitVec.extractLsb'_eq_self

@[simp] theorem fS2_packA (m : BitVec 6) (d : BitVec 8) (a : BitVec 8) (b : BitVec 8) (fn : BitVec 2) :
    fS2 (packA m d a b fn) = b := by
  unfold fS2 packA
  rw [extract_high _ fn 2 0 8 rfl, extract_low _ b 0 8 (by omega)]
  exact BitVec.extractLsb'_eq_self

@[simp] theorem fFN_packA (m : BitVec 6) (d : BitVec 8) (a : BitVec 8) (b : BitVec 8) (fn : BitVec 2) :
    fFN (packA m d a b fn) = fn := by
  unfold fFN packA
  rw [extract_low _ fn 0 2 (by omega)]
  exact BitVec.extractLsb'_eq_self

@[simp] theorem major_packB (m : BitVec 6) (d : BitVec 8) (a : BitVec 8) (i : BitVec 10) :
    (packB m d a i).extractLsb' 26 6 = m := by
  unfold packB
  rw [extract_high _ i 26 16 6 rfl, extract_high _ a 16 8 6 rfl, extract_high _ d 8 0 6 rfl]
  exact BitVec.extractLsb'_eq_self

@[simp] theorem fD_packB (m : BitVec 6) (d : BitVec 8) (a : BitVec 8) (i : BitVec 10) :
    fD (packB m d a i) = d := by
  unfold fD packB
  rw [extract_high _ i 18 8 8 rfl, extract_high _ a 8 0 8 rfl, extract_low _ d 0 8 (by omega)]
  exact BitVec.extractLsb'_eq_self

@[simp] theorem fS1_packB (m : BitVec 6) (d : BitVec 8) (a : BitVec 8) (i : BitVec 10) :
    fS1 (packB m d a i) = a := by
  unfold fS1 packB
  rw [extract_high _ i 10 0 8 rfl, extract_low _ a 0 8 (by omega)]
  exact BitVec.extractLsb'_eq_self

@[simp] theorem fImm10_packB (m : BitVec 6) (d : BitVec 8) (a : BitVec 8) (i : BitVec 10) :
    fImm10 (packB m d a i) = i := by
  unfold fImm10 packB
  rw [extract_low _ i 0 10 (by omega)]
  exact BitVec.extractLsb'_eq_self

@[simp] theorem major_packC (m : BitVec 6) (d : BitVec 8) (i : BitVec 18) :
    (packC m d i).extractLsb' 26 6 = m := by
  unfold packC
  rw [extract_high _ i 26 8 6 rfl, extract_high _ d 8 0 6 rfl]
  exact BitVec.extractLsb'_eq_self

@[simp] theorem fD_packC (m : BitVec 6) (d : BitVec 8) (i : BitVec 18) :
    fD (packC m d i) = d := by
  unfold fD packC
  rw [extract_high _ i 18 0 8 rfl, extract_low _ d 0 8 (by omega)]
  exact BitVec.extractLsb'_eq_self

@[simp] theorem fImm18_packC (m : BitVec 6) (d : BitVec 8) (i : BitVec 18) :
    fImm18 (packC m d i) = i := by
  unfold fImm18 packC
  rw [extract_low _ i 0 18 (by omega)]
  exact BitVec.extractLsb'_eq_self

@[simp] theorem major_packE (m : BitVec 6) (o : BitVec 4) (x : BitVec 8) (y : BitVec 8) (z : BitVec 6) :
    (packE m o x y z).extractLsb' 26 6 = m := by
  unfold packE
  rw [extract_high _ z 26 20 6 rfl, extract_high _ y 20 12 6 rfl, extract_high _ x 12 4 6 rfl, extract_high _ o 4 0 6 rfl]
  exact BitVec.extractLsb'_eq_self

@[simp] theorem fOP4_packE (m : BitVec 6) (o : BitVec 4) (x : BitVec 8) (y : BitVec 8) (z : BitVec 6) :
    fOP4 (packE m o x y z) = o := by
  unfold fOP4 packE
  rw [extract_high _ z 22 16 4 rfl, extract_high _ y 16 8 4 rfl, extract_high _ x 8 0 4 rfl, extract_low _ o 0 4 (by omega)]
  exact BitVec.extractLsb'_eq_self

@[simp] theorem fX_packE (m : BitVec 6) (o : BitVec 4) (x : BitVec 8) (y : BitVec 8) (z : BitVec 6) :
    fX (packE m o x y z) = x := by
  unfold fX packE
  rw [extract_high _ z 14 8 8 rfl, extract_high _ y 8 0 8 rfl, extract_low _ x 0 8 (by omega)]
  exact BitVec.extractLsb'_eq_self

@[simp] theorem fY_packE (m : BitVec 6) (o : BitVec 4) (x : BitVec 8) (y : BitVec 8) (z : BitVec 6) :
    fY (packE m o x y z) = y := by
  unfold fY packE
  rw [extract_high _ z 6 0 8 rfl, extract_low _ y 0 8 (by omega)]
  exact BitVec.extractLsb'_eq_self

@[simp] theorem fZ6_packE (m : BitVec 6) (o : BitVec 4) (x : BitVec 8) (y : BitVec 8) (z : BitVec 6) :
    fZ6 (packE m o x y z) = z := by
  unfold fZ6 packE
  rw [extract_low _ z 0 6 (by omega)]
  exact BitVec.extractLsb'_eq_self

@[simp] theorem major_packF (m : BitVec 6) (p : BitVec 4) (s : BitVec 4) (c : BitVec 3) (k : BitVec 2) (z : BitVec 13) :
    (packF m p s c k z).extractLsb' 26 6 = m := by
  unfold packF
  rw [extract_high _ z 26 13 6 rfl, extract_high _ k 13 11 6 rfl, extract_high _ c 11 8 6 rfl, extract_high _ s 8 4 6 rfl, extract_high _ p 4 0 6 rfl]
  exact BitVec.extractLsb'_eq_self

@[simp] theorem fPred_packF (m : BitVec 6) (p : BitVec 4) (s : BitVec 4) (c : BitVec 3) (k : BitVec 2) (z : BitVec 13) :
    fPred (packF m p s c k z) = p := by
  unfold fPred packF
  rw [extract_high _ z 22 9 4 rfl, extract_high _ k 9 7 4 rfl, extract_high _ c 7 4 4 rfl, extract_high _ s 4 0 4 rfl, extract_low _ p 0 4 (by omega)]
  exact BitVec.extractLsb'_eq_self

@[simp] theorem fSucc_packF (m : BitVec 6) (p : BitVec 4) (s : BitVec 4) (c : BitVec 3) (k : BitVec 2) (z : BitVec 13) :
    fSucc (packF m p s c k z) = s := by
  unfold fSucc packF
  rw [extract_high _ z 18 5 4 rfl, extract_high _ k 5 3 4 rfl, extract_high _ c 3 0 4 rfl, extract_low _ s 0 4 (by omega)]
  exact BitVec.extractLsb'_eq_self

@[simp] theorem fFScope_packF (m : BitVec 6) (p : BitVec 4) (s : BitVec 4) (c : BitVec 3) (k : BitVec 2) (z : BitVec 13) :
    fFScope (packF m p s c k z) = c := by
  unfold fFScope packF
  rw [extract_high _ z 15 2 3 rfl, extract_high _ k 2 0 3 rfl, extract_low _ c 0 3 (by omega)]
  exact BitVec.extractLsb'_eq_self

@[simp] theorem fFKind_packF (m : BitVec 6) (p : BitVec 4) (s : BitVec 4) (c : BitVec 3) (k : BitVec 2) (z : BitVec 13) :
    fFKind (packF m p s c k z) = k := by
  unfold fFKind packF
  rw [extract_high _ z 13 0 2 rfl, extract_low _ k 0 2 (by omega)]
  exact BitVec.extractLsb'_eq_self

@[simp] theorem fFZero_packF (m : BitVec 6) (p : BitVec 4) (s : BitVec 4) (c : BitVec 3) (k : BitVec 2) (z : BitVec 13) :
    fFZero (packF m p s c k z) = z := by
  unfold fFZero packF
  rw [extract_low _ z 0 13 (by omega)]
  exact BitVec.extractLsb'_eq_self

@[simp] theorem major_packS (m : BitVec 6) (o : BitVec 6) (d : BitVec 8) (i : BitVec 12) :
    (packS m o d i).extractLsb' 26 6 = m := by
  unfold packS
  rw [extract_high _ i 26 14 6 rfl, extract_high _ d 14 6 6 rfl, extract_high _ o 6 0 6 rfl]
  exact BitVec.extractLsb'_eq_self

@[simp] theorem fSOP_packS (m : BitVec 6) (o : BitVec 6) (d : BitVec 8) (i : BitVec 12) :
    fSOP (packS m o d i) = o := by
  unfold fSOP packS
  rw [extract_high _ i 20 8 6 rfl, extract_high _ d 8 0 6 rfl, extract_low _ o 0 6 (by omega)]
  exact BitVec.extractLsb'_eq_self

@[simp] theorem fSD_packS (m : BitVec 6) (o : BitVec 6) (d : BitVec 8) (i : BitVec 12) :
    fSD (packS m o d i) = d := by
  unfold fSD packS
  rw [extract_high _ i 12 0 8 rfl, extract_low _ d 0 8 (by omega)]
  exact BitVec.extractLsb'_eq_self

@[simp] theorem fImm12_packS (m : BitVec 6) (o : BitVec 6) (d : BitVec 8) (i : BitVec 12) :
    fImm12 (packS m o d i) = i := by
  unfold fImm12 packS
  rw [extract_low _ i 0 12 (by omega)]
  exact BitVec.extractLsb'_eq_self

@[simp] theorem major_packK (m : BitVec 6) (h : BitVec 10) (o : BitVec 6) (l : BitVec 10) :
    (packK m h o l).extractLsb' 26 6 = m := by
  unfold packK
  rw [extract_high _ l 26 16 6 rfl, extract_high _ o 16 10 6 rfl, extract_high _ h 10 0 6 rfl]
  exact BitVec.extractLsb'_eq_self

@[simp] theorem fHi_packK (m : BitVec 6) (h : BitVec 10) (o : BitVec 6) (l : BitVec 10) :
    fHi (packK m h o l) = h := by
  unfold fHi packK
  rw [extract_high _ l 16 6 10 rfl, extract_high _ o 6 0 10 rfl, extract_low _ h 0 10 (by omega)]
  exact BitVec.extractLsb'_eq_self

@[simp] theorem fOnes_packK (m : BitVec 6) (h : BitVec 10) (o : BitVec 6) (l : BitVec 10) :
    fOnes (packK m h o l) = o := by
  unfold fOnes packK
  rw [extract_high _ l 10 0 6 rfl, extract_low _ o 0 6 (by omega)]
  exact BitVec.extractLsb'_eq_self

@[simp] theorem fImm10_packK (m : BitVec 6) (h : BitVec 10) (o : BitVec 6) (l : BitVec 10) :
    fImm10 (packK m h o l) = l := by
  unfold fImm10 packK
  rw [extract_low _ l 0 10 (by omega)]
  exact BitVec.extractLsb'_eq_self

/-! Codes. -/

@[simp] theorem opOf_opCode (o : Operand) : opOf (opCode o) = some o := by
  cases o <;> first | rfl | (rename_i n; revert n; decide +kernel)

@[simp] theorem scopeOf_code (s : Scope) : scopeOf s.code = some s := by cases s <;> rfl

/-- A code that is read is the code of what was read. -/
theorem opCode_of_opOf {c : BitVec 8} {o : Operand} (h : opOf c = some o) : opCode o = c := by
  revert h o
  revert c
  decide +kernel

theorem code_of_scopeOf {c : BitVec 3} {s : Scope} (h : scopeOf c = some s) : s.code = c := by
  revert h s
  revert c
  decide +kernel

/-- Code 0xFF is that of the operand that is not there. -/
@[simp] theorem opCode_eq_ff (o : Operand) : opCode o = 0xFF#8 ↔ o = .zero := by
  constructor
  · intro h
    have := opOf_opCode o
    rw [h] at this
    exact Option.some.inj (this.symm.trans (by decide +kernel))
  · rintro rfl; rfl

end Sys2Proof
end

