-- ==== Sys2Proof/Laws/Sparse.lean ====
section
/-!
SUPPORT. Sparse tables: reading after writing, and the canonical form kept by every operation.
-/

namespace Sys2Proof.SMap

variable {α : Type}

@[simp] theorem at?_nil (k : Nat) : at? ([] : SMap α) k = none := rfl

@[simp] theorem at?_put_self (m : SMap α) (k : Nat) (v : α) : at? (put m k v) k = some v := by
  induction m with
  | nil => simp [put, at?]
  | cons e r ih =>
    obtain ⟨j, w⟩ := e
    unfold put
    split
    · simp [at?]
    · split
      · simp [at?]
      · rename_i h; simp [at?, show ¬ j = k from fun h' => h h'.symm, ih]

@[simp] theorem at?_put_ne (m : SMap α) {j k : Nat} (v : α) (h : j ≠ k) : at? (put m k v) j = at? m j := by
  induction m with
  | nil => simp [put, at?, Ne.symm h]
  | cons e r ih =>
    obtain ⟨i, w⟩ := e
    unfold put
    split
    · simp [at?, Ne.symm h]
    · split
      · rename_i h'; subst h'; simp [at?, Ne.symm h]
      · simp only [at?]; split <;> simp [ih]

theorem at?_put (m : SMap α) (j k : Nat) (v : α) : at? (put m k v) j = if j = k then some v else at? m j := by
  split
  · subst_vars; simp
  · simp [*]

@[simp] theorem at?_del_self (m : SMap α) (k : Nat) : at? (del m k) k = none := by
  induction m with
  | nil => rfl
  | cons e r ih =>
    obtain ⟨i, w⟩ := e
    unfold del at *
    by_cases h : i = k
    · simpa [h] using ih
    · simp [at?, h, ih]

@[simp] theorem at?_del_ne (m : SMap α) {j k : Nat} (h : j ≠ k) : at? (del m k) j = at? m j := by
  induction m with
  | nil => rfl
  | cons e r ih =>
    obtain ⟨i, w⟩ := e
    unfold del at *
    by_cases h' : i = k
    · subst h'; simp [at?, Ne.symm h, ih]
    · simp only [List.filter_cons, bne_iff_ne, ne_eq, h', not_false_eq_true, if_true, at?]; split <;> simp [ih]

@[simp] theorem atD_put_self (m : SMap α) (k : Nat) (v d : α) : atD (put m k v) k d = v := by simp [atD]

@[simp] theorem atD_put_ne (m : SMap α) {j k : Nat} (v d : α) (h : j ≠ k) : atD (put m k v) j d = atD m j d := by simp [atD, h]

variable [DecidableEq α]

@[simp] theorem atD_store_self (d : α) (m : SMap α) (k : Nat) (v : α) : atD (store d m k v) k d = v := by
  unfold store
  split
  · subst_vars; simp [atD]
  · simp

@[simp] theorem atD_store_ne (d : α) (m : SMap α) {j k : Nat} (v e : α) (h : j ≠ k) : atD (store d m k v) j e = atD m j e := by
  unfold store
  split <;> simp [atD, h]

theorem atD_store (d : α) (m : SMap α) (j k : Nat) (v : α) : atD (store d m k v) j d = if j = k then v else atD m j d := by
  split
  · subst_vars; simp
  · simp [*]

/-! The canonical form. -/

theorem canonFrom_mono {d : α} {lo hi : Nat} (h : lo ≤ hi) : ∀ {m : SMap α}, canonFrom d hi m = true → canonFrom d lo m = true
  | [], _ => rfl
  | (k, v) :: r, c => by
    simp only [canonFrom, Bool.and_eq_true, decide_eq_true_eq] at c ⊢
    exact ⟨⟨by omega, c.1.2⟩, c.2⟩

theorem canonFrom_put {d v : α} (hv : v ≠ d) : ∀ {m : SMap α} {lo k : Nat}, lo ≤ k → canonFrom d lo m = true → canonFrom d lo (put m k v) = true
  | [], _, _, h, _ => by simp [put, canonFrom, h, hv]
  | (j, w) :: r, lo, k, h, c => by
    simp only [canonFrom, Bool.and_eq_true, decide_eq_true_eq] at c
    unfold put
    split
    · rename_i hk
      simp only [canonFrom, Bool.and_eq_true, decide_eq_true_eq]
      exact ⟨⟨h, hv⟩, ⟨⟨hk, c.1.2⟩, c.2⟩⟩
    · split
      · subst_vars
        simp only [canonFrom, Bool.and_eq_true, decide_eq_true_eq]
        exact ⟨⟨h, hv⟩, c.2⟩
      · simp only [canonFrom, Bool.and_eq_true, decide_eq_true_eq]
        exact ⟨⟨c.1.1, c.1.2⟩, canonFrom_put hv (by omega) c.2⟩

theorem canonFrom_filter {d : α} (p : Nat × α → Bool) : ∀ {m : SMap α} {lo : Nat}, canonFrom d lo m = true → canonFrom d lo (m.filter p) = true
  | [], _, _ => rfl
  | (j, w) :: r, lo, c => by
    simp only [canonFrom, Bool.and_eq_true, decide_eq_true_eq] at c
    rw [List.filter_cons]
    split
    · simp only [canonFrom, Bool.and_eq_true, decide_eq_true_eq]
      exact ⟨c.1, canonFrom_filter p c.2⟩
    · exact canonFrom_mono (by omega) (canonFrom_filter p c.2)

theorem canon_filter {d : α} (p : Nat × α → Bool) {m : SMap α} (h : canon d m = true) : canon d (m.filter p) = true := canonFrom_filter p h

theorem canon_store {d : α} {m : SMap α} (k : Nat) (v : α) (h : canon d m = true) : canon d (store d m k v) = true := by
  unfold store
  split
  · exact canonFrom_filter _ h
  · exact canonFrom_put ‹_› (Nat.zero_le _) h

/-- Two tables in canonical form that read alike are the same data. -/
theorem canonFrom_ext {d : α} : ∀ {m n : SMap α} {lo : Nat}, canonFrom d lo m = true → canonFrom d lo n = true →
    (∀ k, lo ≤ k → atD m k d = atD n k d) → m = n := by
  have low : ∀ {m : SMap α} {lo k : Nat}, canonFrom d lo m = true → k < lo → atD m k d = d := by
    intro m
    induction m with
    | nil => intros; rfl
    | cons e r ih =>
      intro lo k c h
      obtain ⟨j, w⟩ := e
      simp only [canonFrom, Bool.and_eq_true, decide_eq_true_eq] at c
      have : atD ((j, w) :: r) k d = atD r k d := by simp [atD, at?, show ¬ j = k by omega]
      rw [this]
      exact ih c.2 (by omega)
  intro m
  induction m with
  | nil =>
    intro n lo _ cn h
    cases n with
    | nil => rfl
    | cons e r =>
      obtain ⟨j, w⟩ := e
      simp only [canonFrom, Bool.and_eq_true, decide_eq_true_eq] at cn
      have := h j cn.1.1
      simp [atD, at?] at this
      exact absurd this.symm cn.1.2
  | cons e r ih =>
    intro n lo cm cn h
    obtain ⟨j, w⟩ := e
    cases n with
    | nil =>
      simp only [canonFrom, Bool.and_eq_true, decide_eq_true_eq] at cm
      have := h j cm.1.1
      simp [atD, at?] at this
      exact absurd this cm.1.2
    | cons e' r' =>
      obtain ⟨i, x⟩ := e'
      simp only [canonFrom, Bool.and_eq_true, decide_eq_true_eq] at cm cn
      have tail : ∀ {a b : Nat} {y : α} {q : SMap α}, a ≠ b → atD ((a, y) :: q) b d = atD q b d := by
        intro a b y q hne; simp [atD, at?, hne]
      have head : ∀ {a : Nat} {y : α} {q : SMap α}, atD ((a, y) :: q) a d = y := by intros; simp [atD, at?]
      have ji : j = i := by
        rcases Nat.lt_trichotomy j i with l | l | l
        · have := h j cm.1.1
          rw [head, tail (by omega), low cn.2 (by omega)] at this
          exact absurd this cm.1.2
        · exact l
        · have := h i cn.1.1
          rw [head, tail (by omega), low cm.2 (by omega)] at this
          exact absurd this.symm cn.1.2
      subst ji
      have wx : w = x := by simpa [head] using h j cm.1.1
      subst wx
      rw [ih cm.2 cn.2 fun k hk => by simpa [tail (show j ≠ k by omega)] using h k (by omega)]

theorem canon_ext {d : α} {m n : SMap α} (hm : canon d m = true) (hn : canon d n = true) (h : ∀ k, atD m k d = atD n k d) : m = n :=
  canonFrom_ext hm hn fun k _ => h k

end Sys2Proof.SMap
end

