-- ==== Sys2Proof/Laws/State.lean ====
section
/-!
SUPPORT. What each update of the state leaves: one lemma for each field and each update, and reading back what was written.
-/

namespace Sys2Proof.Machine.State

open Sys2Proof

/-! `setCore` leaves all but `cores`. -/

@[simp] theorem setCore_mem (s : State) (c : Nat) (k : Core) : (s.setCore c k).mem = s.mem := rfl
@[simp] theorem setCore_poisoned (s : State) (c : Nat) (k : Core) : (s.setCore c k).poisoned = s.poisoned := rfl
@[simp] theorem setCore_clock (s : State) (c : Nat) (k : Core) : (s.setCore c k).clock = s.clock := rfl
@[simp] theorem setCore_power (s : State) (c : Nat) (k : Core) : (s.setCore c k).power = s.power := rfl
@[simp] theorem setCore_retry (s : State) (c : Nat) (k : Core) : (s.setCore c k).retry = s.retry := rfl
@[simp] theorem setCore_retryAt (s : State) (c : Nat) (k : Core) : (s.setCore c k).retryAt = s.retryAt := rfl
@[simp] theorem setCore_window (s : State) (c : Nat) (k : Core) : (s.setCore c k).window = s.window := rfl
@[simp] theorem setCore_fwLoad (s : State) (c : Nat) (k : Core) : (s.setCore c k).fwLoad = s.fwLoad := rfl
@[simp] theorem setCore_fwLen (s : State) (c : Nat) (k : Core) : (s.setCore c k).fwLen = s.fwLen := rfl
@[simp] theorem setCore_stageBody (s : State) (c : Nat) (k : Core) : (s.setCore c k).stageBody = s.stageBody := rfl
@[simp] theorem setCore_attLog (s : State) (c : Nat) (k : Core) : (s.setCore c k).attLog = s.attLog := rfl
@[simp] theorem setCore_reports (s : State) (c : Nat) (k : Core) : (s.setCore c k).reports = s.reports := rfl
@[simp] theorem setCore_softErrors (s : State) (c : Nat) (k : Core) : (s.setCore c k).softErrors = s.softErrors := rfl
@[simp] theorem setCore_sysroot (s : State) (c : Nat) (k : Core) : (s.setCore c k).sysroot = s.sysroot := rfl
@[simp] theorem setCore_sysent (s : State) (c : Nat) (k : Core) : (s.setCore c k).sysent = s.sysent := rfl
@[simp] theorem setCore_tvec (s : State) (c : Nat) (k : Core) : (s.setCore c k).tvec = s.tvec := rfl
@[simp] theorem setCore_ftag (s : State) (c : Nat) (k : Core) : (s.setCore c k).ftag = s.ftag := rfl
@[simp] theorem setCore_devid (s : State) (c : Nat) (k : Core) : (s.setCore c k).devid = s.devid := rfl
@[simp] theorem setCore_sectors (s : State) (c : Nat) (k : Core) : (s.setCore c k).sectors = s.sectors := rfl
@[simp] theorem setCore_devBars (s : State) (c : Nat) (k : Core) : (s.setCore c k).devBars = s.devBars := rfl
@[simp] theorem setCore_parts (s : State) (c : Nat) (k : Core) : (s.setCore c k).parts = s.parts := rfl
@[simp] theorem setCore_counters (s : State) (c : Nat) (k : Core) : (s.setCore c k).counters = s.counters := rfl
@[simp] theorem setCore_parkedItems (s : State) (c : Nat) (k : Core) : (s.setCore c k).parkedItems = s.parkedItems := rfl
@[simp] theorem setCore_offers (s : State) (c : Nat) (k : Core) : (s.setCore c k).offers = s.offers := rfl
@[simp] theorem setCore_heap (s : State) (c : Nat) (k : Core) : (s.setCore c k).heap = s.heap := rfl
@[simp] theorem setCore_flows (s : State) (c : Nat) (k : Core) : (s.setCore c k).flows = s.flows := rfl
@[simp] theorem setCore_flowClock (s : State) (c : Nat) (k : Core) : (s.setCore c k).flowClock = s.flowClock := rfl
@[simp] theorem setCore_tickets (s : State) (c : Nat) (k : Core) : (s.setCore c k).tickets = s.tickets := rfl
@[simp] theorem setCore_groups (s : State) (c : Nat) (k : Core) : (s.setCore c k).groups = s.groups := rfl
@[simp] theorem setCore_txs (s : State) (c : Nat) (k : Core) : (s.setCore c k).txs = s.txs := rfl
@[simp] theorem setCore_tagCtr (s : State) (c : Nat) (k : Core) : (s.setCore c k).tagCtr = s.tagCtr := rfl
@[simp] theorem setCore_out (s : State) (c : Nat) (k : Core) : (s.setCore c k).out = s.out := rfl
@[simp] theorem setCore_toSelf (s : State) (c : Nat) (k : Core) : (s.setCore c k).toSelf = s.toSelf := rfl
@[simp] theorem setCore_mgmt (s : State) (c : Nat) (k : Core) : (s.setCore c k).mgmt = s.mgmt := rfl
@[simp] theorem setCore_vlan (s : State) (c : Nat) (k : Core) : (s.setCore c k).vlan = s.vlan := rfl
@[simp] theorem setCore_mgmtKey (s : State) (c : Nat) (k : Core) : (s.setCore c k).mgmtKey = s.mgmtKey := rfl
@[simp] theorem setCore_mgmtSent (s : State) (c : Nat) (k : Core) : (s.setCore c k).mgmtSent = s.mgmtSent := rfl
@[simp] theorem setCore_sampled (s : State) (c : Nat) (k : Core) : (s.setCore c k).sampled = s.sampled := rfl
@[simp] theorem setCore_links (s : State) (c : Nat) (k : Core) : (s.setCore c k).links = s.links := rfl
@[simp] theorem setCore_cols (s : State) (c : Nat) (k : Core) : (s.setCore c k).cols = s.cols := rfl
@[simp] theorem setCore_rows (s : State) (c : Nat) (k : Core) : (s.setCore c k).rows = s.rows := rfl
@[simp] theorem setCore_ports (s : State) (c : Nat) (k : Core) : (s.setCore c k).ports = s.ports := rfl
@[simp] theorem setCore_ueKeys (s : State) (c : Nat) (k : Core) : (s.setCore c k).ueKeys = s.ueKeys := rfl
@[simp] theorem setCore_ueSent (s : State) (c : Nat) (k : Core) : (s.setCore c k).ueSent = s.ueSent := rfl
@[simp] theorem setCore_mcasts (s : State) (c : Nat) (k : Core) : (s.setCore c k).mcasts = s.mcasts := rfl
@[simp] theorem setCore_tlb (s : State) (c : Nat) (k : Core) : (s.setCore c k).tlb = s.tlb := rfl
@[simp] theorem setCore_walked (s : State) (c : Nat) (k : Core) : (s.setCore c k).walked = s.walked := rfl
@[simp] theorem setCore_loads (s : State) (c : Nat) (k : Core) : (s.setCore c k).loads = s.loads := rfl
@[simp] theorem setCore_agenda (s : State) (c : Nat) (k : Core) : (s.setCore c k).agenda = s.agenda := rfl
@[simp] theorem setCore_cur (s : State) (c : Nat) (k : Core) : (s.setCore c k).cur = s.cur := rfl
@[simp] theorem setCore_fresh (s : State) (c : Nat) (k : Core) : (s.setCore c k).fresh = s.fresh := rfl

/-! `onCore` leaves all but `cores`. -/

@[simp] theorem onCore_mem (s : State) (c : Nat) (f : Core → Core) : (s.onCore c f).mem = s.mem := rfl
@[simp] theorem onCore_poisoned (s : State) (c : Nat) (f : Core → Core) : (s.onCore c f).poisoned = s.poisoned := rfl
@[simp] theorem onCore_clock (s : State) (c : Nat) (f : Core → Core) : (s.onCore c f).clock = s.clock := rfl
@[simp] theorem onCore_power (s : State) (c : Nat) (f : Core → Core) : (s.onCore c f).power = s.power := rfl
@[simp] theorem onCore_retry (s : State) (c : Nat) (f : Core → Core) : (s.onCore c f).retry = s.retry := rfl
@[simp] theorem onCore_retryAt (s : State) (c : Nat) (f : Core → Core) : (s.onCore c f).retryAt = s.retryAt := rfl
@[simp] theorem onCore_window (s : State) (c : Nat) (f : Core → Core) : (s.onCore c f).window = s.window := rfl
@[simp] theorem onCore_fwLoad (s : State) (c : Nat) (f : Core → Core) : (s.onCore c f).fwLoad = s.fwLoad := rfl
@[simp] theorem onCore_fwLen (s : State) (c : Nat) (f : Core → Core) : (s.onCore c f).fwLen = s.fwLen := rfl
@[simp] theorem onCore_stageBody (s : State) (c : Nat) (f : Core → Core) : (s.onCore c f).stageBody = s.stageBody := rfl
@[simp] theorem onCore_attLog (s : State) (c : Nat) (f : Core → Core) : (s.onCore c f).attLog = s.attLog := rfl
@[simp] theorem onCore_reports (s : State) (c : Nat) (f : Core → Core) : (s.onCore c f).reports = s.reports := rfl
@[simp] theorem onCore_softErrors (s : State) (c : Nat) (f : Core → Core) : (s.onCore c f).softErrors = s.softErrors := rfl
@[simp] theorem onCore_sysroot (s : State) (c : Nat) (f : Core → Core) : (s.onCore c f).sysroot = s.sysroot := rfl
@[simp] theorem onCore_sysent (s : State) (c : Nat) (f : Core → Core) : (s.onCore c f).sysent = s.sysent := rfl
@[simp] theorem onCore_tvec (s : State) (c : Nat) (f : Core → Core) : (s.onCore c f).tvec = s.tvec := rfl
@[simp] theorem onCore_ftag (s : State) (c : Nat) (f : Core → Core) : (s.onCore c f).ftag = s.ftag := rfl
@[simp] theorem onCore_devid (s : State) (c : Nat) (f : Core → Core) : (s.onCore c f).devid = s.devid := rfl
@[simp] theorem onCore_sectors (s : State) (c : Nat) (f : Core → Core) : (s.onCore c f).sectors = s.sectors := rfl
@[simp] theorem onCore_devBars (s : State) (c : Nat) (f : Core → Core) : (s.onCore c f).devBars = s.devBars := rfl
@[simp] theorem onCore_parts (s : State) (c : Nat) (f : Core → Core) : (s.onCore c f).parts = s.parts := rfl
@[simp] theorem onCore_counters (s : State) (c : Nat) (f : Core → Core) : (s.onCore c f).counters = s.counters := rfl
@[simp] theorem onCore_parkedItems (s : State) (c : Nat) (f : Core → Core) : (s.onCore c f).parkedItems = s.parkedItems := rfl
@[simp] theorem onCore_offers (s : State) (c : Nat) (f : Core → Core) : (s.onCore c f).offers = s.offers := rfl
@[simp] theorem onCore_heap (s : State) (c : Nat) (f : Core → Core) : (s.onCore c f).heap = s.heap := rfl
@[simp] theorem onCore_flows (s : State) (c : Nat) (f : Core → Core) : (s.onCore c f).flows = s.flows := rfl
@[simp] theorem onCore_flowClock (s : State) (c : Nat) (f : Core → Core) : (s.onCore c f).flowClock = s.flowClock := rfl
@[simp] theorem onCore_tickets (s : State) (c : Nat) (f : Core → Core) : (s.onCore c f).tickets = s.tickets := rfl
@[simp] theorem onCore_groups (s : State) (c : Nat) (f : Core → Core) : (s.onCore c f).groups = s.groups := rfl
@[simp] theorem onCore_txs (s : State) (c : Nat) (f : Core → Core) : (s.onCore c f).txs = s.txs := rfl
@[simp] theorem onCore_tagCtr (s : State) (c : Nat) (f : Core → Core) : (s.onCore c f).tagCtr = s.tagCtr := rfl
@[simp] theorem onCore_out (s : State) (c : Nat) (f : Core → Core) : (s.onCore c f).out = s.out := rfl
@[simp] theorem onCore_toSelf (s : State) (c : Nat) (f : Core → Core) : (s.onCore c f).toSelf = s.toSelf := rfl
@[simp] theorem onCore_mgmt (s : State) (c : Nat) (f : Core → Core) : (s.onCore c f).mgmt = s.mgmt := rfl
@[simp] theorem onCore_vlan (s : State) (c : Nat) (f : Core → Core) : (s.onCore c f).vlan = s.vlan := rfl
@[simp] theorem onCore_mgmtKey (s : State) (c : Nat) (f : Core → Core) : (s.onCore c f).mgmtKey = s.mgmtKey := rfl
@[simp] theorem onCore_mgmtSent (s : State) (c : Nat) (f : Core → Core) : (s.onCore c f).mgmtSent = s.mgmtSent := rfl
@[simp] theorem onCore_sampled (s : State) (c : Nat) (f : Core → Core) : (s.onCore c f).sampled = s.sampled := rfl
@[simp] theorem onCore_links (s : State) (c : Nat) (f : Core → Core) : (s.onCore c f).links = s.links := rfl
@[simp] theorem onCore_cols (s : State) (c : Nat) (f : Core → Core) : (s.onCore c f).cols = s.cols := rfl
@[simp] theorem onCore_rows (s : State) (c : Nat) (f : Core → Core) : (s.onCore c f).rows = s.rows := rfl
@[simp] theorem onCore_ports (s : State) (c : Nat) (f : Core → Core) : (s.onCore c f).ports = s.ports := rfl
@[simp] theorem onCore_ueKeys (s : State) (c : Nat) (f : Core → Core) : (s.onCore c f).ueKeys = s.ueKeys := rfl
@[simp] theorem onCore_ueSent (s : State) (c : Nat) (f : Core → Core) : (s.onCore c f).ueSent = s.ueSent := rfl
@[simp] theorem onCore_mcasts (s : State) (c : Nat) (f : Core → Core) : (s.onCore c f).mcasts = s.mcasts := rfl
@[simp] theorem onCore_tlb (s : State) (c : Nat) (f : Core → Core) : (s.onCore c f).tlb = s.tlb := rfl
@[simp] theorem onCore_walked (s : State) (c : Nat) (f : Core → Core) : (s.onCore c f).walked = s.walked := rfl
@[simp] theorem onCore_loads (s : State) (c : Nat) (f : Core → Core) : (s.onCore c f).loads = s.loads := rfl
@[simp] theorem onCore_agenda (s : State) (c : Nat) (f : Core → Core) : (s.onCore c f).agenda = s.agenda := rfl
@[simp] theorem onCore_cur (s : State) (c : Nat) (f : Core → Core) : (s.onCore c f).cur = s.cur := rfl
@[simp] theorem onCore_fresh (s : State) (c : Nat) (f : Core → Core) : (s.onCore c f).fresh = s.fresh := rfl

/-! `onSector` leaves all but `sectors`. -/

@[simp] theorem onSector_mem (s : State) (n : Nat) (f : Sector → Sector) : (s.onSector n f).mem = s.mem := rfl
@[simp] theorem onSector_poisoned (s : State) (n : Nat) (f : Sector → Sector) : (s.onSector n f).poisoned = s.poisoned := rfl
@[simp] theorem onSector_clock (s : State) (n : Nat) (f : Sector → Sector) : (s.onSector n f).clock = s.clock := rfl
@[simp] theorem onSector_power (s : State) (n : Nat) (f : Sector → Sector) : (s.onSector n f).power = s.power := rfl
@[simp] theorem onSector_retry (s : State) (n : Nat) (f : Sector → Sector) : (s.onSector n f).retry = s.retry := rfl
@[simp] theorem onSector_retryAt (s : State) (n : Nat) (f : Sector → Sector) : (s.onSector n f).retryAt = s.retryAt := rfl
@[simp] theorem onSector_window (s : State) (n : Nat) (f : Sector → Sector) : (s.onSector n f).window = s.window := rfl
@[simp] theorem onSector_fwLoad (s : State) (n : Nat) (f : Sector → Sector) : (s.onSector n f).fwLoad = s.fwLoad := rfl
@[simp] theorem onSector_fwLen (s : State) (n : Nat) (f : Sector → Sector) : (s.onSector n f).fwLen = s.fwLen := rfl
@[simp] theorem onSector_stageBody (s : State) (n : Nat) (f : Sector → Sector) : (s.onSector n f).stageBody = s.stageBody := rfl
@[simp] theorem onSector_attLog (s : State) (n : Nat) (f : Sector → Sector) : (s.onSector n f).attLog = s.attLog := rfl
@[simp] theorem onSector_reports (s : State) (n : Nat) (f : Sector → Sector) : (s.onSector n f).reports = s.reports := rfl
@[simp] theorem onSector_softErrors (s : State) (n : Nat) (f : Sector → Sector) : (s.onSector n f).softErrors = s.softErrors := rfl
@[simp] theorem onSector_sysroot (s : State) (n : Nat) (f : Sector → Sector) : (s.onSector n f).sysroot = s.sysroot := rfl
@[simp] theorem onSector_sysent (s : State) (n : Nat) (f : Sector → Sector) : (s.onSector n f).sysent = s.sysent := rfl
@[simp] theorem onSector_tvec (s : State) (n : Nat) (f : Sector → Sector) : (s.onSector n f).tvec = s.tvec := rfl
@[simp] theorem onSector_ftag (s : State) (n : Nat) (f : Sector → Sector) : (s.onSector n f).ftag = s.ftag := rfl
@[simp] theorem onSector_devid (s : State) (n : Nat) (f : Sector → Sector) : (s.onSector n f).devid = s.devid := rfl
@[simp] theorem onSector_cores (s : State) (n : Nat) (f : Sector → Sector) : (s.onSector n f).cores = s.cores := rfl
@[simp] theorem onSector_devBars (s : State) (n : Nat) (f : Sector → Sector) : (s.onSector n f).devBars = s.devBars := rfl
@[simp] theorem onSector_parts (s : State) (n : Nat) (f : Sector → Sector) : (s.onSector n f).parts = s.parts := rfl
@[simp] theorem onSector_counters (s : State) (n : Nat) (f : Sector → Sector) : (s.onSector n f).counters = s.counters := rfl
@[simp] theorem onSector_parkedItems (s : State) (n : Nat) (f : Sector → Sector) : (s.onSector n f).parkedItems = s.parkedItems := rfl
@[simp] theorem onSector_offers (s : State) (n : Nat) (f : Sector → Sector) : (s.onSector n f).offers = s.offers := rfl
@[simp] theorem onSector_heap (s : State) (n : Nat) (f : Sector → Sector) : (s.onSector n f).heap = s.heap := rfl
@[simp] theorem onSector_flows (s : State) (n : Nat) (f : Sector → Sector) : (s.onSector n f).flows = s.flows := rfl
@[simp] theorem onSector_flowClock (s : State) (n : Nat) (f : Sector → Sector) : (s.onSector n f).flowClock = s.flowClock := rfl
@[simp] theorem onSector_tickets (s : State) (n : Nat) (f : Sector → Sector) : (s.onSector n f).tickets = s.tickets := rfl
@[simp] theorem onSector_groups (s : State) (n : Nat) (f : Sector → Sector) : (s.onSector n f).groups = s.groups := rfl
@[simp] theorem onSector_txs (s : State) (n : Nat) (f : Sector → Sector) : (s.onSector n f).txs = s.txs := rfl
@[simp] theorem onSector_tagCtr (s : State) (n : Nat) (f : Sector → Sector) : (s.onSector n f).tagCtr = s.tagCtr := rfl
@[simp] theorem onSector_out (s : State) (n : Nat) (f : Sector → Sector) : (s.onSector n f).out = s.out := rfl
@[simp] theorem onSector_toSelf (s : State) (n : Nat) (f : Sector → Sector) : (s.onSector n f).toSelf = s.toSelf := rfl
@[simp] theorem onSector_mgmt (s : State) (n : Nat) (f : Sector → Sector) : (s.onSector n f).mgmt = s.mgmt := rfl
@[simp] theorem onSector_vlan (s : State) (n : Nat) (f : Sector → Sector) : (s.onSector n f).vlan = s.vlan := rfl
@[simp] theorem onSector_mgmtKey (s : State) (n : Nat) (f : Sector → Sector) : (s.onSector n f).mgmtKey = s.mgmtKey := rfl
@[simp] theorem onSector_mgmtSent (s : State) (n : Nat) (f : Sector → Sector) : (s.onSector n f).mgmtSent = s.mgmtSent := rfl
@[simp] theorem onSector_sampled (s : State) (n : Nat) (f : Sector → Sector) : (s.onSector n f).sampled = s.sampled := rfl
@[simp] theorem onSector_links (s : State) (n : Nat) (f : Sector → Sector) : (s.onSector n f).links = s.links := rfl
@[simp] theorem onSector_cols (s : State) (n : Nat) (f : Sector → Sector) : (s.onSector n f).cols = s.cols := rfl
@[simp] theorem onSector_rows (s : State) (n : Nat) (f : Sector → Sector) : (s.onSector n f).rows = s.rows := rfl
@[simp] theorem onSector_ports (s : State) (n : Nat) (f : Sector → Sector) : (s.onSector n f).ports = s.ports := rfl
@[simp] theorem onSector_ueKeys (s : State) (n : Nat) (f : Sector → Sector) : (s.onSector n f).ueKeys = s.ueKeys := rfl
@[simp] theorem onSector_ueSent (s : State) (n : Nat) (f : Sector → Sector) : (s.onSector n f).ueSent = s.ueSent := rfl
@[simp] theorem onSector_mcasts (s : State) (n : Nat) (f : Sector → Sector) : (s.onSector n f).mcasts = s.mcasts := rfl
@[simp] theorem onSector_tlb (s : State) (n : Nat) (f : Sector → Sector) : (s.onSector n f).tlb = s.tlb := rfl
@[simp] theorem onSector_walked (s : State) (n : Nat) (f : Sector → Sector) : (s.onSector n f).walked = s.walked := rfl
@[simp] theorem onSector_loads (s : State) (n : Nat) (f : Sector → Sector) : (s.onSector n f).loads = s.loads := rfl
@[simp] theorem onSector_agenda (s : State) (n : Nat) (f : Sector → Sector) : (s.onSector n f).agenda = s.agenda := rfl
@[simp] theorem onSector_cur (s : State) (n : Nat) (f : Sector → Sector) : (s.onSector n f).cur = s.cur := rfl
@[simp] theorem onSector_fresh (s : State) (n : Nat) (f : Sector → Sector) : (s.onSector n f).fresh = s.fresh := rfl

/-! `onPart` leaves all but `parts`. -/

@[simp] theorem onPart_mem (s : State) (p : Nat) (f : Partition → Partition) : (s.onPart p f).mem = s.mem := rfl
@[simp] theorem onPart_poisoned (s : State) (p : Nat) (f : Partition → Partition) : (s.onPart p f).poisoned = s.poisoned := rfl
@[simp] theorem onPart_clock (s : State) (p : Nat) (f : Partition → Partition) : (s.onPart p f).clock = s.clock := rfl
@[simp] theorem onPart_power (s : State) (p : Nat) (f : Partition → Partition) : (s.onPart p f).power = s.power := rfl
@[simp] theorem onPart_retry (s : State) (p : Nat) (f : Partition → Partition) : (s.onPart p f).retry = s.retry := rfl
@[simp] theorem onPart_retryAt (s : State) (p : Nat) (f : Partition → Partition) : (s.onPart p f).retryAt = s.retryAt := rfl
@[simp] theorem onPart_window (s : State) (p : Nat) (f : Partition → Partition) : (s.onPart p f).window = s.window := rfl
@[simp] theorem onPart_fwLoad (s : State) (p : Nat) (f : Partition → Partition) : (s.onPart p f).fwLoad = s.fwLoad := rfl
@[simp] theorem onPart_fwLen (s : State) (p : Nat) (f : Partition → Partition) : (s.onPart p f).fwLen = s.fwLen := rfl
@[simp] theorem onPart_stageBody (s : State) (p : Nat) (f : Partition → Partition) : (s.onPart p f).stageBody = s.stageBody := rfl
@[simp] theorem onPart_attLog (s : State) (p : Nat) (f : Partition → Partition) : (s.onPart p f).attLog = s.attLog := rfl
@[simp] theorem onPart_reports (s : State) (p : Nat) (f : Partition → Partition) : (s.onPart p f).reports = s.reports := rfl
@[simp] theorem onPart_softErrors (s : State) (p : Nat) (f : Partition → Partition) : (s.onPart p f).softErrors = s.softErrors := rfl
@[simp] theorem onPart_sysroot (s : State) (p : Nat) (f : Partition → Partition) : (s.onPart p f).sysroot = s.sysroot := rfl
@[simp] theorem onPart_sysent (s : State) (p : Nat) (f : Partition → Partition) : (s.onPart p f).sysent = s.sysent := rfl
@[simp] theorem onPart_tvec (s : State) (p : Nat) (f : Partition → Partition) : (s.onPart p f).tvec = s.tvec := rfl
@[simp] theorem onPart_ftag (s : State) (p : Nat) (f : Partition → Partition) : (s.onPart p f).ftag = s.ftag := rfl
@[simp] theorem onPart_devid (s : State) (p : Nat) (f : Partition → Partition) : (s.onPart p f).devid = s.devid := rfl
@[simp] theorem onPart_cores (s : State) (p : Nat) (f : Partition → Partition) : (s.onPart p f).cores = s.cores := rfl
@[simp] theorem onPart_sectors (s : State) (p : Nat) (f : Partition → Partition) : (s.onPart p f).sectors = s.sectors := rfl
@[simp] theorem onPart_devBars (s : State) (p : Nat) (f : Partition → Partition) : (s.onPart p f).devBars = s.devBars := rfl
@[simp] theorem onPart_counters (s : State) (p : Nat) (f : Partition → Partition) : (s.onPart p f).counters = s.counters := rfl
@[simp] theorem onPart_parkedItems (s : State) (p : Nat) (f : Partition → Partition) : (s.onPart p f).parkedItems = s.parkedItems := rfl
@[simp] theorem onPart_offers (s : State) (p : Nat) (f : Partition → Partition) : (s.onPart p f).offers = s.offers := rfl
@[simp] theorem onPart_heap (s : State) (p : Nat) (f : Partition → Partition) : (s.onPart p f).heap = s.heap := rfl
@[simp] theorem onPart_flows (s : State) (p : Nat) (f : Partition → Partition) : (s.onPart p f).flows = s.flows := rfl
@[simp] theorem onPart_flowClock (s : State) (p : Nat) (f : Partition → Partition) : (s.onPart p f).flowClock = s.flowClock := rfl
@[simp] theorem onPart_tickets (s : State) (p : Nat) (f : Partition → Partition) : (s.onPart p f).tickets = s.tickets := rfl
@[simp] theorem onPart_groups (s : State) (p : Nat) (f : Partition → Partition) : (s.onPart p f).groups = s.groups := rfl
@[simp] theorem onPart_txs (s : State) (p : Nat) (f : Partition → Partition) : (s.onPart p f).txs = s.txs := rfl
@[simp] theorem onPart_tagCtr (s : State) (p : Nat) (f : Partition → Partition) : (s.onPart p f).tagCtr = s.tagCtr := rfl
@[simp] theorem onPart_out (s : State) (p : Nat) (f : Partition → Partition) : (s.onPart p f).out = s.out := rfl
@[simp] theorem onPart_toSelf (s : State) (p : Nat) (f : Partition → Partition) : (s.onPart p f).toSelf = s.toSelf := rfl
@[simp] theorem onPart_mgmt (s : State) (p : Nat) (f : Partition → Partition) : (s.onPart p f).mgmt = s.mgmt := rfl
@[simp] theorem onPart_vlan (s : State) (p : Nat) (f : Partition → Partition) : (s.onPart p f).vlan = s.vlan := rfl
@[simp] theorem onPart_mgmtKey (s : State) (p : Nat) (f : Partition → Partition) : (s.onPart p f).mgmtKey = s.mgmtKey := rfl
@[simp] theorem onPart_mgmtSent (s : State) (p : Nat) (f : Partition → Partition) : (s.onPart p f).mgmtSent = s.mgmtSent := rfl
@[simp] theorem onPart_sampled (s : State) (p : Nat) (f : Partition → Partition) : (s.onPart p f).sampled = s.sampled := rfl
@[simp] theorem onPart_links (s : State) (p : Nat) (f : Partition → Partition) : (s.onPart p f).links = s.links := rfl
@[simp] theorem onPart_cols (s : State) (p : Nat) (f : Partition → Partition) : (s.onPart p f).cols = s.cols := rfl
@[simp] theorem onPart_rows (s : State) (p : Nat) (f : Partition → Partition) : (s.onPart p f).rows = s.rows := rfl
@[simp] theorem onPart_ports (s : State) (p : Nat) (f : Partition → Partition) : (s.onPart p f).ports = s.ports := rfl
@[simp] theorem onPart_ueKeys (s : State) (p : Nat) (f : Partition → Partition) : (s.onPart p f).ueKeys = s.ueKeys := rfl
@[simp] theorem onPart_ueSent (s : State) (p : Nat) (f : Partition → Partition) : (s.onPart p f).ueSent = s.ueSent := rfl
@[simp] theorem onPart_mcasts (s : State) (p : Nat) (f : Partition → Partition) : (s.onPart p f).mcasts = s.mcasts := rfl
@[simp] theorem onPart_tlb (s : State) (p : Nat) (f : Partition → Partition) : (s.onPart p f).tlb = s.tlb := rfl
@[simp] theorem onPart_walked (s : State) (p : Nat) (f : Partition → Partition) : (s.onPart p f).walked = s.walked := rfl
@[simp] theorem onPart_loads (s : State) (p : Nat) (f : Partition → Partition) : (s.onPart p f).loads = s.loads := rfl
@[simp] theorem onPart_agenda (s : State) (p : Nat) (f : Partition → Partition) : (s.onPart p f).agenda = s.agenda := rfl
@[simp] theorem onPart_cur (s : State) (p : Nat) (f : Partition → Partition) : (s.onPart p f).cur = s.cur := rfl
@[simp] theorem onPart_fresh (s : State) (p : Nat) (f : Partition → Partition) : (s.onPart p f).fresh = s.fresh := rfl

/-! `setTeam` leaves all but `cores`. -/

@[simp] theorem setTeam_mem (s : State) (c t : Nat) (x : Team) : (s.setTeam c t x).mem = s.mem := rfl
@[simp] theorem setTeam_poisoned (s : State) (c t : Nat) (x : Team) : (s.setTeam c t x).poisoned = s.poisoned := rfl
@[simp] theorem setTeam_clock (s : State) (c t : Nat) (x : Team) : (s.setTeam c t x).clock = s.clock := rfl
@[simp] theorem setTeam_power (s : State) (c t : Nat) (x : Team) : (s.setTeam c t x).power = s.power := rfl
@[simp] theorem setTeam_retry (s : State) (c t : Nat) (x : Team) : (s.setTeam c t x).retry = s.retry := rfl
@[simp] theorem setTeam_retryAt (s : State) (c t : Nat) (x : Team) : (s.setTeam c t x).retryAt = s.retryAt := rfl
@[simp] theorem setTeam_window (s : State) (c t : Nat) (x : Team) : (s.setTeam c t x).window = s.window := rfl
@[simp] theorem setTeam_fwLoad (s : State) (c t : Nat) (x : Team) : (s.setTeam c t x).fwLoad = s.fwLoad := rfl
@[simp] theorem setTeam_fwLen (s : State) (c t : Nat) (x : Team) : (s.setTeam c t x).fwLen = s.fwLen := rfl
@[simp] theorem setTeam_stageBody (s : State) (c t : Nat) (x : Team) : (s.setTeam c t x).stageBody = s.stageBody := rfl
@[simp] theorem setTeam_attLog (s : State) (c t : Nat) (x : Team) : (s.setTeam c t x).attLog = s.attLog := rfl
@[simp] theorem setTeam_reports (s : State) (c t : Nat) (x : Team) : (s.setTeam c t x).reports = s.reports := rfl
@[simp] theorem setTeam_softErrors (s : State) (c t : Nat) (x : Team) : (s.setTeam c t x).softErrors = s.softErrors := rfl
@[simp] theorem setTeam_sysroot (s : State) (c t : Nat) (x : Team) : (s.setTeam c t x).sysroot = s.sysroot := rfl
@[simp] theorem setTeam_sysent (s : State) (c t : Nat) (x : Team) : (s.setTeam c t x).sysent = s.sysent := rfl
@[simp] theorem setTeam_tvec (s : State) (c t : Nat) (x : Team) : (s.setTeam c t x).tvec = s.tvec := rfl
@[simp] theorem setTeam_ftag (s : State) (c t : Nat) (x : Team) : (s.setTeam c t x).ftag = s.ftag := rfl
@[simp] theorem setTeam_devid (s : State) (c t : Nat) (x : Team) : (s.setTeam c t x).devid = s.devid := rfl
@[simp] theorem setTeam_sectors (s : State) (c t : Nat) (x : Team) : (s.setTeam c t x).sectors = s.sectors := rfl
@[simp] theorem setTeam_devBars (s : State) (c t : Nat) (x : Team) : (s.setTeam c t x).devBars = s.devBars := rfl
@[simp] theorem setTeam_parts (s : State) (c t : Nat) (x : Team) : (s.setTeam c t x).parts = s.parts := rfl
@[simp] theorem setTeam_counters (s : State) (c t : Nat) (x : Team) : (s.setTeam c t x).counters = s.counters := rfl
@[simp] theorem setTeam_parkedItems (s : State) (c t : Nat) (x : Team) : (s.setTeam c t x).parkedItems = s.parkedItems := rfl
@[simp] theorem setTeam_offers (s : State) (c t : Nat) (x : Team) : (s.setTeam c t x).offers = s.offers := rfl
@[simp] theorem setTeam_heap (s : State) (c t : Nat) (x : Team) : (s.setTeam c t x).heap = s.heap := rfl
@[simp] theorem setTeam_flows (s : State) (c t : Nat) (x : Team) : (s.setTeam c t x).flows = s.flows := rfl
@[simp] theorem setTeam_flowClock (s : State) (c t : Nat) (x : Team) : (s.setTeam c t x).flowClock = s.flowClock := rfl
@[simp] theorem setTeam_tickets (s : State) (c t : Nat) (x : Team) : (s.setTeam c t x).tickets = s.tickets := rfl
@[simp] theorem setTeam_groups (s : State) (c t : Nat) (x : Team) : (s.setTeam c t x).groups = s.groups := rfl
@[simp] theorem setTeam_txs (s : State) (c t : Nat) (x : Team) : (s.setTeam c t x).txs = s.txs := rfl
@[simp] theorem setTeam_tagCtr (s : State) (c t : Nat) (x : Team) : (s.setTeam c t x).tagCtr = s.tagCtr := rfl
@[simp] theorem setTeam_out (s : State) (c t : Nat) (x : Team) : (s.setTeam c t x).out = s.out := rfl
@[simp] theorem setTeam_toSelf (s : State) (c t : Nat) (x : Team) : (s.setTeam c t x).toSelf = s.toSelf := rfl
@[simp] theorem setTeam_mgmt (s : State) (c t : Nat) (x : Team) : (s.setTeam c t x).mgmt = s.mgmt := rfl
@[simp] theorem setTeam_vlan (s : State) (c t : Nat) (x : Team) : (s.setTeam c t x).vlan = s.vlan := rfl
@[simp] theorem setTeam_mgmtKey (s : State) (c t : Nat) (x : Team) : (s.setTeam c t x).mgmtKey = s.mgmtKey := rfl
@[simp] theorem setTeam_mgmtSent (s : State) (c t : Nat) (x : Team) : (s.setTeam c t x).mgmtSent = s.mgmtSent := rfl
@[simp] theorem setTeam_sampled (s : State) (c t : Nat) (x : Team) : (s.setTeam c t x).sampled = s.sampled := rfl
@[simp] theorem setTeam_links (s : State) (c t : Nat) (x : Team) : (s.setTeam c t x).links = s.links := rfl
@[simp] theorem setTeam_cols (s : State) (c t : Nat) (x : Team) : (s.setTeam c t x).cols = s.cols := rfl
@[simp] theorem setTeam_rows (s : State) (c t : Nat) (x : Team) : (s.setTeam c t x).rows = s.rows := rfl
@[simp] theorem setTeam_ports (s : State) (c t : Nat) (x : Team) : (s.setTeam c t x).ports = s.ports := rfl
@[simp] theorem setTeam_ueKeys (s : State) (c t : Nat) (x : Team) : (s.setTeam c t x).ueKeys = s.ueKeys := rfl
@[simp] theorem setTeam_ueSent (s : State) (c t : Nat) (x : Team) : (s.setTeam c t x).ueSent = s.ueSent := rfl
@[simp] theorem setTeam_mcasts (s : State) (c t : Nat) (x : Team) : (s.setTeam c t x).mcasts = s.mcasts := rfl
@[simp] theorem setTeam_tlb (s : State) (c t : Nat) (x : Team) : (s.setTeam c t x).tlb = s.tlb := rfl
@[simp] theorem setTeam_walked (s : State) (c t : Nat) (x : Team) : (s.setTeam c t x).walked = s.walked := rfl
@[simp] theorem setTeam_loads (s : State) (c t : Nat) (x : Team) : (s.setTeam c t x).loads = s.loads := rfl
@[simp] theorem setTeam_agenda (s : State) (c t : Nat) (x : Team) : (s.setTeam c t x).agenda = s.agenda := rfl
@[simp] theorem setTeam_cur (s : State) (c t : Nat) (x : Team) : (s.setTeam c t x).cur = s.cur := rfl
@[simp] theorem setTeam_fresh (s : State) (c t : Nat) (x : Team) : (s.setTeam c t x).fresh = s.fresh := rfl

/-! `dropTeam` leaves all but `cores`. -/

@[simp] theorem dropTeam_mem (s : State) (c t : Nat) : (s.dropTeam c t).mem = s.mem := rfl
@[simp] theorem dropTeam_poisoned (s : State) (c t : Nat) : (s.dropTeam c t).poisoned = s.poisoned := rfl
@[simp] theorem dropTeam_clock (s : State) (c t : Nat) : (s.dropTeam c t).clock = s.clock := rfl
@[simp] theorem dropTeam_power (s : State) (c t : Nat) : (s.dropTeam c t).power = s.power := rfl
@[simp] theorem dropTeam_retry (s : State) (c t : Nat) : (s.dropTeam c t).retry = s.retry := rfl
@[simp] theorem dropTeam_retryAt (s : State) (c t : Nat) : (s.dropTeam c t).retryAt = s.retryAt := rfl
@[simp] theorem dropTeam_window (s : State) (c t : Nat) : (s.dropTeam c t).window = s.window := rfl
@[simp] theorem dropTeam_fwLoad (s : State) (c t : Nat) : (s.dropTeam c t).fwLoad = s.fwLoad := rfl
@[simp] theorem dropTeam_fwLen (s : State) (c t : Nat) : (s.dropTeam c t).fwLen = s.fwLen := rfl
@[simp] theorem dropTeam_stageBody (s : State) (c t : Nat) : (s.dropTeam c t).stageBody = s.stageBody := rfl
@[simp] theorem dropTeam_attLog (s : State) (c t : Nat) : (s.dropTeam c t).attLog = s.attLog := rfl
@[simp] theorem dropTeam_reports (s : State) (c t : Nat) : (s.dropTeam c t).reports = s.reports := rfl
@[simp] theorem dropTeam_softErrors (s : State) (c t : Nat) : (s.dropTeam c t).softErrors = s.softErrors := rfl
@[simp] theorem dropTeam_sysroot (s : State) (c t : Nat) : (s.dropTeam c t).sysroot = s.sysroot := rfl
@[simp] theorem dropTeam_sysent (s : State) (c t : Nat) : (s.dropTeam c t).sysent = s.sysent := rfl
@[simp] theorem dropTeam_tvec (s : State) (c t : Nat) : (s.dropTeam c t).tvec = s.tvec := rfl
@[simp] theorem dropTeam_ftag (s : State) (c t : Nat) : (s.dropTeam c t).ftag = s.ftag := rfl
@[simp] theorem dropTeam_devid (s : State) (c t : Nat) : (s.dropTeam c t).devid = s.devid := rfl
@[simp] theorem dropTeam_sectors (s : State) (c t : Nat) : (s.dropTeam c t).sectors = s.sectors := rfl
@[simp] theorem dropTeam_devBars (s : State) (c t : Nat) : (s.dropTeam c t).devBars = s.devBars := rfl
@[simp] theorem dropTeam_parts (s : State) (c t : Nat) : (s.dropTeam c t).parts = s.parts := rfl
@[simp] theorem dropTeam_counters (s : State) (c t : Nat) : (s.dropTeam c t).counters = s.counters := rfl
@[simp] theorem dropTeam_parkedItems (s : State) (c t : Nat) : (s.dropTeam c t).parkedItems = s.parkedItems := rfl
@[simp] theorem dropTeam_offers (s : State) (c t : Nat) : (s.dropTeam c t).offers = s.offers := rfl
@[simp] theorem dropTeam_heap (s : State) (c t : Nat) : (s.dropTeam c t).heap = s.heap := rfl
@[simp] theorem dropTeam_flows (s : State) (c t : Nat) : (s.dropTeam c t).flows = s.flows := rfl
@[simp] theorem dropTeam_flowClock (s : State) (c t : Nat) : (s.dropTeam c t).flowClock = s.flowClock := rfl
@[simp] theorem dropTeam_tickets (s : State) (c t : Nat) : (s.dropTeam c t).tickets = s.tickets := rfl
@[simp] theorem dropTeam_groups (s : State) (c t : Nat) : (s.dropTeam c t).groups = s.groups := rfl
@[simp] theorem dropTeam_txs (s : State) (c t : Nat) : (s.dropTeam c t).txs = s.txs := rfl
@[simp] theorem dropTeam_tagCtr (s : State) (c t : Nat) : (s.dropTeam c t).tagCtr = s.tagCtr := rfl
@[simp] theorem dropTeam_out (s : State) (c t : Nat) : (s.dropTeam c t).out = s.out := rfl
@[simp] theorem dropTeam_toSelf (s : State) (c t : Nat) : (s.dropTeam c t).toSelf = s.toSelf := rfl
@[simp] theorem dropTeam_mgmt (s : State) (c t : Nat) : (s.dropTeam c t).mgmt = s.mgmt := rfl
@[simp] theorem dropTeam_vlan (s : State) (c t : Nat) : (s.dropTeam c t).vlan = s.vlan := rfl
@[simp] theorem dropTeam_mgmtKey (s : State) (c t : Nat) : (s.dropTeam c t).mgmtKey = s.mgmtKey := rfl
@[simp] theorem dropTeam_mgmtSent (s : State) (c t : Nat) : (s.dropTeam c t).mgmtSent = s.mgmtSent := rfl
@[simp] theorem dropTeam_sampled (s : State) (c t : Nat) : (s.dropTeam c t).sampled = s.sampled := rfl
@[simp] theorem dropTeam_links (s : State) (c t : Nat) : (s.dropTeam c t).links = s.links := rfl
@[simp] theorem dropTeam_cols (s : State) (c t : Nat) : (s.dropTeam c t).cols = s.cols := rfl
@[simp] theorem dropTeam_rows (s : State) (c t : Nat) : (s.dropTeam c t).rows = s.rows := rfl
@[simp] theorem dropTeam_ports (s : State) (c t : Nat) : (s.dropTeam c t).ports = s.ports := rfl
@[simp] theorem dropTeam_ueKeys (s : State) (c t : Nat) : (s.dropTeam c t).ueKeys = s.ueKeys := rfl
@[simp] theorem dropTeam_ueSent (s : State) (c t : Nat) : (s.dropTeam c t).ueSent = s.ueSent := rfl
@[simp] theorem dropTeam_mcasts (s : State) (c t : Nat) : (s.dropTeam c t).mcasts = s.mcasts := rfl
@[simp] theorem dropTeam_tlb (s : State) (c t : Nat) : (s.dropTeam c t).tlb = s.tlb := rfl
@[simp] theorem dropTeam_walked (s : State) (c t : Nat) : (s.dropTeam c t).walked = s.walked := rfl
@[simp] theorem dropTeam_loads (s : State) (c t : Nat) : (s.dropTeam c t).loads = s.loads := rfl
@[simp] theorem dropTeam_agenda (s : State) (c t : Nat) : (s.dropTeam c t).agenda = s.agenda := rfl
@[simp] theorem dropTeam_cur (s : State) (c t : Nat) : (s.dropTeam c t).cur = s.cur := rfl
@[simp] theorem dropTeam_fresh (s : State) (c t : Nat) : (s.dropTeam c t).fresh = s.fresh := rfl

/-! `setHandle` leaves all but `cores`. -/

@[simp] theorem setHandle_mem (s : State) (c h : Nat) (x : Handle) : (s.setHandle c h x).mem = s.mem := rfl
@[simp] theorem setHandle_poisoned (s : State) (c h : Nat) (x : Handle) : (s.setHandle c h x).poisoned = s.poisoned := rfl
@[simp] theorem setHandle_clock (s : State) (c h : Nat) (x : Handle) : (s.setHandle c h x).clock = s.clock := rfl
@[simp] theorem setHandle_power (s : State) (c h : Nat) (x : Handle) : (s.setHandle c h x).power = s.power := rfl
@[simp] theorem setHandle_retry (s : State) (c h : Nat) (x : Handle) : (s.setHandle c h x).retry = s.retry := rfl
@[simp] theorem setHandle_retryAt (s : State) (c h : Nat) (x : Handle) : (s.setHandle c h x).retryAt = s.retryAt := rfl
@[simp] theorem setHandle_window (s : State) (c h : Nat) (x : Handle) : (s.setHandle c h x).window = s.window := rfl
@[simp] theorem setHandle_fwLoad (s : State) (c h : Nat) (x : Handle) : (s.setHandle c h x).fwLoad = s.fwLoad := rfl
@[simp] theorem setHandle_fwLen (s : State) (c h : Nat) (x : Handle) : (s.setHandle c h x).fwLen = s.fwLen := rfl
@[simp] theorem setHandle_stageBody (s : State) (c h : Nat) (x : Handle) : (s.setHandle c h x).stageBody = s.stageBody := rfl
@[simp] theorem setHandle_attLog (s : State) (c h : Nat) (x : Handle) : (s.setHandle c h x).attLog = s.attLog := rfl
@[simp] theorem setHandle_reports (s : State) (c h : Nat) (x : Handle) : (s.setHandle c h x).reports = s.reports := rfl
@[simp] theorem setHandle_softErrors (s : State) (c h : Nat) (x : Handle) : (s.setHandle c h x).softErrors = s.softErrors := rfl
@[simp] theorem setHandle_sysroot (s : State) (c h : Nat) (x : Handle) : (s.setHandle c h x).sysroot = s.sysroot := rfl
@[simp] theorem setHandle_sysent (s : State) (c h : Nat) (x : Handle) : (s.setHandle c h x).sysent = s.sysent := rfl
@[simp] theorem setHandle_tvec (s : State) (c h : Nat) (x : Handle) : (s.setHandle c h x).tvec = s.tvec := rfl
@[simp] theorem setHandle_ftag (s : State) (c h : Nat) (x : Handle) : (s.setHandle c h x).ftag = s.ftag := rfl
@[simp] theorem setHandle_devid (s : State) (c h : Nat) (x : Handle) : (s.setHandle c h x).devid = s.devid := rfl
@[simp] theorem setHandle_sectors (s : State) (c h : Nat) (x : Handle) : (s.setHandle c h x).sectors = s.sectors := rfl
@[simp] theorem setHandle_devBars (s : State) (c h : Nat) (x : Handle) : (s.setHandle c h x).devBars = s.devBars := rfl
@[simp] theorem setHandle_parts (s : State) (c h : Nat) (x : Handle) : (s.setHandle c h x).parts = s.parts := rfl
@[simp] theorem setHandle_counters (s : State) (c h : Nat) (x : Handle) : (s.setHandle c h x).counters = s.counters := rfl
@[simp] theorem setHandle_parkedItems (s : State) (c h : Nat) (x : Handle) : (s.setHandle c h x).parkedItems = s.parkedItems := rfl
@[simp] theorem setHandle_offers (s : State) (c h : Nat) (x : Handle) : (s.setHandle c h x).offers = s.offers := rfl
@[simp] theorem setHandle_heap (s : State) (c h : Nat) (x : Handle) : (s.setHandle c h x).heap = s.heap := rfl
@[simp] theorem setHandle_flows (s : State) (c h : Nat) (x : Handle) : (s.setHandle c h x).flows = s.flows := rfl
@[simp] theorem setHandle_flowClock (s : State) (c h : Nat) (x : Handle) : (s.setHandle c h x).flowClock = s.flowClock := rfl
@[simp] theorem setHandle_tickets (s : State) (c h : Nat) (x : Handle) : (s.setHandle c h x).tickets = s.tickets := rfl
@[simp] theorem setHandle_groups (s : State) (c h : Nat) (x : Handle) : (s.setHandle c h x).groups = s.groups := rfl
@[simp] theorem setHandle_txs (s : State) (c h : Nat) (x : Handle) : (s.setHandle c h x).txs = s.txs := rfl
@[simp] theorem setHandle_tagCtr (s : State) (c h : Nat) (x : Handle) : (s.setHandle c h x).tagCtr = s.tagCtr := rfl
@[simp] theorem setHandle_out (s : State) (c h : Nat) (x : Handle) : (s.setHandle c h x).out = s.out := rfl
@[simp] theorem setHandle_toSelf (s : State) (c h : Nat) (x : Handle) : (s.setHandle c h x).toSelf = s.toSelf := rfl
@[simp] theorem setHandle_mgmt (s : State) (c h : Nat) (x : Handle) : (s.setHandle c h x).mgmt = s.mgmt := rfl
@[simp] theorem setHandle_vlan (s : State) (c h : Nat) (x : Handle) : (s.setHandle c h x).vlan = s.vlan := rfl
@[simp] theorem setHandle_mgmtKey (s : State) (c h : Nat) (x : Handle) : (s.setHandle c h x).mgmtKey = s.mgmtKey := rfl
@[simp] theorem setHandle_mgmtSent (s : State) (c h : Nat) (x : Handle) : (s.setHandle c h x).mgmtSent = s.mgmtSent := rfl
@[simp] theorem setHandle_sampled (s : State) (c h : Nat) (x : Handle) : (s.setHandle c h x).sampled = s.sampled := rfl
@[simp] theorem setHandle_links (s : State) (c h : Nat) (x : Handle) : (s.setHandle c h x).links = s.links := rfl
@[simp] theorem setHandle_cols (s : State) (c h : Nat) (x : Handle) : (s.setHandle c h x).cols = s.cols := rfl
@[simp] theorem setHandle_rows (s : State) (c h : Nat) (x : Handle) : (s.setHandle c h x).rows = s.rows := rfl
@[simp] theorem setHandle_ports (s : State) (c h : Nat) (x : Handle) : (s.setHandle c h x).ports = s.ports := rfl
@[simp] theorem setHandle_ueKeys (s : State) (c h : Nat) (x : Handle) : (s.setHandle c h x).ueKeys = s.ueKeys := rfl
@[simp] theorem setHandle_ueSent (s : State) (c h : Nat) (x : Handle) : (s.setHandle c h x).ueSent = s.ueSent := rfl
@[simp] theorem setHandle_mcasts (s : State) (c h : Nat) (x : Handle) : (s.setHandle c h x).mcasts = s.mcasts := rfl
@[simp] theorem setHandle_tlb (s : State) (c h : Nat) (x : Handle) : (s.setHandle c h x).tlb = s.tlb := rfl
@[simp] theorem setHandle_walked (s : State) (c h : Nat) (x : Handle) : (s.setHandle c h x).walked = s.walked := rfl
@[simp] theorem setHandle_loads (s : State) (c h : Nat) (x : Handle) : (s.setHandle c h x).loads = s.loads := rfl
@[simp] theorem setHandle_agenda (s : State) (c h : Nat) (x : Handle) : (s.setHandle c h x).agenda = s.agenda := rfl
@[simp] theorem setHandle_cur (s : State) (c h : Nat) (x : Handle) : (s.setHandle c h x).cur = s.cur := rfl
@[simp] theorem setHandle_fresh (s : State) (c h : Nat) (x : Handle) : (s.setHandle c h x).fresh = s.fresh := rfl

/-! `onHandle` leaves all but `cores`. -/

@[simp] theorem onHandle_mem (s : State) (c h : Nat) (f : Handle → Handle) : (s.onHandle c h f).mem = s.mem := rfl
@[simp] theorem onHandle_poisoned (s : State) (c h : Nat) (f : Handle → Handle) : (s.onHandle c h f).poisoned = s.poisoned := rfl
@[simp] theorem onHandle_clock (s : State) (c h : Nat) (f : Handle → Handle) : (s.onHandle c h f).clock = s.clock := rfl
@[simp] theorem onHandle_power (s : State) (c h : Nat) (f : Handle → Handle) : (s.onHandle c h f).power = s.power := rfl
@[simp] theorem onHandle_retry (s : State) (c h : Nat) (f : Handle → Handle) : (s.onHandle c h f).retry = s.retry := rfl
@[simp] theorem onHandle_retryAt (s : State) (c h : Nat) (f : Handle → Handle) : (s.onHandle c h f).retryAt = s.retryAt := rfl
@[simp] theorem onHandle_window (s : State) (c h : Nat) (f : Handle → Handle) : (s.onHandle c h f).window = s.window := rfl
@[simp] theorem onHandle_fwLoad (s : State) (c h : Nat) (f : Handle → Handle) : (s.onHandle c h f).fwLoad = s.fwLoad := rfl
@[simp] theorem onHandle_fwLen (s : State) (c h : Nat) (f : Handle → Handle) : (s.onHandle c h f).fwLen = s.fwLen := rfl
@[simp] theorem onHandle_stageBody (s : State) (c h : Nat) (f : Handle → Handle) : (s.onHandle c h f).stageBody = s.stageBody := rfl
@[simp] theorem onHandle_attLog (s : State) (c h : Nat) (f : Handle → Handle) : (s.onHandle c h f).attLog = s.attLog := rfl
@[simp] theorem onHandle_reports (s : State) (c h : Nat) (f : Handle → Handle) : (s.onHandle c h f).reports = s.reports := rfl
@[simp] theorem onHandle_softErrors (s : State) (c h : Nat) (f : Handle → Handle) : (s.onHandle c h f).softErrors = s.softErrors := rfl
@[simp] theorem onHandle_sysroot (s : State) (c h : Nat) (f : Handle → Handle) : (s.onHandle c h f).sysroot = s.sysroot := rfl
@[simp] theorem onHandle_sysent (s : State) (c h : Nat) (f : Handle → Handle) : (s.onHandle c h f).sysent = s.sysent := rfl
@[simp] theorem onHandle_tvec (s : State) (c h : Nat) (f : Handle → Handle) : (s.onHandle c h f).tvec = s.tvec := rfl
@[simp] theorem onHandle_ftag (s : State) (c h : Nat) (f : Handle → Handle) : (s.onHandle c h f).ftag = s.ftag := rfl
@[simp] theorem onHandle_devid (s : State) (c h : Nat) (f : Handle → Handle) : (s.onHandle c h f).devid = s.devid := rfl
@[simp] theorem onHandle_sectors (s : State) (c h : Nat) (f : Handle → Handle) : (s.onHandle c h f).sectors = s.sectors := rfl
@[simp] theorem onHandle_devBars (s : State) (c h : Nat) (f : Handle → Handle) : (s.onHandle c h f).devBars = s.devBars := rfl
@[simp] theorem onHandle_parts (s : State) (c h : Nat) (f : Handle → Handle) : (s.onHandle c h f).parts = s.parts := rfl
@[simp] theorem onHandle_counters (s : State) (c h : Nat) (f : Handle → Handle) : (s.onHandle c h f).counters = s.counters := rfl
@[simp] theorem onHandle_parkedItems (s : State) (c h : Nat) (f : Handle → Handle) : (s.onHandle c h f).parkedItems = s.parkedItems := rfl
@[simp] theorem onHandle_offers (s : State) (c h : Nat) (f : Handle → Handle) : (s.onHandle c h f).offers = s.offers := rfl
@[simp] theorem onHandle_heap (s : State) (c h : Nat) (f : Handle → Handle) : (s.onHandle c h f).heap = s.heap := rfl
@[simp] theorem onHandle_flows (s : State) (c h : Nat) (f : Handle → Handle) : (s.onHandle c h f).flows = s.flows := rfl
@[simp] theorem onHandle_flowClock (s : State) (c h : Nat) (f : Handle → Handle) : (s.onHandle c h f).flowClock = s.flowClock := rfl
@[simp] theorem onHandle_tickets (s : State) (c h : Nat) (f : Handle → Handle) : (s.onHandle c h f).tickets = s.tickets := rfl
@[simp] theorem onHandle_groups (s : State) (c h : Nat) (f : Handle → Handle) : (s.onHandle c h f).groups = s.groups := rfl
@[simp] theorem onHandle_txs (s : State) (c h : Nat) (f : Handle → Handle) : (s.onHandle c h f).txs = s.txs := rfl
@[simp] theorem onHandle_tagCtr (s : State) (c h : Nat) (f : Handle → Handle) : (s.onHandle c h f).tagCtr = s.tagCtr := rfl
@[simp] theorem onHandle_out (s : State) (c h : Nat) (f : Handle → Handle) : (s.onHandle c h f).out = s.out := rfl
@[simp] theorem onHandle_toSelf (s : State) (c h : Nat) (f : Handle → Handle) : (s.onHandle c h f).toSelf = s.toSelf := rfl
@[simp] theorem onHandle_mgmt (s : State) (c h : Nat) (f : Handle → Handle) : (s.onHandle c h f).mgmt = s.mgmt := rfl
@[simp] theorem onHandle_vlan (s : State) (c h : Nat) (f : Handle → Handle) : (s.onHandle c h f).vlan = s.vlan := rfl
@[simp] theorem onHandle_mgmtKey (s : State) (c h : Nat) (f : Handle → Handle) : (s.onHandle c h f).mgmtKey = s.mgmtKey := rfl
@[simp] theorem onHandle_mgmtSent (s : State) (c h : Nat) (f : Handle → Handle) : (s.onHandle c h f).mgmtSent = s.mgmtSent := rfl
@[simp] theorem onHandle_sampled (s : State) (c h : Nat) (f : Handle → Handle) : (s.onHandle c h f).sampled = s.sampled := rfl
@[simp] theorem onHandle_links (s : State) (c h : Nat) (f : Handle → Handle) : (s.onHandle c h f).links = s.links := rfl
@[simp] theorem onHandle_cols (s : State) (c h : Nat) (f : Handle → Handle) : (s.onHandle c h f).cols = s.cols := rfl
@[simp] theorem onHandle_rows (s : State) (c h : Nat) (f : Handle → Handle) : (s.onHandle c h f).rows = s.rows := rfl
@[simp] theorem onHandle_ports (s : State) (c h : Nat) (f : Handle → Handle) : (s.onHandle c h f).ports = s.ports := rfl
@[simp] theorem onHandle_ueKeys (s : State) (c h : Nat) (f : Handle → Handle) : (s.onHandle c h f).ueKeys = s.ueKeys := rfl
@[simp] theorem onHandle_ueSent (s : State) (c h : Nat) (f : Handle → Handle) : (s.onHandle c h f).ueSent = s.ueSent := rfl
@[simp] theorem onHandle_mcasts (s : State) (c h : Nat) (f : Handle → Handle) : (s.onHandle c h f).mcasts = s.mcasts := rfl
@[simp] theorem onHandle_tlb (s : State) (c h : Nat) (f : Handle → Handle) : (s.onHandle c h f).tlb = s.tlb := rfl
@[simp] theorem onHandle_walked (s : State) (c h : Nat) (f : Handle → Handle) : (s.onHandle c h f).walked = s.walked := rfl
@[simp] theorem onHandle_loads (s : State) (c h : Nat) (f : Handle → Handle) : (s.onHandle c h f).loads = s.loads := rfl
@[simp] theorem onHandle_agenda (s : State) (c h : Nat) (f : Handle → Handle) : (s.onHandle c h f).agenda = s.agenda := rfl
@[simp] theorem onHandle_cur (s : State) (c h : Nat) (f : Handle → Handle) : (s.onHandle c h f).cur = s.cur := rfl
@[simp] theorem onHandle_fresh (s : State) (c h : Nat) (f : Handle → Handle) : (s.onHandle c h f).fresh = s.fresh := rfl

/-! `onTeam` leaves all but `cores`. -/

@[simp] theorem onTeam_mem (s : State) (c t : Nat) (f : Team → Team) : (s.onTeam c t f).mem = s.mem := by unfold State.onTeam; split <;> rfl
@[simp] theorem onTeam_poisoned (s : State) (c t : Nat) (f : Team → Team) : (s.onTeam c t f).poisoned = s.poisoned := by unfold State.onTeam; split <;> rfl
@[simp] theorem onTeam_clock (s : State) (c t : Nat) (f : Team → Team) : (s.onTeam c t f).clock = s.clock := by unfold State.onTeam; split <;> rfl
@[simp] theorem onTeam_power (s : State) (c t : Nat) (f : Team → Team) : (s.onTeam c t f).power = s.power := by unfold State.onTeam; split <;> rfl
@[simp] theorem onTeam_retry (s : State) (c t : Nat) (f : Team → Team) : (s.onTeam c t f).retry = s.retry := by unfold State.onTeam; split <;> rfl
@[simp] theorem onTeam_retryAt (s : State) (c t : Nat) (f : Team → Team) : (s.onTeam c t f).retryAt = s.retryAt := by unfold State.onTeam; split <;> rfl
@[simp] theorem onTeam_window (s : State) (c t : Nat) (f : Team → Team) : (s.onTeam c t f).window = s.window := by unfold State.onTeam; split <;> rfl
@[simp] theorem onTeam_fwLoad (s : State) (c t : Nat) (f : Team → Team) : (s.onTeam c t f).fwLoad = s.fwLoad := by unfold State.onTeam; split <;> rfl
@[simp] theorem onTeam_fwLen (s : State) (c t : Nat) (f : Team → Team) : (s.onTeam c t f).fwLen = s.fwLen := by unfold State.onTeam; split <;> rfl
@[simp] theorem onTeam_stageBody (s : State) (c t : Nat) (f : Team → Team) : (s.onTeam c t f).stageBody = s.stageBody := by unfold State.onTeam; split <;> rfl
@[simp] theorem onTeam_attLog (s : State) (c t : Nat) (f : Team → Team) : (s.onTeam c t f).attLog = s.attLog := by unfold State.onTeam; split <;> rfl
@[simp] theorem onTeam_reports (s : State) (c t : Nat) (f : Team → Team) : (s.onTeam c t f).reports = s.reports := by unfold State.onTeam; split <;> rfl
@[simp] theorem onTeam_softErrors (s : State) (c t : Nat) (f : Team → Team) : (s.onTeam c t f).softErrors = s.softErrors := by unfold State.onTeam; split <;> rfl
@[simp] theorem onTeam_sysroot (s : State) (c t : Nat) (f : Team → Team) : (s.onTeam c t f).sysroot = s.sysroot := by unfold State.onTeam; split <;> rfl
@[simp] theorem onTeam_sysent (s : State) (c t : Nat) (f : Team → Team) : (s.onTeam c t f).sysent = s.sysent := by unfold State.onTeam; split <;> rfl
@[simp] theorem onTeam_tvec (s : State) (c t : Nat) (f : Team → Team) : (s.onTeam c t f).tvec = s.tvec := by unfold State.onTeam; split <;> rfl
@[simp] theorem onTeam_ftag (s : State) (c t : Nat) (f : Team → Team) : (s.onTeam c t f).ftag = s.ftag := by unfold State.onTeam; split <;> rfl
@[simp] theorem onTeam_devid (s : State) (c t : Nat) (f : Team → Team) : (s.onTeam c t f).devid = s.devid := by unfold State.onTeam; split <;> rfl
@[simp] theorem onTeam_sectors (s : State) (c t : Nat) (f : Team → Team) : (s.onTeam c t f).sectors = s.sectors := by unfold State.onTeam; split <;> rfl
@[simp] theorem onTeam_devBars (s : State) (c t : Nat) (f : Team → Team) : (s.onTeam c t f).devBars = s.devBars := by unfold State.onTeam; split <;> rfl
@[simp] theorem onTeam_parts (s : State) (c t : Nat) (f : Team → Team) : (s.onTeam c t f).parts = s.parts := by unfold State.onTeam; split <;> rfl
@[simp] theorem onTeam_counters (s : State) (c t : Nat) (f : Team → Team) : (s.onTeam c t f).counters = s.counters := by unfold State.onTeam; split <;> rfl
@[simp] theorem onTeam_parkedItems (s : State) (c t : Nat) (f : Team → Team) : (s.onTeam c t f).parkedItems = s.parkedItems := by unfold State.onTeam; split <;> rfl
@[simp] theorem onTeam_offers (s : State) (c t : Nat) (f : Team → Team) : (s.onTeam c t f).offers = s.offers := by unfold State.onTeam; split <;> rfl
@[simp] theorem onTeam_heap (s : State) (c t : Nat) (f : Team → Team) : (s.onTeam c t f).heap = s.heap := by unfold State.onTeam; split <;> rfl
@[simp] theorem onTeam_flows (s : State) (c t : Nat) (f : Team → Team) : (s.onTeam c t f).flows = s.flows := by unfold State.onTeam; split <;> rfl
@[simp] theorem onTeam_flowClock (s : State) (c t : Nat) (f : Team → Team) : (s.onTeam c t f).flowClock = s.flowClock := by unfold State.onTeam; split <;> rfl
@[simp] theorem onTeam_tickets (s : State) (c t : Nat) (f : Team → Team) : (s.onTeam c t f).tickets = s.tickets := by unfold State.onTeam; split <;> rfl
@[simp] theorem onTeam_groups (s : State) (c t : Nat) (f : Team → Team) : (s.onTeam c t f).groups = s.groups := by unfold State.onTeam; split <;> rfl
@[simp] theorem onTeam_txs (s : State) (c t : Nat) (f : Team → Team) : (s.onTeam c t f).txs = s.txs := by unfold State.onTeam; split <;> rfl
@[simp] theorem onTeam_tagCtr (s : State) (c t : Nat) (f : Team → Team) : (s.onTeam c t f).tagCtr = s.tagCtr := by unfold State.onTeam; split <;> rfl
@[simp] theorem onTeam_out (s : State) (c t : Nat) (f : Team → Team) : (s.onTeam c t f).out = s.out := by unfold State.onTeam; split <;> rfl
@[simp] theorem onTeam_toSelf (s : State) (c t : Nat) (f : Team → Team) : (s.onTeam c t f).toSelf = s.toSelf := by unfold State.onTeam; split <;> rfl
@[simp] theorem onTeam_mgmt (s : State) (c t : Nat) (f : Team → Team) : (s.onTeam c t f).mgmt = s.mgmt := by unfold State.onTeam; split <;> rfl
@[simp] theorem onTeam_vlan (s : State) (c t : Nat) (f : Team → Team) : (s.onTeam c t f).vlan = s.vlan := by unfold State.onTeam; split <;> rfl
@[simp] theorem onTeam_mgmtKey (s : State) (c t : Nat) (f : Team → Team) : (s.onTeam c t f).mgmtKey = s.mgmtKey := by unfold State.onTeam; split <;> rfl
@[simp] theorem onTeam_mgmtSent (s : State) (c t : Nat) (f : Team → Team) : (s.onTeam c t f).mgmtSent = s.mgmtSent := by unfold State.onTeam; split <;> rfl
@[simp] theorem onTeam_sampled (s : State) (c t : Nat) (f : Team → Team) : (s.onTeam c t f).sampled = s.sampled := by unfold State.onTeam; split <;> rfl
@[simp] theorem onTeam_links (s : State) (c t : Nat) (f : Team → Team) : (s.onTeam c t f).links = s.links := by unfold State.onTeam; split <;> rfl
@[simp] theorem onTeam_cols (s : State) (c t : Nat) (f : Team → Team) : (s.onTeam c t f).cols = s.cols := by unfold State.onTeam; split <;> rfl
@[simp] theorem onTeam_rows (s : State) (c t : Nat) (f : Team → Team) : (s.onTeam c t f).rows = s.rows := by unfold State.onTeam; split <;> rfl
@[simp] theorem onTeam_ports (s : State) (c t : Nat) (f : Team → Team) : (s.onTeam c t f).ports = s.ports := by unfold State.onTeam; split <;> rfl
@[simp] theorem onTeam_ueKeys (s : State) (c t : Nat) (f : Team → Team) : (s.onTeam c t f).ueKeys = s.ueKeys := by unfold State.onTeam; split <;> rfl
@[simp] theorem onTeam_ueSent (s : State) (c t : Nat) (f : Team → Team) : (s.onTeam c t f).ueSent = s.ueSent := by unfold State.onTeam; split <;> rfl
@[simp] theorem onTeam_mcasts (s : State) (c t : Nat) (f : Team → Team) : (s.onTeam c t f).mcasts = s.mcasts := by unfold State.onTeam; split <;> rfl
@[simp] theorem onTeam_tlb (s : State) (c t : Nat) (f : Team → Team) : (s.onTeam c t f).tlb = s.tlb := by unfold State.onTeam; split <;> rfl
@[simp] theorem onTeam_walked (s : State) (c t : Nat) (f : Team → Team) : (s.onTeam c t f).walked = s.walked := by unfold State.onTeam; split <;> rfl
@[simp] theorem onTeam_loads (s : State) (c t : Nat) (f : Team → Team) : (s.onTeam c t f).loads = s.loads := by unfold State.onTeam; split <;> rfl
@[simp] theorem onTeam_agenda (s : State) (c t : Nat) (f : Team → Team) : (s.onTeam c t f).agenda = s.agenda := by unfold State.onTeam; split <;> rfl
@[simp] theorem onTeam_cur (s : State) (c t : Nat) (f : Team → Team) : (s.onTeam c t f).cur = s.cur := by unfold State.onTeam; split <;> rfl
@[simp] theorem onTeam_fresh (s : State) (c t : Nat) (f : Team → Team) : (s.onTeam c t f).fresh = s.fresh := by unfold State.onTeam; split <;> rfl

/-! `setVreg` leaves all but `cores`. -/

@[simp] theorem setVreg_mem (s : State) (c t n : Nat) (r : VReg) : (s.setVreg c t n r).mem = s.mem := by unfold State.setVreg; (repeat' split) <;> rfl
@[simp] theorem setVreg_poisoned (s : State) (c t n : Nat) (r : VReg) : (s.setVreg c t n r).poisoned = s.poisoned := by unfold State.setVreg; (repeat' split) <;> rfl
@[simp] theorem setVreg_clock (s : State) (c t n : Nat) (r : VReg) : (s.setVreg c t n r).clock = s.clock := by unfold State.setVreg; (repeat' split) <;> rfl
@[simp] theorem setVreg_power (s : State) (c t n : Nat) (r : VReg) : (s.setVreg c t n r).power = s.power := by unfold State.setVreg; (repeat' split) <;> rfl
@[simp] theorem setVreg_retry (s : State) (c t n : Nat) (r : VReg) : (s.setVreg c t n r).retry = s.retry := by unfold State.setVreg; (repeat' split) <;> rfl
@[simp] theorem setVreg_retryAt (s : State) (c t n : Nat) (r : VReg) : (s.setVreg c t n r).retryAt = s.retryAt := by unfold State.setVreg; (repeat' split) <;> rfl
@[simp] theorem setVreg_window (s : State) (c t n : Nat) (r : VReg) : (s.setVreg c t n r).window = s.window := by unfold State.setVreg; (repeat' split) <;> rfl
@[simp] theorem setVreg_fwLoad (s : State) (c t n : Nat) (r : VReg) : (s.setVreg c t n r).fwLoad = s.fwLoad := by unfold State.setVreg; (repeat' split) <;> rfl
@[simp] theorem setVreg_fwLen (s : State) (c t n : Nat) (r : VReg) : (s.setVreg c t n r).fwLen = s.fwLen := by unfold State.setVreg; (repeat' split) <;> rfl
@[simp] theorem setVreg_stageBody (s : State) (c t n : Nat) (r : VReg) : (s.setVreg c t n r).stageBody = s.stageBody := by unfold State.setVreg; (repeat' split) <;> rfl
@[simp] theorem setVreg_attLog (s : State) (c t n : Nat) (r : VReg) : (s.setVreg c t n r).attLog = s.attLog := by unfold State.setVreg; (repeat' split) <;> rfl
@[simp] theorem setVreg_reports (s : State) (c t n : Nat) (r : VReg) : (s.setVreg c t n r).reports = s.reports := by unfold State.setVreg; (repeat' split) <;> rfl
@[simp] theorem setVreg_softErrors (s : State) (c t n : Nat) (r : VReg) : (s.setVreg c t n r).softErrors = s.softErrors := by unfold State.setVreg; (repeat' split) <;> rfl
@[simp] theorem setVreg_sysroot (s : State) (c t n : Nat) (r : VReg) : (s.setVreg c t n r).sysroot = s.sysroot := by unfold State.setVreg; (repeat' split) <;> rfl
@[simp] theorem setVreg_sysent (s : State) (c t n : Nat) (r : VReg) : (s.setVreg c t n r).sysent = s.sysent := by unfold State.setVreg; (repeat' split) <;> rfl
@[simp] theorem setVreg_tvec (s : State) (c t n : Nat) (r : VReg) : (s.setVreg c t n r).tvec = s.tvec := by unfold State.setVreg; (repeat' split) <;> rfl
@[simp] theorem setVreg_ftag (s : State) (c t n : Nat) (r : VReg) : (s.setVreg c t n r).ftag = s.ftag := by unfold State.setVreg; (repeat' split) <;> rfl
@[simp] theorem setVreg_devid (s : State) (c t n : Nat) (r : VReg) : (s.setVreg c t n r).devid = s.devid := by unfold State.setVreg; (repeat' split) <;> rfl
@[simp] theorem setVreg_sectors (s : State) (c t n : Nat) (r : VReg) : (s.setVreg c t n r).sectors = s.sectors := by unfold State.setVreg; (repeat' split) <;> rfl
@[simp] theorem setVreg_devBars (s : State) (c t n : Nat) (r : VReg) : (s.setVreg c t n r).devBars = s.devBars := by unfold State.setVreg; (repeat' split) <;> rfl
@[simp] theorem setVreg_parts (s : State) (c t n : Nat) (r : VReg) : (s.setVreg c t n r).parts = s.parts := by unfold State.setVreg; (repeat' split) <;> rfl
@[simp] theorem setVreg_counters (s : State) (c t n : Nat) (r : VReg) : (s.setVreg c t n r).counters = s.counters := by unfold State.setVreg; (repeat' split) <;> rfl
@[simp] theorem setVreg_parkedItems (s : State) (c t n : Nat) (r : VReg) : (s.setVreg c t n r).parkedItems = s.parkedItems := by unfold State.setVreg; (repeat' split) <;> rfl
@[simp] theorem setVreg_offers (s : State) (c t n : Nat) (r : VReg) : (s.setVreg c t n r).offers = s.offers := by unfold State.setVreg; (repeat' split) <;> rfl
@[simp] theorem setVreg_heap (s : State) (c t n : Nat) (r : VReg) : (s.setVreg c t n r).heap = s.heap := by unfold State.setVreg; (repeat' split) <;> rfl
@[simp] theorem setVreg_flows (s : State) (c t n : Nat) (r : VReg) : (s.setVreg c t n r).flows = s.flows := by unfold State.setVreg; (repeat' split) <;> rfl
@[simp] theorem setVreg_flowClock (s : State) (c t n : Nat) (r : VReg) : (s.setVreg c t n r).flowClock = s.flowClock := by unfold State.setVreg; (repeat' split) <;> rfl
@[simp] theorem setVreg_tickets (s : State) (c t n : Nat) (r : VReg) : (s.setVreg c t n r).tickets = s.tickets := by unfold State.setVreg; (repeat' split) <;> rfl
@[simp] theorem setVreg_groups (s : State) (c t n : Nat) (r : VReg) : (s.setVreg c t n r).groups = s.groups := by unfold State.setVreg; (repeat' split) <;> rfl
@[simp] theorem setVreg_txs (s : State) (c t n : Nat) (r : VReg) : (s.setVreg c t n r).txs = s.txs := by unfold State.setVreg; (repeat' split) <;> rfl
@[simp] theorem setVreg_tagCtr (s : State) (c t n : Nat) (r : VReg) : (s.setVreg c t n r).tagCtr = s.tagCtr := by unfold State.setVreg; (repeat' split) <;> rfl
@[simp] theorem setVreg_out (s : State) (c t n : Nat) (r : VReg) : (s.setVreg c t n r).out = s.out := by unfold State.setVreg; (repeat' split) <;> rfl
@[simp] theorem setVreg_toSelf (s : State) (c t n : Nat) (r : VReg) : (s.setVreg c t n r).toSelf = s.toSelf := by unfold State.setVreg; (repeat' split) <;> rfl
@[simp] theorem setVreg_mgmt (s : State) (c t n : Nat) (r : VReg) : (s.setVreg c t n r).mgmt = s.mgmt := by unfold State.setVreg; (repeat' split) <;> rfl
@[simp] theorem setVreg_vlan (s : State) (c t n : Nat) (r : VReg) : (s.setVreg c t n r).vlan = s.vlan := by unfold State.setVreg; (repeat' split) <;> rfl
@[simp] theorem setVreg_mgmtKey (s : State) (c t n : Nat) (r : VReg) : (s.setVreg c t n r).mgmtKey = s.mgmtKey := by unfold State.setVreg; (repeat' split) <;> rfl
@[simp] theorem setVreg_mgmtSent (s : State) (c t n : Nat) (r : VReg) : (s.setVreg c t n r).mgmtSent = s.mgmtSent := by unfold State.setVreg; (repeat' split) <;> rfl
@[simp] theorem setVreg_sampled (s : State) (c t n : Nat) (r : VReg) : (s.setVreg c t n r).sampled = s.sampled := by unfold State.setVreg; (repeat' split) <;> rfl
@[simp] theorem setVreg_links (s : State) (c t n : Nat) (r : VReg) : (s.setVreg c t n r).links = s.links := by unfold State.setVreg; (repeat' split) <;> rfl
@[simp] theorem setVreg_cols (s : State) (c t n : Nat) (r : VReg) : (s.setVreg c t n r).cols = s.cols := by unfold State.setVreg; (repeat' split) <;> rfl
@[simp] theorem setVreg_rows (s : State) (c t n : Nat) (r : VReg) : (s.setVreg c t n r).rows = s.rows := by unfold State.setVreg; (repeat' split) <;> rfl
@[simp] theorem setVreg_ports (s : State) (c t n : Nat) (r : VReg) : (s.setVreg c t n r).ports = s.ports := by unfold State.setVreg; (repeat' split) <;> rfl
@[simp] theorem setVreg_ueKeys (s : State) (c t n : Nat) (r : VReg) : (s.setVreg c t n r).ueKeys = s.ueKeys := by unfold State.setVreg; (repeat' split) <;> rfl
@[simp] theorem setVreg_ueSent (s : State) (c t n : Nat) (r : VReg) : (s.setVreg c t n r).ueSent = s.ueSent := by unfold State.setVreg; (repeat' split) <;> rfl
@[simp] theorem setVreg_mcasts (s : State) (c t n : Nat) (r : VReg) : (s.setVreg c t n r).mcasts = s.mcasts := by unfold State.setVreg; (repeat' split) <;> rfl
@[simp] theorem setVreg_tlb (s : State) (c t n : Nat) (r : VReg) : (s.setVreg c t n r).tlb = s.tlb := by unfold State.setVreg; (repeat' split) <;> rfl
@[simp] theorem setVreg_walked (s : State) (c t n : Nat) (r : VReg) : (s.setVreg c t n r).walked = s.walked := by unfold State.setVreg; (repeat' split) <;> rfl
@[simp] theorem setVreg_loads (s : State) (c t n : Nat) (r : VReg) : (s.setVreg c t n r).loads = s.loads := by unfold State.setVreg; (repeat' split) <;> rfl
@[simp] theorem setVreg_agenda (s : State) (c t n : Nat) (r : VReg) : (s.setVreg c t n r).agenda = s.agenda := by unfold State.setVreg; (repeat' split) <;> rfl
@[simp] theorem setVreg_cur (s : State) (c t n : Nat) (r : VReg) : (s.setVreg c t n r).cur = s.cur := by unfold State.setVreg; (repeat' split) <;> rfl
@[simp] theorem setVreg_fresh (s : State) (c t n : Nat) (r : VReg) : (s.setVreg c t n r).fresh = s.fresh := by unfold State.setVreg; (repeat' split) <;> rfl

/-! What was written is read back. -/

@[simp] theorem core_setCore_self (s : State) (c : Nat) (k : Core) : (s.setCore c k).core c = k := by simp [core, setCore]

@[simp] theorem core_setCore_ne (s : State) {c d : Nat} (k : Core) (h : d ≠ c) : (s.setCore c k).core d = s.core d := by
  simp [core, setCore, h]

@[simp] theorem core_onCore_self (s : State) (c : Nat) (f : Core → Core) : (s.onCore c f).core c = f (s.core c) := by simp [onCore]

@[simp] theorem core_onCore_ne (s : State) {c d : Nat} (f : Core → Core) (h : d ≠ c) : (s.onCore c f).core d = s.core d := by
  simp [onCore, h]

@[simp] theorem part_onPart_self (s : State) (p : Nat) (f : Partition → Partition) : (s.onPart p f).part p = f (s.part p) := by
  simp [part, onPart]

@[simp] theorem part_onPart_ne (s : State) {p q : Nat} (f : Partition → Partition) (h : q ≠ p) : (s.onPart p f).part q = s.part q := by
  simp [part, onPart, h]

@[simp] theorem part_onCore (s : State) (c p : Nat) (f : Core → Core) : (s.onCore c f).part p = s.part p := rfl

@[simp] theorem core_onPart (s : State) (c p : Nat) (f : Partition → Partition) : (s.onPart p f).core c = s.core c := rfl

@[simp] theorem team?_setTeam_self (s : State) (c t : Nat) (x : Team) : (s.setTeam c t x).team? c t = some x := by
  simp [team?, setTeam]

theorem team?_setTeam_ne (s : State) {c t d u : Nat} (x : Team) (h : ¬(d = c ∧ u = t)) : (s.setTeam c t x).team? d u = s.team? d u := by
  unfold team? setTeam
  by_cases hc : d = c
  · subst hc
    have hu : u ≠ t := fun e => h ⟨rfl, e⟩
    simp [hu]
  · simp [hc]

theorem onTeam_of_some {s : State} {c t : Nat} {x : Team} (f : Team → Team) (h : s.team? c t = some x) :
    s.onTeam c t f = s.setTeam c t (f x) := by simp [onTeam, h]

theorem onTeam_of_none {s : State} {c t : Nat} (f : Team → Team) (h : s.team? c t = none) : s.onTeam c t f = s := by simp [onTeam, h]

@[simp] theorem team?_onTeam_self (s : State) (c t : Nat) (f : Team → Team) : (s.onTeam c t f).team? c t = (s.team? c t).map f := by
  cases h : s.team? c t with
  | none => simp [onTeam_of_none f h, h]
  | some x => simp [onTeam_of_some f h]

theorem team?_onTeam_ne (s : State) {c t d u : Nat} (f : Team → Team) (h : ¬(d = c ∧ u = t)) : (s.onTeam c t f).team? d u = s.team? d u := by
  cases h' : s.team? c t with
  | none => rw [onTeam_of_none f h']
  | some x => rw [onTeam_of_some f h', team?_setTeam_ne _ _ h]

/-- A team that stands is still there after an update of it. -/
theorem team?_onTeam_isSome (s : State) (c t d u : Nat) (f : Team → Team) : ((s.onTeam c t f).team? d u).isSome = (s.team? d u).isSome := by
  by_cases h : d = c ∧ u = t
  · obtain ⟨rfl, rfl⟩ := h; simp
  · rw [team?_onTeam_ne s f h]

@[simp] theorem core_setTeam_ne (s : State) {c d : Nat} (t : Nat) (x : Team) (h : d ≠ c) : (s.setTeam c t x).core d = s.core d := by
  simp [setTeam, h]

@[simp] theorem core_onTeam_ne (s : State) {c d : Nat} (t : Nat) (f : Team → Team) (h : d ≠ c) : (s.onTeam c t f).core d = s.core d := by
  unfold onTeam; split <;> simp [h]

end Sys2Proof.Machine.State
end

