-- ==== Sys2Proof/Laws/Perform.lean ====
section
/-!
SUPPORT. What the frame of every instruction can do (R186): one lemma for each of its ends, and the rules that each instruction is
performed under.
-/

namespace Sys2Proof.Machine

open Sys2Proof

/-- Every instruction is performed under the rules of the table. -/
theorem exec_performs {i : Instr} {r : Rules} (h : rulesOf i = some r) : ∃ body, exec i = perform r body := by
  cases i <;> first | (cases h; exact ⟨_, rfl⟩) | cases h

/-- An instruction whose checks pass has its effect. -/
theorem perform_ready {i : Instr} {r : Rules} {body : Ctx → Did} {s : State} {cx : Ctx} (hr : rulesOf i = some r)
    (h : s.ready? i = some cx) : perform r body s = .next (cx.settle (cx.passesOf i) (body cx)) := by
  unfold State.ready? at h
  cases hc : s.ctx? with
  | none => simp [hc] at h
  | some cy =>
    simp only [hc, hr] at h
    split at h
    · rename_i hp
      cases h
      simp only [Ctx.passes, Bool.and_eq_true, Bool.not_eq_true', bne_iff_ne, ne_eq, Ctx.awaitsP15] at hp
      obtain ⟨⟨⟨⟨hi, hpr⟩, hok⟩, hw⟩, hg⟩ := hp
      have hg' : ¬ (cy.guarded = 0) := hg
      simp only [perform, hc, Ctx.passesOf, hr, Ctx.judge, hi, hok, Ctx.live]
      have hpr' : (r.priv && !cy.sys) = false := by
        cases hh : r.priv <;> cases hs : cy.sys <;> simp_all
      simp only [hpr', Bool.false_eq_true, if_false, Bool.not_true]
      have hq' : Ctx.p15Pending { cy with act := cy.guarded } = cy.p15Pending := rfl
      cases hq : cy.p15Pending
      · simp only [hq', hq, Bool.false_and, Bool.false_eq_true, if_false]
        rw [if_neg hg']
      · simp only [hq, Bool.true_and, Bool.or_eq_false_iff] at hw
        simp only [hq', hq, hw.1.1, hw.1.2, Bool.true_and, Bool.or_self, Bool.false_eq_true, if_false]
        rw [if_neg hg']
        have hw2 := hw.2
        rcases hgd : cy.h.guard with _ | ⟨b, p⟩
        · rfl
        · simp only [hgd] at hw2 ⊢
          simp only [hw2, Bool.false_eq_true, if_false]
    · cases h

/-- The team and the group at issue of a state that is ready are those of its context. -/
theorem ready_ctx {i : Instr} {s : State} {cx : Ctx} (h : s.ready? i = some cx) :
    ∃ cy r, s.ctx? = some cy ∧ rulesOf i = some r ∧ cy.passes r = true ∧ cx = cy.live := by
  unfold State.ready? at h
  split at h
  · split at h
    · cases h; exact ⟨_, _, ‹_›, ‹_›, ‹_›, rfl⟩
    · cases h
  · cases h

/-- What is known of a context at issue. -/
theorem ctx_some {s : State} {cx : Ctx} (h : s.ctx? = some cx) :
    s.cur.valid = true ∧ cx.s = s ∧ cx.c = s.cur.core ∧ cx.t = s.cur.slot ∧ cx.n = s.cur.spl ∧ s.team? cx.c cx.t = some cx.x ∧
      cx.x.splinterAt cx.n = some cx.p ∧ cx.sys = cx.x.inSys := by
  unfold State.ctx? at h
  cases hv : s.cur.valid with
  | false => simp [hv] at h
  | true =>
    cases ht : s.team? s.cur.core s.cur.slot with
    | none => simp [hv, ht] at h
    | some x =>
      cases hp : x.splinterAt s.cur.spl with
      | none => simp [hv, ht, hp] at h
      | some p =>
        simp only [hv, ht, hp, Bool.not_true, Bool.false_eq_true, if_false, Option.some.injEq] at h
        subst h
        simp [ht, hp]

theorem ready_team {i : Instr} {s : State} {cx : Ctx} (h : s.ready? i = some cx) :
    cx.s = s ∧ s.team? cx.c cx.t = some cx.x ∧ cx.x.splinterAt cx.n = some cx.p ∧ cx.sys = cx.x.inSys ∧ cx.act ≠ 0 := by
  obtain ⟨cy, r, hc, -, hp, rfl⟩ := ready_ctx h
  obtain ⟨-, h1, -, -, -, h2, h3, h4⟩ := ctx_some hc
  refine ⟨h1, h2, h3, h4, ?_⟩
  simp only [Ctx.passes, Bool.and_eq_true, bne_iff_ne] at hp
  exact hp.2

/-! The ends of an instruction before its effect (R180, R185, R186, R218). -/

theorem perform_illegal {r : Rules} {body : Ctx → Did} {s : State} {cx : Ctx} (hc : s.ctx? = some cx) (h : cx.illegal r = true) :
    perform r body s = .next (cx.live.settle (r.passes cx.live) (.trap s .illegal 0 none cx.act)) := by
  simp only [perform, hc, Ctx.judge, h, if_true, Ctx.live]
  rw [(ctx_some hc).2.1]

theorem perform_priv {r : Rules} {body : Ctx → Did} {s : State} {cx : Ctx} (hc : s.ctx? = some cx) (h : cx.illegal r = false)
    (hp : r.priv = true) (hs : cx.sys = false) :
    perform r body s = .next (cx.live.settle (r.passes cx.live) (.trap s .priv 0 none cx.act)) := by
  simp [perform, hc, Ctx.judge, h, hp, hs, Ctx.live, (ctx_some hc).2.1]

theorem perform_opclass {r : Rules} {body : Ctx → Did} {s : State} {cx : Ctx} (hc : s.ctx? = some cx) (h : cx.illegal r = false)
    (hp : (r.priv && !cx.sys) = false) (ho : r.ok cx = false) :
    perform r body s = .next (cx.live.settle (r.passes cx.live) (.trap s .opclass 0 none cx.act)) := by
  simp [perform, hc, Ctx.judge, h, hp, ho, Ctx.live, (ctx_some hc).2.1]

/-- An instruction answers a next state or, with no team at issue, the fault that says so. -/
theorem perform_answers (r : Rules) (body : Ctx → Did) (s : State) :
    perform r body s = .fault .noIssue ∧ s.ctx? = none ∨ ∃ t, perform r body s = .next t := by
  unfold perform
  split
  · exact .inl ⟨rfl, ‹_›⟩
  · exact .inr ⟨_, rfl⟩

end Sys2Proof.Machine
end

