-- ==== Sys2Proof/Laws/Operands.lean ====
section
/-!
SUPPORT. Operands that are known and free of poison: the blocking uses go on at once (R65, R70), and a result is written (R52, R57).
-/

namespace Sys2Proof.Machine

/-- No operand is poisoned, so no lane is of interest to `usePoison`. -/
theorem usePoison_nil (cx : Ctx) (k : Ctx → Did) : cx.usePoison [] k = k cx := by
  simp [Ctx.usePoison, tagsOf, addrLanes, maskOf]

theorem blockOn_clear {cx : Ctx} {srcs : List Operand} {k : Ctx → Did} (hp : cx.plain srcs = true) : cx.blockOn srcs k = k cx := by
  simp only [Ctx.plain, Bool.and_eq_true, Bool.not_eq_true', List.isEmpty_iff] at hp
  simp [Ctx.blockOn, hp.1, Ctx.use, hp.2, usePoison_nil]

theorem blockOn64_clear {cx : Ctx} {srcs : List Operand} {k : Ctx → Did} (hp : cx.plain64 srcs = true) : cx.blockOn64 srcs k = k cx := by
  exact blockOn_clear hp

/-- A blocking use of a symbol waits at issue (R65). -/
theorem blockOn_waits {cx : Ctx} {srcs : List Operand} {k : Ctx → Did} (h : srcs.any cx.symbolic = true) :
    cx.blockOn srcs k = .wait cx.s .issue := by
  simp only [Ctx.blockOn, h, if_true]

theorem compute_clear {cx : Ctx} {d : Operand} {srcs : List Operand} {f : Ctx → Nat → W64} (hw : cx.destWaits d = false)
    (hp : cx.plain srcs = true) : cx.compute d srcs f = .done (cx.write cx.s d (f cx) noOrigin) 0 := by
  simp [Ctx.compute, hw, blockOn_clear hp]

theorem compute64_clear {cx : Ctx} {d : Operand} {srcs : List Operand} {f : Ctx → Nat → W64} (hw : cx.destWaits64 d = false)
    (hp : cx.plain64 srcs = true) : cx.compute64 d srcs f = .done (cx.write64 cx.s d (f cx) noOrigin) 0 := by
  simp [Ctx.compute64, hw, blockOn64_clear hp]

@[simp] theorem plain_nil (cx : Ctx) : cx.plain [] = true := by
  simp [Ctx.plain, Ctx.origins]

/-- A known operand of a linear operation is its value (R64). -/
theorem opd_known {cx : Ctx} {o : Operand} (h : cx.symbolic o = false) : cx.opd o = .known (cx.read o) := by
  simp [Ctx.opd, h]

/-- 0xFF discards what is written to it (R52). -/
@[simp] theorem write_zero (cx : Ctx) (s : State) (f : Nat → W64) (o : Nat → Option Origin) : cx.write s .zero f o = s := rfl
@[simp] theorem write64_zero (cx : Ctx) (s : State) (f : Nat → W64) (o : Nat → Option Origin) : cx.write64 s .zero f o = s := rfl

end Sys2Proof.Machine
end

