-- ==== Sys2Proof/Laws/Effects.lean ====
section
/-!
SUPPORT. The shared operations of memory, engine and item instructions when nothing keeps them waiting and nothing traps: each goes on with
what follows it (R69, R80, R91, R95, R231, R241, R270).
-/

namespace Sys2Proof.Machine

theorem need_some {α : Type} {b : Bool} {o : Option α} {v : α} : need b o = some v ↔ b = true ∧ o = some v := by
  cases b <;> simp [need]

theorem gives_some {s t : State} {f : Nat → FlagSet} : gives s = some (t, f) ↔ s = t ∧ f = 0 := by
  constructor
  · intro h; cases h; exact ⟨rfl, rfl⟩
  · rintro ⟨rfl, rfl⟩; rfl

/-- No lane sets a flag. -/
@[simp] theorem flagsOf_zero (act : Mask) : flagsOf act 0 = 0 := by
  have h : ∀ (ls : List Nat) (z : FlagSet), ls.foldl (fun s l => s ||| (0 : Nat → FlagSet) l) z = z := by
    intro ls
    induction ls with
    | nil => intro z; rfl
    | cons l ls ih => intro z; simp
  exact h _ _

/-- An instruction that sets no flag goes on, and traps on none. -/
theorem finish_quiet (cx : Ctx) (i : Instr) (s : State) : cx.finish i s 0 = cx.retire s (cx.passesOf i + cx.expansions s) := by
  simp [Ctx.finish, Ctx.settle, flagsOf_zero, State.setFlags]

/-- The parts of a range make up the whole of it. -/
theorem aliasParts_total (w : Who) (lane a n : Nat) : ((aliasParts w lane a n).map fun p => p.2).sum = n := by
  have h : ∀ l : List (Nat × Nat), ((l.filter fun p => 0 < p.2).map fun p => p.2).sum = (l.map fun p => p.2).sum := by
    intro l
    induction l with
    | nil => rfl
    | cons p l ih =>
      rw [List.filter_cons]
      split <;> simp_all
  simp only [aliasParts, h, List.map_cons, List.map_nil, List.sum_cons, List.sum_nil]
  omega

/-- A range outside every lane's private window is one part, at its own address. -/
theorem aliasParts_outside (w : Who) (lane : Nat) {a n : Nat} (hn : 0 < n) (h : a + n ≤ privBase ∨ privBase + w.priv ≤ a) :
    aliasParts w lane a n = [(a, n)] := by
  unfold aliasParts
  rcases h with h | h
  · have h1 : min (a + n) (max a privBase) = a + n := by omega
    simp [h1, hn]
  · have h1 : min (a + n) (max a privBase) = a := by omega
    have h2 : min (a + n) (max a (privBase + w.priv)) = a := by omega
    simp [h1, h2, hn]

theorem behind_unmarked {cx : Ctx} {bit : Nat} {k : Ctx → Did} (h : cx.unmarked bit = true) : cx.behind bit k = k cx := by
  simp only [Ctx.unmarked, Bool.not_eq_true'] at h
  simp only [Ctx.behind, h, Bool.false_eq_true, if_false]

theorem withHandle_owned {cx : Ctx} {h : Nat} {k : Ctx → Did} (e : cx.ownsHandle h = true) : cx.withHandle h k = k cx := by
  simp only [Ctx.withHandle, e, if_true]

theorem checkAccess_clear {cx : Ctx} {a : Access} {k : Unit → Did} (h : cx.accessClear a = true) : cx.checkAccess a k = k () := by
  unfold Ctx.accessClear at h
  unfold Ctx.checkAccess
  rw [Bool.and_eq_true, Bool.not_eq_true'] at h
  obtain ⟨h1, h2⟩ := h
  rw [h1]
  simp only [Bool.or_eq_true, Bool.and_eq_true, Bool.not_eq_true', beq_iff_eq, Option.isNone_iff_eq_none] at h2
  simp only [Bool.or_eq_true, Bool.and_eq_true, Bool.not_eq_true', Bool.false_eq_true, if_false]
  split
  · rfl
  · rename_i h3
    obtain ⟨h4, h5⟩ := h2.resolve_left h3
    simp [h4, h5]

theorem awaitAccess_read {cx cy : Ctx} {a : Access} {k : Ctx → Did} (h : cx.recordsRead a = some cy) : cx.awaitAccess a k = k cy := by
  unfold Ctx.recordsRead at h
  unfold Ctx.awaitAccess
  split at h
  · rename_i h1; cases h; simp only [h1, if_true]
  · rename_i h1
    simp only [need_some, Bool.and_eq_true, Bool.not_eq_true'] at h
    obtain ⟨⟨⟨h2, h3⟩, h4⟩, h5⟩ := h
    simp only [h1, h2, Bool.false_eq_true, if_false]
    rw [checkAccess_clear h3]
    simp only [h4, Bool.not_true, Bool.false_eq_true, if_false]
    simp only [Option.bind_eq_some_iff] at h5
    obtain ⟨x, hx, p, hp, h6⟩ := h5
    simp only [need_some, Option.some.injEq] at h6
    obtain ⟨h7, rfl⟩ := h6
    simp only [hx, hp, h7, if_true]

theorem soundReads_ok {cx : Ctx} {f : Nat → W64} {k : Ctx → Did} {b : State → State} (h : cx.readsSound = true) :
    cx.soundReads f k b = k cx := by
  simp only [Ctx.readsSound, beq_iff_eq] at h
  simp only [Ctx.soundReads]
  rw [if_pos h]

theorem readOwn_read {cx : Ctx} {seat : Nat} {a : W64} {k : Ctx → Nat → Did} {b : State → State} {r : Ctx × Nat}
    (h : cx.ownRecord seat a = some r) : cx.readOwn seat a k b = k r.1 r.2 := by
  simp only [Ctx.ownRecord, need_some, Option.bind_eq_some_iff, Option.some.injEq] at h
  obtain ⟨h1, cy, h2, h3, rfl⟩ := h
  have h4 : (a.extractLsb' 0 6 != 0) = false := by simpa using h1
  have e := awaitAccess_read
    (k := fun cx => cx.soundReads (fun _ => a) (bad := b) fun cx => k cx (leNat (cx.p.reads.atD (cx.lane + 1024 * seat) []))) h2
  simp only [Ctx.readOwn, h4, Bool.false_eq_true, if_false]
  rw [e, soundReads_ok h3]

/-- A bound accumulator name: the instruction goes on with its accumulator. -/
theorem withAcc_bound {cx : Ctx} {n : Nat} {k : Ctx → Nat → Did} {e : State × Nat} (h : cx.boundAcc n = some e) :
    ∃ x : Team, cx.withAcc n k = k { cx with s := e.1, x := x } e.2 ∧ x.part = cx.x.part ∧ x.batch = cx.x.batch ∧
      (∀ m, x.ureg m = cx.x.ureg m) ∧ x.vregs = cx.x.vregs ∧ x.entry = cx.x.entry := by
  unfold Ctx.boundAcc at h
  unfold Ctx.withAcc
  cases hx : SMap.at? cx.x.accs n with
  | some i =>
    simp only [hx, Option.some.injEq] at h
    subst h
    exact ⟨cx.x, rfl, rfl, rfl, fun _ => rfl, rfl, rfl⟩
  | none =>
    simp only [hx, need_some, Option.map_eq_some_iff, decide_eq_true_eq] at h
    obtain ⟨h1, i, h2, rfl⟩ := h
    have h3 : ¬ ((cx.s.core cx.c).freeAccs.length ≤ 
        ((cx.s.core cx.c).waitingReqs.takeWhile fun r => r != ({ slot := cx.t, name := n, pc := cx.p.pc } : AccRequest)).length) := by omega
    simp only [h3, if_false, h2]
    exact ⟨_, rfl, rfl, rfl, fun _ => rfl, rfl, rfl⟩

end Sys2Proof.Machine
end

