-- ==== Sys2Proof/Laws/Memory.lean ====
section
/-!
SUPPORT. Memory in its canonical form: every operation that writes memory keeps the form, reset has it, and two memories in it that read
alike are equal (R3, R73, R400).
-/

namespace Sys2Proof.Machine

/-- Reset memory lists nothing. -/
theorem wf_reset : Memory.wf State.reset.mem = true := rfl

theorem wf_storeBytes {m : List Host.Cell} (a : Nat) (bs : List Byte) (h : Memory.wf m = true) : Memory.wf (storeBytes m a bs) = true := by
  induction bs generalizing m a with
  | nil => exact h
  | cons b bs ih => exact ih (a + 1) (SMap.canon_store a b h)

theorem wf_filter {m : List Host.Cell} (p : Host.Cell → Bool) (h : Memory.wf m = true) : Memory.wf (m.filter p) = true :=
  SMap.canon_filter p h

/-- Memories in canonical form that read alike are the same. -/
theorem memory_ext {m n : List Host.Cell} (hm : Memory.wf m = true) (hn : Memory.wf n = true) (h : ∀ a, SMap.atD m a 0 = SMap.atD n a 0) :
    m = n :=
  SMap.canon_ext hm hn h

/-! Soundness through the operations on memory. -/

theorem sound_of_mem {s t : State} (h : t.mem = s.mem) (hs : s.sound) : t.sound := by
  simpa [State.sound, h] using hs

theorem sound_reset : State.reset.sound := rfl

theorem sound_write {s : State} (a : Nat) (bs : List Byte) (h : s.sound) : (s.write a bs).sound := wf_storeBytes a bs h

theorem sound_zeroPhys {s : State} (a n : Nat) (h : s.sound) : (s.zeroPhys a n).sound := wf_filter _ h

theorem sound_writeParts {s : State} (ps : List (Nat × Nat)) (bs : List Byte) (h : s.sound) : (s.writeParts ps bs).sound := by
  induction ps generalizing s bs with
  | nil => exact h
  | cons p ps ih => exact ih _ (sound_write _ _ h)

/-- A fold of steps that each keep memory sound keeps it sound. -/
theorem sound_foldl {α : Type} {f : State → α → State} (hf : ∀ s a, s.sound → (f s a).sound) (l : List α) {s : State} (h : s.sound) :
    (l.foldl f s).sound := by
  induction l generalizing s with
  | nil => exact h
  | cons a l ih => exact ih (hf s a h)

theorem sound_zeroRange {s : State} (w : Who) (a n : Nat) (h : s.sound) : (s.zeroRange w a n).sound := by
  refine sound_foldl (fun s p hs => ?_) _ (sound_of_mem rfl h)
  split
  · exact sound_of_mem (s := State.zeroPhys _ _ _) rfl (sound_zeroPhys _ _ hs)
  · exact hs

/-- A report writes its record and TAIL, or DROP (R407). -/
theorem sound_raise {s : State} (code core : Nat) (part : Option Nat) (info : W64) (detail : W32) (h : s.sound) :
    (s.raise code core part info detail).sound := by
  unfold State.raise
  dsimp only
  split
  · exact h
  split
  · exact sound_write _ _ (sound_write _ _ (sound_of_mem rfl h))
  · exact sound_write _ _ (sound_of_mem rfl h)

/-- A range that a write does not reach reads as before. -/
theorem bytesAt_storeBytes_disjoint (m : SMap Byte) (a b n : Nat) (bs : List Byte) (h : b + n ≤ a ∨ a + bs.length ≤ b) :
    bytesAt (storeBytes m a bs) b n = bytesAt m b n := by
  have one : ∀ (bs : List Byte) (m : SMap Byte) (a x : Nat), (x < a ∨ a + bs.length ≤ x) → SMap.atD (storeBytes m a bs) x 0 = SMap.atD m x 0 := by
    intro bs
    induction bs with
    | nil => intros; rfl
    | cons c cs ih =>
      intro m a x hx
      simp only [List.length_cons] at hx
      rw [storeBytes, ih _ _ _ (by omega), SMap.atD_store_ne _ _ _ _ (by omega)]
  induction n generalizing b with
  | zero => rfl
  | succ n ih =>
    rw [bytesAt, bytesAt, one _ _ _ _ (by omega), ih (b + 1) (by omega)]

end Sys2Proof.Machine
end

