-- ==== Sys2Proof/Laws/PerInstr.lean ====
section
/-!
SUPPORT. The round trip of every instruction: the word of a well-formed instruction decodes to it, with every operand at every
value (R168-R185). An event has no word. One lemma for each constructor of Instr.
-/

namespace Sys2Proof.Laws.Encoding

/-- Decoding the word of a well-formed instruction gives the instruction. -/
def Statement (i : Instr) : Prop := i.wf = true → ∀ w, encode i = some w → decodeWord w = some i

/-! Fields of fields. -/

@[simp] theorem amount_packB (m : BitVec 6) (d a : BitVec 8) (amt : BitVec 6) : fAmt (packB m d a (0#4 ++ amt)) = amt := by
  unfold fAmt packB
  rw [extract_low _ _ 0 6 (by omega), extract_low _ _ 0 6 (by omega)]
  exact BitVec.extractLsb'_eq_self

@[simp] theorem high_packB (m : BitVec 6) (d a : BitVec 8) (amt : BitVec 6) : fHi4 (packB m d a (0#4 ++ amt)) = 0#4 := by
  unfold fHi4 packB
  rw [extract_low _ _ 6 4 (by omega), extract_high _ _ 6 0 4 rfl]
  exact BitVec.extractLsb'_eq_self

theorem movk_sel (s : BitVec 2) (i : BitVec 16) : (s ++ i : BitVec 18).extractLsb' 16 2 = s := by
  rw [extract_high _ _ 16 0 2 rfl]
  exact BitVec.extractLsb'_eq_self

theorem movk_imm (s : BitVec 2) (i : BitVec 16) : (s ++ i : BitVec 18).extractLsb' 0 16 = i := by
  rw [extract_low _ _ 0 16 (by omega)]
  exact BitVec.extractLsb'_eq_self

theorem mma_acc (z n a : BitVec 1) (c : BitVec 3) : (z ++ n ++ a ++ c : BitVec 6).extractLsb' 0 3 = c := by
  rw [extract_low _ _ 0 3 (by omega)]
  exact BitVec.extractLsb'_eq_self

theorem mma_bits (z n a : Bool) (c : BitVec 3) :
    let x : BitVec 6 := BitVec.ofBool z ++ BitVec.ofBool n ++ BitVec.ofBool a ++ c
    x[5] = z ∧ x[4] = n ∧ x[3] = a := by
  revert z n a c; decide +kernel

theorem tlb_fields (k : BitVec 2) (p : BitVec 3) :
    let x : BitVec 12 := 0#7 ++ p ++ k
    x.extractLsb' 5 7 = 0#7 ∧ x.extractLsb' 0 2 = k ∧ x.extractLsb' 2 3 = p := by
  revert k p; decide +kernel

theorem pop_fields (h : BitVec 9) (p : BitVec 3) :
    (h ++ p : BitVec 12).extractLsb' 3 9 = h ∧ (h ++ p : BitVec 12).extractLsb' 0 3 = p := by
  constructor
  · rw [extract_high _ _ 3 0 9 rfl]; exact BitVec.extractLsb'_eq_self
  · rw [extract_low _ _ 0 3 (by omega)]; exact BitVec.extractLsb'_eq_self

theorem last_fields (b : Bool) :
    (0#11 ++ BitVec.ofBool b : BitVec 12).extractLsb' 1 11 = 0#11 ∧ (0#11 ++ BitVec.ofBool b : BitVec 12)[0] = b := by
  revert b; decide +kernel

theorem fq_fields (p : BitVec 3) (k : BitVec 4) :
    let n : BitVec 12 := 0b00011#5 ++ p ++ k
    n ≠ 0x204#12 ∧ n.extractLsb' 7 5 = 0b00011#5 ∧ n.extractLsb' 0 4 = k ∧ n.extractLsb' 4 3 = p := by
  revert p k; decide +kernel

theorem ctl_fqhead (d : Operand) (p : BitVec 3) : decodeCtlW d (0b00011#5 ++ p ++ 0x4#4) = .fqhead d p := by
  obtain ⟨a, b, c, e⟩ := fq_fields p 0x4#4
  simp [decodeCtlW, a, b, c, e]

theorem ctl_fqbase (d : Operand) (p : BitVec 3) : decodeCtlW d (0b00011#5 ++ p ++ 0x3#4) = .fqbase d p := by
  obtain ⟨a, b, c, e⟩ := fq_fields p 0x3#4
  simp [decodeCtlW, a, b, c, e]

theorem ctl_row (d : Operand) (n : BitVec 12) (h : (Instr.ctlW d n).wf = true) : decodeCtlW d n = .ctlW d n := by
  simp only [Instr.wf, ctlOwnRow, Bool.and_eq_true, Bool.not_eq_true', Bool.or_eq_false_iff, beq_eq_false_iff_ne, ne_eq,
    Bool.and_eq_false_iff] at h
  obtain ⟨-, a, b⟩ := h
  unfold decodeCtlW
  rw [if_neg a, if_neg (by tauto), if_neg (by tauto)]

theorem add (d : Operand) (a : Operand) (b : Operand) : Statement (.add d a b) := by
  intro _ w h; cases h
  simp [decodeWord, decodeA01, op3]

theorem sub (d : Operand) (a : Operand) (b : Operand) : Statement (.sub d a b) := by
  intro _ w h; cases h
  simp [decodeWord, decodeA01, op3]

theorem addSatI (d : Operand) (a : Operand) (b : Operand) : Statement (.addSatI d a b) := by
  intro _ w h; cases h
  simp [decodeWord, decodeA01, op3]

theorem addSatN (d : Operand) (a : Operand) (b : Operand) : Statement (.addSatN d a b) := by
  intro _ w h; cases h
  simp [decodeWord, decodeA01, op3]

theorem mul (d : Operand) (a : Operand) (b : Operand) : Statement (.mul d a b) := by
  intro _ w h; cases h
  simp [decodeWord, decodeA02, op3]

theorem mulhiI (d : Operand) (a : Operand) (b : Operand) : Statement (.mulhiI d a b) := by
  intro _ w h; cases h
  simp [decodeWord, decodeA02, op3]

theorem mulhiN (d : Operand) (a : Operand) (b : Operand) : Statement (.mulhiN d a b) := by
  intro _ w h; cases h
  simp [decodeWord, decodeA02, op3]

theorem mad (d : Operand) (a : Operand) (b : Operand) : Statement (.mad d a b) := by
  intro _ w h; cases h
  simp [decodeWord, decodeA02, op3]

theorem divI (d : Operand) (a : Operand) (b : Operand) : Statement (.divI d a b) := by
  intro _ w h; cases h
  simp [decodeWord, decodeA03, op3]

theorem divN (d : Operand) (a : Operand) (b : Operand) : Statement (.divN d a b) := by
  intro _ w h; cases h
  simp [decodeWord, decodeA03, op3]

theorem remI (d : Operand) (a : Operand) (b : Operand) : Statement (.remI d a b) := by
  intro _ w h; cases h
  simp [decodeWord, decodeA03, op3]

theorem remN (d : Operand) (a : Operand) (b : Operand) : Statement (.remN d a b) := by
  intro _ w h; cases h
  simp [decodeWord, decodeA03, op3]

theorem andOp (d : Operand) (a : Operand) (b : Operand) : Statement (.andOp d a b) := by
  intro _ w h; cases h
  simp [decodeWord, decodeA04, op3]

theorem orOp (d : Operand) (a : Operand) (b : Operand) : Statement (.orOp d a b) := by
  intro _ w h; cases h
  simp [decodeWord, decodeA04, op3]

theorem xorOp (d : Operand) (a : Operand) (b : Operand) : Statement (.xorOp d a b) := by
  intro _ w h; cases h
  simp [decodeWord, decodeA04, op3]

theorem andn (d : Operand) (a : Operand) (b : Operand) : Statement (.andn d a b) := by
  intro _ w h; cases h
  simp [decodeWord, decodeA04, op3]

theorem shl (d : Operand) (a : Operand) (b : Operand) : Statement (.shl d a b) := by
  intro _ w h; cases h
  simp [decodeWord, decodeA05, op3]

theorem shr (d : Operand) (a : Operand) (b : Operand) : Statement (.shr d a b) := by
  intro _ w h; cases h
  simp [decodeWord, decodeA05, op3]

theorem sar (d : Operand) (a : Operand) (b : Operand) : Statement (.sar d a b) := by
  intro _ w h; cases h
  simp [decodeWord, decodeA05, op3]

theorem rotl (d : Operand) (a : Operand) (b : Operand) : Statement (.rotl d a b) := by
  intro _ w h; cases h
  simp [decodeWord, decodeA05, op3]

theorem clz (d : Operand) (a : Operand) : Statement (.clz d a) := by
  intro _ w h; cases h
  simp [decodeWord, decodeA06, op2]

theorem popc (d : Operand) (a : Operand) : Statement (.popc d a) := by
  intro _ w h; cases h
  simp [decodeWord, decodeA06, op2]

theorem brev (d : Operand) (a : Operand) : Statement (.brev d a) := by
  intro _ w h; cases h
  simp [decodeWord, decodeA06, op2]

theorem ffs (d : Operand) (a : Operand) : Statement (.ffs d a) := by
  intro _ w h; cases h
  simp [decodeWord, decodeA06, op2]

theorem minI (d : Operand) (a : Operand) (b : Operand) : Statement (.minI d a b) := by
  intro _ w h; cases h
  simp [decodeWord, decodeA07, op3]

theorem maxI (d : Operand) (a : Operand) (b : Operand) : Statement (.maxI d a b) := by
  intro _ w h; cases h
  simp [decodeWord, decodeA07, op3]

theorem minN (d : Operand) (a : Operand) (b : Operand) : Statement (.minN d a b) := by
  intro _ w h; cases h
  simp [decodeWord, decodeA07, op3]

theorem maxN (d : Operand) (a : Operand) (b : Operand) : Statement (.maxN d a b) := by
  intro _ w h; cases h
  simp [decodeWord, decodeA07, op3]

theorem bfxI (d : Operand) (a : Operand) (b : Operand) : Statement (.bfxI d a b) := by
  intro _ w h; cases h
  simp [decodeWord, decodeA08, op3]

theorem bfxN (d : Operand) (a : Operand) (b : Operand) : Statement (.bfxN d a b) := by
  intro _ w h; cases h
  simp [decodeWord, decodeA08, op3]

theorem bfi (d : Operand) (a : Operand) (b : Operand) : Statement (.bfi d a b) := by
  intro _ w h; cases h
  simp [decodeWord, decodeA08, op3]

theorem lea (d : Operand) (a : Operand) (b : Operand) : Statement (.lea d a b) := by
  intro _ w h; cases h
  simp [decodeWord, decodeA08, op3]

theorem addi (d a : Operand) (imm : BitVec 10) : Statement (.addi d a imm) := by
  intro _ w h; cases h
  simp [decodeWord, opB]

theorem muli (d a : Operand) (imm : BitVec 10) : Statement (.muli d a imm) := by
  intro _ w h; cases h
  simp [decodeWord, opB]

theorem andi (d a : Operand) (imm : BitVec 10) : Statement (.andi d a imm) := by
  intro _ w h; cases h
  simp [decodeWord, opB]

theorem ori (d a : Operand) (imm : BitVec 10) : Statement (.ori d a imm) := by
  intro _ w h; cases h
  simp [decodeWord, opB]

theorem xori (d a : Operand) (imm : BitVec 10) : Statement (.xori d a imm) := by
  intro _ w h; cases h
  simp [decodeWord, opB]

theorem shli (d a : Operand) (amt : BitVec 6) : Statement (.shli d a amt) := by
  intro _ w h; cases h
  simp [decodeWord, opB]

theorem shri (d a : Operand) (amt : BitVec 6) : Statement (.shri d a amt) := by
  intro _ w h; cases h
  simp [decodeWord, opB]

theorem sari (d a : Operand) (amt : BitVec 6) : Statement (.sari d a amt) := by
  intro _ w h; cases h
  simp [decodeWord, opB]

theorem movi (d : Operand) (imm : BitVec 18) : Statement (.movi d imm) := by
  intro _ w h; cases h
  simp [decodeWord, opJ]

theorem movk (d : Operand) (sel : BitVec 2) (imm : BitVec 16) : Statement (.movk d sel imm) := by
  intro _ w h; cases h
  simp [decodeWord, opJ, movk_sel, movk_imm]

theorem mov (d : Operand) (a : Operand) : Statement (.mov d a) := by
  intro _ w h; cases h
  simp [decodeWord, decodeA13, op2]

theorem cmov (d : Operand) (a : Operand) (b : Operand) : Statement (.cmov d a b) := by
  intro _ w h; cases h
  simp [decodeWord, decodeA13, op3]

theorem p2v (d : Operand) (a : Operand) : Statement (.p2v d a) := by
  intro _ w h; cases h
  simp [decodeWord, decodeA13, op2]

theorem v2p (d : Operand) (a : Operand) : Statement (.v2p d a) := by
  intro _ w h; cases h
  simp [decodeWord, decodeA13, op2]

theorem cmpEq (d : Operand) (a : Operand) (b : Operand) : Statement (.cmpEq d a b) := by
  intro _ w h; cases h
  simp [decodeWord, decodeA14, op3]

theorem cmpNe (d : Operand) (a : Operand) (b : Operand) : Statement (.cmpNe d a b) := by
  intro _ w h; cases h
  simp [decodeWord, decodeA14, op3]

theorem cmpLtI (d : Operand) (a : Operand) (b : Operand) : Statement (.cmpLtI d a b) := by
  intro _ w h; cases h
  simp [decodeWord, decodeA14, op3]

theorem cmpLeI (d : Operand) (a : Operand) (b : Operand) : Statement (.cmpLeI d a b) := by
  intro _ w h; cases h
  simp [decodeWord, decodeA14, op3]

theorem cmpLtN (d : Operand) (a : Operand) (b : Operand) : Statement (.cmpLtN d a b) := by
  intro _ w h; cases h
  simp [decodeWord, decodeA15, op3]

theorem cmpLeN (d : Operand) (a : Operand) (b : Operand) : Statement (.cmpLeN d a b) := by
  intro _ w h; cases h
  simp [decodeWord, decodeA15, op3]

theorem tst (d : Operand) (a : Operand) (b : Operand) : Statement (.tst d a b) := by
  intro _ w h; cases h
  simp [decodeWord, decodeA15, op3]

theorem tstz (d : Operand) (a : Operand) (b : Operand) : Statement (.tstz d a b) := by
  intro _ w h; cases h
  simp [decodeWord, decodeA15, op3]

theorem pand (d : Operand) (a : Operand) (b : Operand) : Statement (.pand d a b) := by
  intro _ w h; cases h
  simp [decodeWord, decodeA16, op3]

theorem por (d : Operand) (a : Operand) (b : Operand) : Statement (.por d a b) := by
  intro _ w h; cases h
  simp [decodeWord, decodeA16, op3]

theorem pxor (d : Operand) (a : Operand) (b : Operand) : Statement (.pxor d a b) := by
  intro _ w h; cases h
  simp [decodeWord, decodeA16, op3]

theorem pandn (d : Operand) (a : Operand) (b : Operand) : Statement (.pandn d a b) := by
  intro _ w h; cases h
  simp [decodeWord, decodeA16, op3]

theorem pset (d : Operand) : Statement (.pset d) := by
  intro _ w h; cases h
  simp [decodeWord, decodeA17, op1]

theorem pclr (d : Operand) : Statement (.pclr d) := by
  intro _ w h; cases h
  simp [decodeWord, decodeA17, op1]

theorem pfirst (d : Operand) (a : Operand) : Statement (.pfirst d a) := by
  intro _ w h; cases h
  simp [decodeWord, decodeA17, op2]

theorem pcnt (d : Operand) (a : Operand) : Statement (.pcnt d a) := by
  intro _ w h; cases h
  simp [decodeWord, decodeA17, op2]

theorem br (cond : Operand) (off : BitVec 18) : Statement (.br cond off) := by
  intro _ w h; cases h
  simp [decodeWord, opJ]

theorem call (cond : Operand) (off : BitVec 18) : Statement (.call cond off) := by
  intro _ w h; cases h
  simp [decodeWord, opJ]

theorem brx (a : Operand) : Statement (.brx a) := by
  intro _ w h; cases h
  simp [decodeWord, decodeA1A, op1]

theorem ret (a : Operand) : Statement (.ret a) := by
  intro _ w h; cases h
  simp [decodeWord, decodeA1A, op1]

theorem callx (d : Operand) (a : Operand) : Statement (.callx d a) := by
  intro _ w h; cases h
  simp [decodeWord, decodeA1A, op2]

theorem joinArr (cond : Operand) (off : BitVec 18) : Statement (.joinArr cond off) := by
  intro _ w h; cases h
  simp [decodeWord, opJ]

theorem joinSet (d : Operand) (a : Operand) : Statement (.joinSet d a) := by
  intro _ w h; cases h
  simp [decodeWord, decodeA1C, op2]

theorem joinAdd (d : Operand) (a : Operand) : Statement (.joinAdd d a) := by
  intro _ w h; cases h
  simp [decodeWord, decodeA1C, op2]

theorem joinClr (d : Operand) : Statement (.joinClr d) := by
  intro _ w h; cases h
  simp [decodeWord, decodeA1C, op1]

theorem joinRem (d : Operand) (a : Operand) : Statement (.joinRem d a) := by
  intro _ w h; cases h
  simp [decodeWord, decodeA1C, op2]

theorem exitLanes : Statement .exitLanes := by
  intro _ w h; cases h
  simp [decodeWord, decodeA1D, op0]

theorem refill : Statement .refill := by
  intro _ w h; cases h
  simp [decodeWord, decodeA1D, op0]

theorem yield : Statement .yield := by
  intro _ w h; cases h
  simp [decodeWord, decodeA1D, op0]

theorem nop : Statement .nop := by
  intro _ w h; cases h
  simp [decodeWord, decodeA1D, op0]

theorem ldB (d : Operand) (a : Operand) (b : Operand) : Statement (.ldB d a b) := by
  intro _ w h; cases h
  simp [decodeWord, decodeA20, op3]

theorem ldH (d : Operand) (a : Operand) (b : Operand) : Statement (.ldH d a b) := by
  intro _ w h; cases h
  simp [decodeWord, decodeA20, op3]

theorem ldW (d : Operand) (a : Operand) (b : Operand) : Statement (.ldW d a b) := by
  intro _ w h; cases h
  simp [decodeWord, decodeA20, op3]

theorem ldD (d : Operand) (a : Operand) (b : Operand) : Statement (.ldD d a b) := by
  intro _ w h; cases h
  simp [decodeWord, decodeA20, op3]

theorem stB (d : Operand) (a : Operand) (b : Operand) : Statement (.stB d a b) := by
  intro _ w h; cases h
  simp [decodeWord, decodeA21, op3]

theorem stH (d : Operand) (a : Operand) (b : Operand) : Statement (.stH d a b) := by
  intro _ w h; cases h
  simp [decodeWord, decodeA21, op3]

theorem stW (d : Operand) (a : Operand) (b : Operand) : Statement (.stW d a b) := by
  intro _ w h; cases h
  simp [decodeWord, decodeA21, op3]

theorem stD (d : Operand) (a : Operand) (b : Operand) : Statement (.stD d a b) := by
  intro _ w h; cases h
  simp [decodeWord, decodeA21, op3]

theorem pref (a : Operand) (b : Operand) : Statement (.pref a b) := by
  intro _ w h; cases h
  simp [decodeWord, decodeA22, op2]

theorem zeroLine (a : Operand) (b : Operand) : Statement (.zeroLine a b) := by
  intro _ w h; cases h
  simp [decodeWord, decodeA22, op2]

theorem gaddr (d : Operand) (a : Operand) : Statement (.gaddr d a) := by
  intro _ w h; cases h
  simp [decodeWord, decodeA22, op2]

theorem space (d : Operand) (a : Operand) : Statement (.space d a) := by
  intro _ w h; cases h
  simp [decodeWord, decodeA22, op2]

theorem alloc (d : Operand) (a : Operand) (b : Operand) : Statement (.alloc d a b) := by
  intro _ w h; cases h
  simp [decodeWord, decodeA23, op3]

theorem freeMem (a : Operand) : Statement (.freeMem a) := by
  intro _ w h; cases h
  simp [decodeWord, decodeA23, op1]

theorem allocZ (d : Operand) (a : Operand) (b : Operand) : Statement (.allocZ d a b) := by
  intro _ w h; cases h
  simp [decodeWord, decodeA23, op3]

theorem atomAdd (d : Operand) (a : Operand) (b : Operand) : Statement (.atomAdd d a b) := by
  intro _ w h; cases h
  simp [decodeWord, decodeA24, op3]

theorem atomAddSatN (d : Operand) (a : Operand) (b : Operand) : Statement (.atomAddSatN d a b) := by
  intro _ w h; cases h
  simp [decodeWord, decodeA24, op3]

theorem atomFadd (d : Operand) (a : Operand) (b : Operand) : Statement (.atomFadd d a b) := by
  intro _ w h; cases h
  simp [decodeWord, decodeA24, op3]

theorem atomXchg (d : Operand) (a : Operand) (b : Operand) : Statement (.atomXchg d a b) := by
  intro _ w h; cases h
  simp [decodeWord, decodeA24, op3]

theorem atomMinI (d : Operand) (a : Operand) (b : Operand) : Statement (.atomMinI d a b) := by
  intro _ w h; cases h
  simp [decodeWord, decodeA25, op3]

theorem atomMaxI (d : Operand) (a : Operand) (b : Operand) : Statement (.atomMaxI d a b) := by
  intro _ w h; cases h
  simp [decodeWord, decodeA25, op3]

theorem atomMinN (d : Operand) (a : Operand) (b : Operand) : Statement (.atomMinN d a b) := by
  intro _ w h; cases h
  simp [decodeWord, decodeA25, op3]

theorem atomMaxN (d : Operand) (a : Operand) (b : Operand) : Statement (.atomMaxN d a b) := by
  intro _ w h; cases h
  simp [decodeWord, decodeA25, op3]

theorem atomAnd (d : Operand) (a : Operand) (b : Operand) : Statement (.atomAnd d a b) := by
  intro _ w h; cases h
  simp [decodeWord, decodeA26, op3]

theorem atomOr (d : Operand) (a : Operand) (b : Operand) : Statement (.atomOr d a b) := by
  intro _ w h; cases h
  simp [decodeWord, decodeA26, op3]

theorem atomXor (d : Operand) (a : Operand) (b : Operand) : Statement (.atomXor d a b) := by
  intro _ w h; cases h
  simp [decodeWord, decodeA26, op3]

theorem atomCas (d : Operand) (a : Operand) (b : Operand) : Statement (.atomCas d a b) := by
  intro _ w h; cases h
  simp [decodeWord, decodeA26, op3]

theorem fence (pred succ : BitVec 4) (scope : Scope) : Statement (.fence pred succ scope) := by
  intro _ w h; cases h
  simp [decodeWord, decodeFence]

theorem barInit (x : Operand) (idx : BitVec 6) : Statement (.barInit x idx) := by
  intro _ w h; cases h
  simp [decodeWord, decodeE28, opXZ, opX]

theorem barInitForce (x : Operand) (idx : BitVec 6) : Statement (.barInitForce x idx) := by
  intro _ w h; cases h
  simp [decodeWord, decodeE28, opXZ, opX]

theorem barArr (x : Operand) (y : Operand) (idx : BitVec 6) : Statement (.barArr x y idx) := by
  intro _ w h; cases h
  simp [decodeWord, decodeE28, opXYZ, opXY]

theorem barWait (idx : BitVec 6) : Statement (.barWait idx) := by
  intro _ w h; cases h
  simp [decodeWord, decodeE28, opZ]

theorem barInv (idx : BitVec 6) : Statement (.barInv idx) := by
  intro _ w h; cases h
  simp [decodeWord, decodeE28, opZ]

theorem barQ (x : Operand) (idx : BitVec 6) : Statement (.barQ x idx) := by
  intro _ w h; cases h
  simp [decodeWord, decodeE28, opXZ, opX]

theorem sput (d : Operand) (a : Operand) : Statement (.sput d a) := by
  intro _ w h; cases h
  simp [decodeWord, decodeA29, op2]

theorem sgetC (d : Operand) (a : Operand) : Statement (.sgetC d a) := by
  intro _ w h; cases h
  simp [decodeWord, decodeA29, op2]

theorem sget (d : Operand) (a : Operand) : Statement (.sget d a) := by
  intro _ w h; cases h
  simp [decodeWord, decodeA29, op2]

theorem sq (d : Operand) (a : Operand) : Statement (.sq d a) := by
  intro _ w h; cases h
  simp [decodeWord, decodeA29, op2]

theorem flowRel : Statement .flowRel := by
  intro _ w h; cases h
  simp [decodeWord, decodeA2A, op0]

theorem flowSet (a : Operand) (b : Operand) : Statement (.flowSet a b) := by
  intro _ w h; cases h
  simp [decodeWord, decodeA2A, op2]

theorem flowQ (d : Operand) (a : Operand) : Statement (.flowQ d a) := by
  intro _ w h; cases h
  simp [decodeWord, decodeA2A, op2]

theorem enq (x : Operand) (y : Operand) : Statement (.enq x y) := by
  intro _ w h; cases h
  simp [decodeWord, decodeE2B, zeroZ, opXY]

theorem enqW (x : Operand) (y : Operand) : Statement (.enqW x y) := by
  intro _ w h; cases h
  simp [decodeWord, decodeE2B, zeroZ, opXY]

theorem cntSet (x : Operand) (y : Operand) : Statement (.cntSet x y) := by
  intro _ w h; cases h
  simp [decodeWord, decodeE2B, zeroZ, opXY]

theorem cntAdd (x : Operand) (y : Operand) : Statement (.cntAdd x y) := by
  intro _ w h; cases h
  simp [decodeWord, decodeE2B, zeroZ, opXY]

theorem cntDec (x : Operand) (y : Operand) : Statement (.cntDec x y) := by
  intro _ w h; cases h
  simp [decodeWord, decodeE2B, zeroZ, opXY]

theorem cntQ (x : Operand) (y : Operand) : Statement (.cntQ x y) := by
  intro _ w h; cases h
  simp [decodeWord, decodeE2B, zeroZ, opXY]

theorem heapIns (x : Operand) (y : Operand) : Statement (.heapIns x y) := by
  intro _ w h; cases h
  simp [decodeWord, decodeE2B, zeroZ, opXY]

theorem heapRm (x : Operand) : Statement (.heapRm x) := by
  intro _ w h; cases h
  simp [decodeWord, decodeE2B, zeroZ, opX]

theorem admitHeap (x : Operand) (y : Operand) : Statement (.admitHeap x y) := by
  intro _ w h; cases h
  simp [decodeWord, decodeE2B, zeroZ, opXY]

theorem rld (d : Operand) (a : Operand) (b : Operand) : Statement (.rld d a b) := by
  intro _ w h; cases h
  simp [decodeWord, decodeA2C, op3]

theorem rst (d : Operand) (a : Operand) (b : Operand) : Statement (.rst d a b) := by
  intro _ w h; cases h
  simp [decodeWord, decodeA2C, op3]

theorem ratom (d : Operand) (a : Operand) (b : Operand) : Statement (.ratom d a b) := by
  intro _ w h; cases h
  simp [decodeWord, decodeA2C, op3]

theorem mcst (d : Operand) (a : Operand) (b : Operand) : Statement (.mcst d a b) := by
  intro _ w h; cases h
  simp [decodeWord, decodeA2C, op3]

theorem tclaim (x : Operand) (y : Operand) : Statement (.tclaim x y) := by
  intro _ w h; cases h
  simp [decodeWord, decodeE2D, zeroZ, opXY]

theorem trel (x : Operand) : Statement (.trel x) := by
  intro _ w h; cases h
  simp [decodeWord, decodeE2D, zeroZ, opX]

theorem tload (x : Operand) (h : BitVec 6) : Statement (.tload x h) := by
  intro _ w h; cases h
  simp [decodeWord, decodeE2D, opXZ, opX]

theorem mma (x : Operand) (y : Operand) (zc nb na : Bool) (acc : BitVec 3) : Statement (.mma x y zc nb na acc) := by
  intro _ w h; cases h
  simp [decodeWord, decodeE2D, opXY, mma_acc, mma_bits]

theorem mfence (x : Operand) : Statement (.mfence x) := by
  intro _ w h; cases h
  simp [decodeWord, decodeE2D, zeroZ, opX]

theorem mwait (x : Operand) : Statement (.mwait x) := by
  intro _ w h; cases h
  simp [decodeWord, decodeE2D, zeroZ, opX]

theorem accZero (x : Operand) : Statement (.accZero x) := by
  intro _ w h; cases h
  simp [decodeWord, decodeE2D, zeroZ, opX]

theorem accLd (x : Operand) (y : Operand) : Statement (.accLd x y) := by
  intro _ w h; cases h
  simp [decodeWord, decodeE2D, zeroZ, opXY]

theorem accSt (x : Operand) (y : Operand) : Statement (.accSt x y) := by
  intro _ w h; cases h
  simp [decodeWord, decodeE2D, zeroZ, opXY]

theorem accMv (x : Operand) (y : Operand) (vi : BitVec 6) : Statement (.accMv x y vi) := by
  intro _ w h; cases h
  simp [decodeWord, decodeE2D, opXYZ, opXY]

theorem tinfo (x : Operand) (y : Operand) : Statement (.tinfo x y) := by
  intro _ w h; cases h
  simp [decodeWord, decodeE2D, zeroZ, opXY]

theorem fadd (d : Operand) (a : Operand) (b : Operand) : Statement (.fadd d a b) := by
  intro _ w h; cases h
  simp [decodeWord, decodeA30, op3]

theorem fsub (d : Operand) (a : Operand) (b : Operand) : Statement (.fsub d a b) := by
  intro _ w h; cases h
  simp [decodeWord, decodeA30, op3]

theorem fmul (d : Operand) (a : Operand) (b : Operand) : Statement (.fmul d a b) := by
  intro _ w h; cases h
  simp [decodeWord, decodeA30, op3]

theorem ffma (d : Operand) (a : Operand) (b : Operand) : Statement (.ffma d a b) := by
  intro _ w h; cases h
  simp [decodeWord, decodeA30, op3]

theorem fmin (d : Operand) (a : Operand) (b : Operand) : Statement (.fmin d a b) := by
  intro _ w h; cases h
  simp [decodeWord, decodeA31, op3]

theorem fmax (d : Operand) (a : Operand) (b : Operand) : Statement (.fmax d a b) := by
  intro _ w h; cases h
  simp [decodeWord, decodeA31, op3]

theorem fdiv (d : Operand) (a : Operand) (b : Operand) : Statement (.fdiv d a b) := by
  intro _ w h; cases h
  simp [decodeWord, decodeA31, op3]

theorem fcpsgn (d : Operand) (a : Operand) (b : Operand) : Statement (.fcpsgn d a b) := by
  intro _ w h; cases h
  simp [decodeWord, decodeA31, op3]

theorem frcp (d : Operand) (a : Operand) : Statement (.frcp d a) := by
  intro _ w h; cases h
  simp [decodeWord, decodeA32, op2]

theorem frsq (d : Operand) (a : Operand) : Statement (.frsq d a) := by
  intro _ w h; cases h
  simp [decodeWord, decodeA32, op2]

theorem fsqrt (d : Operand) (a : Operand) : Statement (.fsqrt d a) := by
  intro _ w h; cases h
  simp [decodeWord, decodeA32, op2]

theorem fexp2 (d : Operand) (a : Operand) : Statement (.fexp2 d a) := by
  intro _ w h; cases h
  simp [decodeWord, decodeA32, op2]

theorem flog2 (d : Operand) (a : Operand) : Statement (.flog2 d a) := by
  intro _ w h; cases h
  simp [decodeWord, decodeA33, op2]

theorem fsin (d : Operand) (a : Operand) : Statement (.fsin d a) := by
  intro _ w h; cases h
  simp [decodeWord, decodeA33, op2]

theorem fcos (d : Operand) (a : Operand) : Statement (.fcos d a) := by
  intro _ w h; cases h
  simp [decodeWord, decodeA33, op2]

theorem ftanh (d : Operand) (a : Operand) : Statement (.ftanh d a) := by
  intro _ w h; cases h
  simp [decodeWord, decodeA33, op2]

theorem fcmpEq (d : Operand) (a : Operand) (b : Operand) : Statement (.fcmpEq d a b) := by
  intro _ w h; cases h
  simp [decodeWord, decodeA34, op3]

theorem fcmpLt (d : Operand) (a : Operand) (b : Operand) : Statement (.fcmpLt d a b) := by
  intro _ w h; cases h
  simp [decodeWord, decodeA34, op3]

theorem fcmpLe (d : Operand) (a : Operand) (b : Operand) : Statement (.fcmpLe d a b) := by
  intro _ w h; cases h
  simp [decodeWord, decodeA34, op3]

theorem fcmpUn (d : Operand) (a : Operand) (b : Operand) : Statement (.fcmpUn d a b) := by
  intro _ w h; cases h
  simp [decodeWord, decodeA34, op3]

theorem cvtRn (d : Operand) (a : Operand) (code : BitVec 8) : Statement (.cvtRn d a code) := by
  intro _ w h; cases h
  simp [decodeWord, decodeA35, opCode2]

theorem cvtRz (d : Operand) (a : Operand) (code : BitVec 8) : Statement (.cvtRz d a code) := by
  intro _ w h; cases h
  simp [decodeWord, decodeA35, opCode2]

theorem cvtRd (d : Operand) (a : Operand) (code : BitVec 8) : Statement (.cvtRd d a code) := by
  intro _ w h; cases h
  simp [decodeWord, decodeA35, opCode2]

theorem cvtRu (d : Operand) (a : Operand) (code : BitVec 8) : Statement (.cvtRu d a code) := by
  intro _ w h; cases h
  simp [decodeWord, decodeA35, opCode2]

theorem qblk (d : Operand) (a : Operand) (b : Operand) : Statement (.qblk d a b) := by
  intro _ w h; cases h
  simp [decodeWord, decodeA36, op3]

theorem dqblk (d : Operand) (a : Operand) : Statement (.dqblk d a) := by
  intro _ w h; cases h
  simp [decodeWord, decodeA36, op2]

theorem qmx (d : Operand) (a : Operand) (code : BitVec 8) : Statement (.qmx d a code) := by
  intro _ w h; cases h
  simp [decodeWord, decodeA36, opCode2]

theorem shfl (d : Operand) (a : Operand) (b : Operand) : Statement (.shfl d a b) := by
  intro _ w h; cases h
  simp [decodeWord, decodeA37, op3]

theorem shflX (d : Operand) (a : Operand) (b : Operand) : Statement (.shflX d a b) := by
  intro _ w h; cases h
  simp [decodeWord, decodeA37, op3]

theorem shflUp (d : Operand) (a : Operand) (b : Operand) : Statement (.shflUp d a b) := by
  intro _ w h; cases h
  simp [decodeWord, decodeA37, op3]

theorem shflDn (d : Operand) (a : Operand) (b : Operand) : Statement (.shflDn d a b) := by
  intro _ w h; cases h
  simp [decodeWord, decodeA37, op3]

theorem voteAny (d : Operand) (a : Operand) : Statement (.voteAny d a) := by
  intro _ w h; cases h
  simp [decodeWord, decodeA38, op2]

theorem voteAll (d : Operand) (a : Operand) : Statement (.voteAll d a) := by
  intro _ w h; cases h
  simp [decodeWord, decodeA38, op2]

theorem ballot (d : Operand) (a : Operand) : Statement (.ballot d a) := by
  intro _ w h; cases h
  simp [decodeWord, decodeA38, op2]

theorem voteEq (d : Operand) (a : Operand) : Statement (.voteEq d a) := by
  intro _ w h; cases h
  simp [decodeWord, decodeA38, op2]

theorem redwAdd (d : Operand) (a : Operand) : Statement (.redwAdd d a) := by
  intro _ w h; cases h
  simp [decodeWord, decodeA39, op2]

theorem redwFadd (d : Operand) (a : Operand) : Statement (.redwFadd d a) := by
  intro _ w h; cases h
  simp [decodeWord, decodeA39, op2]

theorem redwFmax (d : Operand) (a : Operand) : Statement (.redwFmax d a) := by
  intro _ w h; cases h
  simp [decodeWord, decodeA39, op2]

theorem redwFmin (d : Operand) (a : Operand) : Statement (.redwFmin d a) := by
  intro _ w h; cases h
  simp [decodeWord, decodeA39, op2]

theorem topkIns (d : Operand) (a : Operand) (b : Operand) : Statement (.topkIns d a b) := by
  intro _ w h; cases h
  simp [decodeWord, decodeA3A, op3]

theorem topkClr (d : Operand) (code : BitVec 8) : Statement (.topkClr d code) := by
  intro _ w h; cases h
  simp [decodeWord, decodeA3A, opCode1]

theorem symQ (d : Operand) (a : Operand) : Statement (.symQ d a) := by
  intro _ w h; cases h
  simp [decodeWord, decodeA3B, op2]

theorem symWait (a : Operand) : Statement (.symWait a) := by
  intro _ w h; cases h
  simp [decodeWord, decodeA3B, op1]

theorem symWall : Statement .symWall := by
  intro _ w h; cases h
  simp [decodeWord, decodeA3B, op0]

theorem cp (x : Operand) (h : BitVec 6) : Statement (.cp x h) := by
  intro _ w h; cases h
  simp [decodeWord, decodeE3C, opXZ, opX]

theorem cpSg (x : Operand) (h : BitVec 6) : Statement (.cpSg x h) := by
  intro _ w h; cases h
  simp [decodeWord, decodeE3C, opXZ, opX]

theorem cpStep (x : Operand) : Statement (.cpStep x) := by
  intro _ w h; cases h
  simp [decodeWord, decodeE3C, zeroZ, opX]

theorem hWait (h : BitVec 6) : Statement (.hWait h) := by
  intro _ w h; cases h
  simp [decodeWord, decodeE3C, opZ]

theorem hSet (x : Operand) (y : Operand) (h : BitVec 6) : Statement (.hSet x y h) := by
  intro k w h; cases h
  have : x = .zero → ¬ y = .zero := by
    have : ¬x = .zero ∨ ¬y = .zero := by simpa [Instr.wf] using k
    tauto
  simpa [decodeWord, decodeE3C, opXYZ, opXY] using this

theorem hSetFree (h : BitVec 6) : Statement (.hSetFree h) := by
  intro _ w h; cases h
  simp [decodeWord, decodeE3C]

theorem hQ (x : Operand) (h : BitVec 6) : Statement (.hQ x h) := by
  intro _ w h; cases h
  simp [decodeWord, decodeE3C, opXZ, opX]

theorem pullReq (x : Operand) (h : BitVec 6) : Statement (.pullReq x h) := by
  intro _ w h; cases h
  simp [decodeWord, decodeE3C, opXZ, opX]

theorem grantCfg (x : Operand) (y : Operand) (h : BitVec 6) : Statement (.grantCfg x y h) := by
  intro _ w h; cases h
  simp [decodeWord, decodeE3C, opXYZ, opXY]

theorem xferQ (x : Operand) (h : BitVec 6) : Statement (.xferQ x h) := by
  intro _ w h; cases h
  simp [decodeWord, decodeE3C, opXZ, opX]

theorem smp (x : Operand) (y : Operand) (h : BitVec 6) : Statement (.smp x y h) := by
  intro _ w h; cases h
  simp [decodeWord, decodeE3C, opXYZ, opXY]

theorem smpQ (x : Operand) (h : BitVec 6) : Statement (.smpQ x h) := by
  intro _ w h; cases h
  simp [decodeWord, decodeE3C, opXZ, opX]

theorem trapInstr (n : BitVec 12) : Statement (.trapInstr n) := by
  intro _ w h; cases h
  simp [decodeWord, decodeS]

theorem sret : Statement .sret := by
  intro _ w h; cases h
  simp [decodeWord, decodeS]

theorem ctlR (d : Operand) (n : BitVec 12) : Statement (.ctlR d n) := by
  intro _ w h; cases h
  simp [decodeWord, decodeS]

theorem ctlW (d : Operand) (n : BitVec 12) : Statement (.ctlW d n) := by
  intro k w h; cases h
  have := ctl_row d n k
  simp [decodeWord, decodeS, this]

theorem devid (d : Operand) : Statement (.devid d) := by
  intro _ w h; cases h
  simp [decodeWord, decodeS, decodeCtlW]

theorem fqhead (d : Operand) (p : BitVec 3) : Statement (.fqhead d p) := by
  intro _ w h; cases h
  have := ctl_fqhead d p
  simp [decodeWord, decodeS, this]

theorem fqbase (d : Operand) (p : BitVec 3) : Statement (.fqbase d p) := by
  intro _ w h; cases h
  have := ctl_fqbase d p
  simp [decodeWord, decodeS, this]

theorem tlbInv (d : Operand) (k : BitVec 2) (p : BitVec 3) : Statement (.tlbInv d k p) := by
  intro _ w h; cases h
  simp [decodeWord, decodeS, tlb_fields]

theorem faultPop (d : Operand) (p : BitVec 3) : Statement (.faultPop d p) := by
  intro _ w h; cases h
  simp [decodeWord, decodeS, pop_fields]

theorem faultPopW (d : Operand) (p : BitVec 3) : Statement (.faultPopW d p) := by
  intro _ w h; cases h
  simp [decodeWord, decodeS, pop_fields]

theorem faultDone (d : Operand) (ans : Bool) : Statement (.faultDone d ans) := by
  intro _ w h; cases h
  simp [decodeWord, decodeS, last_fields]

theorem teamPark (d : Operand) : Statement (.teamPark d) := by
  intro _ w h; cases h
  simp [decodeWord, decodeS]

theorem teamWake (d : Operand) : Statement (.teamWake d) := by
  intro _ w h; cases h
  simp [decodeWord, decodeS]

theorem ctxSave (d : Operand) (k : Bool) : Statement (.ctxSave d k) := by
  intro _ w h; cases h
  simp [decodeWord, decodeS, last_fields]

theorem ctxLoad (d : Operand) (k : Bool) : Statement (.ctxLoad d k) := by
  intro _ w h; cases h
  simp [decodeWord, decodeS, last_fields]

theorem halt : Statement .halt := by
  intro _ w h; cases h
  simp [decodeWord, decodeS]

theorem dictionaryWord (hi lo : BitVec 10) : Statement (.dictionaryWord hi lo) := by
  intro _ w h; cases h
  simp [decodeWord]

theorem powerOn : Statement .powerOn := by intro _ w h; cases h

theorem romVerify : Statement .romVerify := by intro _ w h; cases h

theorem firmwareDownload (image : List Byte) : Statement (.firmwareDownload image) := by intro _ w h; cases h

theorem downloadRetry : Statement .downloadRetry := by intro _ w h; cases h

theorem resetPin : Statement .resetPin := by intro _ w h; cases h

theorem powerRemoved : Statement .powerRemoved := by intro _ w h; cases h

theorem thermalWarning (sector : Nat) : Statement (.thermalWarning sector) := by intro _ w h; cases h

theorem thermalTrip (sector : Nat) : Statement (.thermalTrip sector) := by intro _ w h; cases h

theorem attestationQuote (nonce : List Byte) : Statement (.attestationQuote nonce) := by intro _ w h; cases h

theorem managementRead (what : MgmtItem) : Statement (.managementRead what) := by intro _ w h; cases h

theorem energyWindow (measured : List Nat) : Statement (.energyWindow measured) := by intro _ w h; cases h

theorem teamFormation (core : Nat) : Statement (.teamFormation core) := by intro _ w h; cases h

theorem orderedRelease (part label : Nat) : Statement (.orderedRelease part label) := by intro _ w h; cases h

theorem cutIn (core : Nat) : Statement (.cutIn core) := by intro _ w h; cases h

theorem cutInAnswer (core : Nat) : Statement (.cutInAnswer core) := by intro _ w h; cases h

theorem teamStarvation (core quarter : Nat) : Statement (.teamStarvation core quarter) := by intro _ w h; cases h

theorem splinterStarvation (core slot : Nat) : Statement (.splinterStarvation core slot) := by intro _ w h; cases h

theorem heldLanesRetry (core slot : Nat) : Statement (.heldLanesRetry core slot) := by intro _ w h; cases h

theorem joinFallback (core slot : Nat) : Statement (.joinFallback core slot) := by intro _ w h; cases h

theorem symbolResolution (core sym : Nat) : Statement (.symbolResolution core sym) := by intro _ w h; cases h

theorem faultRecordRetry (core : Nat) : Statement (.faultRecordRetry core) := by intro _ w h; cases h

theorem trapEntry (core slot : Nat) : Statement (.trapEntry core slot) := by intro _ w h; cases h

theorem uncorrectableError (site : ErrorSite) : Statement (.uncorrectableError site) := by intro _ w h; cases h

theorem softError (core unit : Nat) : Statement (.softError core unit) := by intro _ w h; cases h

theorem copyCompletion (sector index : Nat) : Statement (.copyCompletion sector index) := by intro _ w h; cases h

theorem tensorOperationCompletion (core index : Nat) : Statement (.tensorOperationCompletion core index) := by intro _ w h; cases h

theorem pullAnnouncement (ann : Announcement) : Statement (.pullAnnouncement ann) := by intro _ w h; cases h

theorem callerGrant (part : Nat) : Statement (.callerGrant part) := by intro _ w h; cases h

theorem pullToken (tok : PullToken) : Statement (.pullToken tok) := by intro _ w h; cases h

theorem pullBeat (beat : PullBeat) : Statement (.pullBeat beat) := by intro _ w h; cases h

theorem pullNotice (core handle : Nat) (note : PullNote) : Statement (.pullNotice core handle note) := by intro _ w h; cases h

theorem tokenExpiry (part req slot : Nat) : Statement (.tokenExpiry part req slot) := by intro _ w h; cases h

theorem orphan (part req : Nat) : Statement (.orphan part req) := by intro _ w h; cases h

theorem abandon (core handle : Nat) : Statement (.abandon core handle) := by intro _ w h; cases h

theorem callerSave (part : Nat) : Statement (.callerSave part) := by intro _ w h; cases h

theorem samplerJobStart (sector : Nat) : Statement (.samplerJobStart sector) := by intro _ w h; cases h

theorem samplerJobCompletion (sector : Nat) : Statement (.samplerJobCompletion sector) := by intro _ w h; cases h

theorem peerRequest (req : PeerMsg) : Statement (.peerRequest req) := by intro _ w h; cases h

theorem readResponse (tag : Nat) (vals : List (Nat × BitVec 64)) : Statement (.readResponse tag vals) := by intro _ w h; cases h

theorem ack (tag : Nat) (olds : List (Nat × BitVec 64)) : Statement (.ack tag olds) := by intro _ w h; cases h

theorem nack (msg : NackMsg) : Statement (.nack msg) := by intro _ w h; cases h

theorem peerTimeout (tag : Nat) : Statement (.peerTimeout tag) := by intro _ w h; cases h

theorem multicastWrite (msg : McastMsg) : Statement (.multicastWrite msg) := by intro _ w h; cases h

theorem multicastAck (tag column : Nat) (bits : BitVec 512) : Statement (.multicastAck tag column bits) := by intro _ w h; cases h

theorem multicastTimeout (tag : Nat) : Statement (.multicastTimeout tag) := by intro _ w h; cases h

theorem linkControl (link : Nat) (note : LinkNote) : Statement (.linkControl link note) := by intro _ w h; cases h

theorem linkDown (link : Nat) : Statement (.linkDown link) := by intro _ w h; cases h

theorem linkTraining (train : LinkTraining) : Statement (.linkTraining train) := by intro _ w h; cases h

theorem transitFlit (link : Nat) (flit : Flit) : Statement (.transitFlit link flit) := by intro _ w h; cases h

end Sys2Proof.Laws.Encoding
end

