-- ==== Sys2Proof/Tests/Slice0.lean ====
section
/-!
SUPPORT. Small checks of the model: what WellFormed refuses; words written out bit by bit from the spec's opcode table; the values that
the spec's tables give; and, for each statement with hypotheses, states and operands that meet them.
-/

namespace Sys2Proof.Tests

open Sys2Proof Sys2Proof.Machine

set_option Elab.async false

/-! What is not well formed (R185, and the ranges of what an event names). -/

theorem test_wf_cvt_pair : (Instr.cvtRn (.v 1) (.v 2) 0x00).wf = false := by decide
theorem test_wf_cvt_reserved : (Instr.cvtRz (.v 1) (.v 2) 0x60).wf = false := by decide
theorem test_wf_cvt_integers : (Instr.cvtRd (.v 1) (.v 2) 0x8C).wf = false := by decide
theorem test_wf_cvt_narrow : (Instr.cvtRu (.v 1) (.v 2) 0x38).wf = false := by decide
theorem test_wf_cvt : (Instr.cvtRn (.v 1) (.v 2) 0x08).wf = true := by decide
theorem test_wf_qmx : (Instr.qmx (.v 1) (.v 2) 2).wf = false ∧ (Instr.qmx (.v 1) (.v 2) 6).wf = false := by decide
theorem test_wf_topk : (Instr.topkClr (.v 1) 0).wf = false ∧ (Instr.topkClr (.v 1) 9).wf = false ∧ (Instr.topkClr (.v 1) 8).wf = true := by
  decide
theorem test_wf_ctl_read : (Instr.ctlR (.w 1) 0x005).wf = false ∧ (Instr.ctlR (.w 1) 0x103).wf = false ∧
    (Instr.ctlR (.w 1) 0x204).wf = true := by decide
theorem test_wf_ctl_write : (Instr.ctlW (.w 1) 0x204).wf = false ∧ (Instr.ctlW (.w 1) 0x205).wf = false ∧
    (Instr.ctlW (.w 1) 0x202).wf = true := by decide
theorem test_wf_dictionary : (Instr.dictionaryWord 1023 0).wf = false := by decide
theorem test_wf_handle_set : (Instr.hSet .zero .zero 3).wf = false ∧ (Instr.hSet .zero (.w 1) 3).wf = true := by decide
theorem test_wf_sector : (Instr.thermalTrip 16).wf = false ∧ (Instr.copyCompletion 16 0).wf = false ∧
    (Instr.copyCompletion 15 64).wf = false := by decide
theorem test_wf_core : (Instr.cutIn 256).wf = false ∧ (Instr.teamStarvation 0 4).wf = false ∧ (Instr.trapEntry 0 32).wf = false ∧
    (Instr.symbolResolution 0 256).wf = false := by decide
theorem test_wf_engine : (Instr.tensorOperationCompletion 0 64).wf = false ∧ (Instr.abandon 256 0).wf = false ∧
    (Instr.pullNotice 0 64 { delivered := true, ue := none }).wf = false := by decide
theorem test_wf_partition : (Instr.callerGrant 8).wf = false ∧ (Instr.tokenExpiry 0 0 4).wf = false ∧
    (Instr.orderedRelease 9 0).wf = false := by decide
theorem test_wf_link : (Instr.linkDown 48).wf = false ∧ (Instr.linkControl 48 { counter := 0, replay := false }).wf = false ∧ (Instr.energyWindow [0]).wf = false := by
  decide

/-! Words: their fields from the left are those that the opcode table gives, with the operand codes of R51-R54. -/

/-- Every word of a table decodes to the instruction beside it. -/
def decodes (l : List (BitVec 32 × Instr)) : Bool := l.all fun e => decodeWord e.1 == some e.2

/-- Words and the instructions that they stand for (R191, R192, R193, R194, R195, R196). -/
def words1 : List (BitVec 32 × Instr) :=
  [(0b000001_00000101_00000110_00000111_00#32, .add (.v 5) (.v 6) (.v 7)),
   (0b000001_00000101_00000110_00000111_01#32, .sub (.v 5) (.v 6) (.v 7)),
   (0b000001_00000101_00000110_00000111_10#32, .addSatI (.v 5) (.v 6) (.v 7)),
   (0b000001_00000101_00000110_00000111_11#32, .addSatN (.v 5) (.v 6) (.v 7)),
   (0b000010_00000101_00000110_00000111_00#32, .mul (.v 5) (.v 6) (.v 7)),
   (0b000010_00000101_00000110_00000111_01#32, .mulhiI (.v 5) (.v 6) (.v 7)),
   (0b000010_00000101_00000110_00000111_10#32, .mulhiN (.v 5) (.v 6) (.v 7)),
   (0b000010_00000101_00000110_00000111_11#32, .mad (.v 5) (.v 6) (.v 7)),
   (0b000011_00000101_00000110_00000111_00#32, .divI (.v 5) (.v 6) (.v 7)),
   (0b000011_00000101_00000110_00000111_01#32, .divN (.v 5) (.v 6) (.v 7)),
   (0b000011_00000101_00000110_00000111_10#32, .remI (.v 5) (.v 6) (.v 7)),
   (0b000011_00000101_00000110_00000111_11#32, .remN (.v 5) (.v 6) (.v 7)),
   (0b000100_00000101_00000110_00000111_00#32, .andOp (.v 5) (.v 6) (.v 7)),
   (0b000100_00000101_00000110_00000111_01#32, .orOp (.v 5) (.v 6) (.v 7)),
   (0b000100_00000101_00000110_00000111_10#32, .xorOp (.v 5) (.v 6) (.v 7)),
   (0b000100_00000101_00000110_00000111_11#32, .andn (.v 5) (.v 6) (.v 7)),
   (0b000101_00000101_00000110_00000111_00#32, .shl (.v 5) (.v 6) (.v 7)),
   (0b000101_00000101_00000110_00000111_01#32, .shr (.v 5) (.v 6) (.v 7)),
   (0b000101_00000101_00000110_00000111_10#32, .sar (.v 5) (.v 6) (.v 7)),
   (0b000101_00000101_00000110_00000111_11#32, .rotl (.v 5) (.v 6) (.v 7)),
   (0b000110_00000101_00000110_1111111100#32, .clz (.v 5) (.v 6)),
   (0b000110_00000101_00000110_1111111101#32, .popc (.v 5) (.v 6)),
   (0b000110_00000101_00000110_1111111110#32, .brev (.v 5) (.v 6)),
   (0b000110_00000101_00000110_1111111111#32, .ffs (.v 5) (.v 6))]

theorem test_words_1 : decodes words1 = true := by decide +kernel

/-- Words and the instructions that they stand for (R194, R197, R198, R199, R200, R201, R202). -/
def words2 : List (BitVec 32 × Instr) :=
  [(0b000111_00000101_00000110_00000111_00#32, .minI (.v 5) (.v 6) (.v 7)),
   (0b000111_00000101_00000110_00000111_01#32, .maxI (.v 5) (.v 6) (.v 7)),
   (0b000111_00000101_00000110_00000111_10#32, .minN (.v 5) (.v 6) (.v 7)),
   (0b000111_00000101_00000110_00000111_11#32, .maxN (.v 5) (.v 6) (.v 7)),
   (0b001000_00000101_00000110_00000111_00#32, .bfxI (.v 5) (.v 6) (.v 7)),
   (0b001000_00000101_00000110_00000111_01#32, .bfxN (.v 5) (.v 6) (.v 7)),
   (0b001000_00000101_00000110_00000111_10#32, .bfi (.v 5) (.v 6) (.v 7)),
   (0b001000_00000101_00000110_00000111_11#32, .lea (.v 5) (.v 6) (.v 7)),
   (0b001001_00000101_00000110_0000100101#32, .addi (.v 5) (.v 6) 37),
   (0b001010_00000101_00000110_0000100101#32, .muli (.v 5) (.v 6) 37),
   (0b001011_00000101_00000110_0000100101#32, .andi (.v 5) (.v 6) 37),
   (0b001100_00000101_00000110_0000100101#32, .ori (.v 5) (.v 6) 37),
   (0b001101_00000101_00000110_0000100101#32, .xori (.v 5) (.v 6) 37),
   (0b001110_00000101_00000110_0000_010101#32, .shli (.v 5) (.v 6) 21),
   (0b001111_00000101_00000110_0000_010101#32, .shri (.v 5) (.v 6) 21),
   (0b010000_00000101_00000110_0000_010101#32, .sari (.v 5) (.v 6) 21),
   (0b010001_00000101_000000000000100101#32, .movi (.v 5) 37),
   (0b010010_00000101_10_0001001000110100#32, .movk (.v 5) 2 4660),
   (0b010011_00000101_00000110_1111111100#32, .mov (.v 5) (.v 6)),
   (0b010011_00000101_00000110_00000111_01#32, .cmov (.v 5) (.v 6) (.v 7)),
   (0b010011_00000101_11000100_1111111110#32, .p2v (.v 5) (.p 4)),
   (0b010011_11000011_00000110_1111111111#32, .v2p (.p 3) (.v 6)),
   (0b010100_11000011_00000110_00000111_00#32, .cmpEq (.p 3) (.v 6) (.v 7)),
   (0b010100_11000011_00000110_00000111_01#32, .cmpNe (.p 3) (.v 6) (.v 7))]

theorem test_words_2 : decodes words2 = true := by decide +kernel

/-- Words and the instructions that they stand for (R202, R203, R204, R205, R206, R210, R209). -/
def words3 : List (BitVec 32 × Instr) :=
  [(0b010100_11000011_00000110_00000111_10#32, .cmpLtI (.p 3) (.v 6) (.v 7)),
   (0b010100_11000011_00000110_00000111_11#32, .cmpLeI (.p 3) (.v 6) (.v 7)),
   (0b010101_11000011_00000110_00000111_00#32, .cmpLtN (.p 3) (.v 6) (.v 7)),
   (0b010101_11000011_00000110_00000111_01#32, .cmpLeN (.p 3) (.v 6) (.v 7)),
   (0b010101_11000011_00000110_00000111_10#32, .tst (.p 3) (.v 6) (.v 7)),
   (0b010101_11000011_00000110_00000111_11#32, .tstz (.p 3) (.v 6) (.v 7)),
   (0b010110_11000011_11000100_11000101_00#32, .pand (.p 3) (.p 4) (.p 5)),
   (0b010110_11000011_11000100_11000101_01#32, .por (.p 3) (.p 4) (.p 5)),
   (0b010110_11000011_11000100_11000101_10#32, .pxor (.p 3) (.p 4) (.p 5)),
   (0b010110_11000011_11000100_11000101_11#32, .pandn (.p 3) (.p 4) (.p 5)),
   (0b010111_11000011_111111111111111100#32, .pset (.p 3)),
   (0b010111_11000011_111111111111111101#32, .pclr (.p 3)),
   (0b010111_11000011_11000100_1111111110#32, .pfirst (.p 3) (.p 4)),
   (0b010111_00000101_11000100_1111111111#32, .pcnt (.v 5) (.p 4)),
   (0b011000_11000011_111111111111111101#32, .br (.p 3) (-3)),
   (0b011001_11000011_111111111111111101#32, .call (.p 3) (-3)),
   (0b01101011111111_10001100_1111111100#32, .brx (.w 12)),
   (0b01101011111111_10001100_1111111101#32, .ret (.w 12)),
   (0b011010_00000101_10001100_1111111110#32, .callx (.v 5) (.w 12)),
   (0b011011_11011010_111111111111111101#32, .joinArr (.j 2) (-3)),
   (0b011100_11011010_11000100_1111111100#32, .joinSet (.j 2) (.p 4)),
   (0b011100_11011010_11000100_1111111101#32, .joinAdd (.j 2) (.p 4)),
   (0b011100_11011010_111111111111111110#32, .joinClr (.j 2)),
   (0b011100_11011010_11000100_1111111111#32, .joinRem (.j 2) (.p 4))]

theorem test_words_3 : decodes words3 = true := by decide +kernel

/-- Words and the instructions that they stand for (R211, R212, R213, R219, R220, R223, R224, R225, R226, R227, R228). -/
def words4 : List (BitVec 32 × Instr) :=
  [(0b01110111111111111111111111111100#32, .exitLanes),
   (0b01110111111111111111111111111101#32, .refill),
   (0b01110111111111111111111111111110#32, .yield),
   (0b01110111111111111111111111111111#32, .nop),
   (0b100000_00000101_10001100_00000111_00#32, .ldB (.v 5) (.w 12) (.v 7)),
   (0b100000_00000101_10001100_00000111_01#32, .ldH (.v 5) (.w 12) (.v 7)),
   (0b100000_00000101_10001100_00000111_10#32, .ldW (.v 5) (.w 12) (.v 7)),
   (0b100000_00000101_10001100_00000111_11#32, .ldD (.v 5) (.w 12) (.v 7)),
   (0b100001_00000101_10001100_00000111_00#32, .stB (.v 5) (.w 12) (.v 7)),
   (0b100001_00000101_10001100_00000111_01#32, .stH (.v 5) (.w 12) (.v 7)),
   (0b100001_00000101_10001100_00000111_10#32, .stW (.v 5) (.w 12) (.v 7)),
   (0b100001_00000101_10001100_00000111_11#32, .stD (.v 5) (.w 12) (.v 7)),
   (0b10001011111111_10001100_00000111_00#32, .pref (.w 12) (.v 7)),
   (0b10001011111111_10001100_00000111_01#32, .zeroLine (.w 12) (.v 7)),
   (0b100010_00000101_10001100_1111111110#32, .gaddr (.v 5) (.w 12)),
   (0b100010_00000101_10001100_1111111111#32, .space (.v 5) (.w 12)),
   (0b100011_00000101_10001100_00000111_00#32, .alloc (.v 5) (.w 12) (.v 7)),
   (0b10001111111111_10001100_1111111101#32, .freeMem (.w 12)),
   (0b100011_00000101_10001100_00000111_10#32, .allocZ (.v 5) (.w 12) (.v 7)),
   (0b100100_00000101_10001100_00000111_00#32, .atomAdd (.v 5) (.w 12) (.v 7)),
   (0b100100_00000101_10001100_00000111_01#32, .atomAddSatN (.v 5) (.w 12) (.v 7)),
   (0b100100_00000101_10001100_00000111_10#32, .atomFadd (.v 5) (.w 12) (.v 7)),
   (0b100100_00000101_10001100_00000111_11#32, .atomXchg (.v 5) (.w 12) (.v 7)),
   (0b100101_00000101_10001100_00000111_00#32, .atomMinI (.v 5) (.w 12) (.v 7))]

theorem test_words_4 : decodes words4 = true := by decide +kernel

/-- Words and the instructions that they stand for (R228, R231, R233, R234, R235, R236, R237, R238, R239, R241, R242). -/
def words5 : List (BitVec 32 × Instr) :=
  [(0b100101_00000101_10001100_00000111_01#32, .atomMaxI (.v 5) (.w 12) (.v 7)),
   (0b100101_00000101_10001100_00000111_10#32, .atomMinN (.v 5) (.w 12) (.v 7)),
   (0b100101_00000101_10001100_00000111_11#32, .atomMaxN (.v 5) (.w 12) (.v 7)),
   (0b100110_00000101_10001100_00000111_00#32, .atomAnd (.v 5) (.w 12) (.v 7)),
   (0b100110_00000101_10001100_00000111_01#32, .atomOr (.v 5) (.w 12) (.v 7)),
   (0b100110_00000101_10001100_00000111_10#32, .atomXor (.v 5) (.w 12) (.v 7)),
   (0b100110_00000101_10001100_00000111_11#32, .atomCas (.v 5) (.w 12) (.v 7)),
   (0b100111_0011_0101_011_000000000000000#32, .fence 3 5 .dev),
   (0b1010000000_10001001_11111111_010011#32, .barInit (.w 9) 19),
   (0b1010000001_10001001_11111111_010011#32, .barInitForce (.w 9) 19),
   (0b1010000010_10001001_10001010_010011#32, .barArr (.w 9) (.w 10) 19),
   (0b10100000111111111111111111_010011#32, .barWait 19),
   (0b10100001001111111111111111_010011#32, .barInv 19),
   (0b1010000101_10001001_11111111_010011#32, .barQ (.w 9) 19),
   (0b101001_00000101_00000110_1111111100#32, .sput (.v 5) (.v 6)),
   (0b101001_00000101_00000110_1111111101#32, .sgetC (.v 5) (.v 6)),
   (0b101001_00000101_00000110_1111111110#32, .sget (.v 5) (.v 6)),
   (0b101001_11000011_00000110_1111111111#32, .sq (.p 3) (.v 6)),
   (0b10101011111111111111111111111100#32, .flowRel),
   (0b10101011111111_00000110_00000111_01#32, .flowSet (.v 6) (.v 7)),
   (0b101010_10001000_00000110_1111111110#32, .flowQ (.w 8) (.v 6)),
   (0b1010110000_10001001_10001010_000000#32, .enq (.w 9) (.w 10)),
   (0b1010110001_10001001_10001010_000000#32, .enqW (.w 9) (.w 10)),
   (0b1010110010_10001001_10001010_000000#32, .cntSet (.w 9) (.w 10))]

theorem test_words_5 : decodes words5 = true := by decide +kernel

/-- Words and the instructions that they stand for (R242, R243, R143, R327, R328, R329, R330, R274, R275, R276, R277, R278, R279, R280, R281, R248). -/
def words6 : List (BitVec 32 × Instr) :=
  [(0b1010110011_10001001_10001010_000000#32, .cntAdd (.w 9) (.w 10)),
   (0b1010110100_10001001_10001010_000000#32, .cntDec (.w 9) (.w 10)),
   (0b1010110101_10001001_10001010_000000#32, .cntQ (.w 9) (.w 10)),
   (0b1010110110_10001001_10001010_000000#32, .heapIns (.w 9) (.w 10)),
   (0b1010110111_10001001_11111111000000#32, .heapRm (.w 9)),
   (0b1010111000_10001001_10001010_000000#32, .admitHeap (.w 9) (.w 10)),
   (0b101100_00000101_00000110_00000111_00#32, .rld (.v 5) (.v 6) (.v 7)),
   (0b101100_00000101_00000110_00000111_01#32, .rst (.v 5) (.v 6) (.v 7)),
   (0b101100_00000101_00000110_00000111_10#32, .ratom (.v 5) (.v 6) (.v 7)),
   (0b101100_00000101_00000110_00000111_11#32, .mcst (.v 5) (.v 6) (.v 7)),
   (0b1011010000_11100011_10001010_000000#32, .tclaim (.t 3) (.w 10)),
   (0b1011010001_11100011_11111111000000#32, .trel (.t 3)),
   (0b1011010010_11100011_11111111_010011#32, .tload (.t 3) 19),
   (0b1011010011_11100011_11100100_101010#32, .mma (.t 3) (.t 4) true false true 2),
   (0b1011010100_10001001_11111111000000#32, .mfence (.w 9)),
   (0b1011010101_10001001_11111111000000#32, .mwait (.w 9)),
   (0b1011010110_11010010_11111111000000#32, .accZero (.a 2)),
   (0b1011010111_11010010_10001010_000000#32, .accLd (.a 2) (.w 10)),
   (0b1011011000_11010010_10001010_000000#32, .accSt (.a 2) (.w 10)),
   (0b1011011001_11010010_00000110_010011#32, .accMv (.a 2) (.v 6) 19),
   (0b1011011010_10001001_11100100_000000#32, .tinfo (.w 9) (.t 4)),
   (0b110000_00000101_00000110_00000111_00#32, .fadd (.v 5) (.v 6) (.v 7)),
   (0b110000_00000101_00000110_00000111_01#32, .fsub (.v 5) (.v 6) (.v 7)),
   (0b110000_00000101_00000110_00000111_10#32, .fmul (.v 5) (.v 6) (.v 7))]

theorem test_words_6 : decodes words6 = true := by decide +kernel

/-- Words and the instructions that they stand for (R248, R250, R251, R252, R254, R255, R256, R257). -/
def words7 : List (BitVec 32 × Instr) :=
  [(0b110000_00000101_00000110_00000111_11#32, .ffma (.v 5) (.v 6) (.v 7)),
   (0b110001_00000101_00000110_00000111_00#32, .fmin (.v 5) (.v 6) (.v 7)),
   (0b110001_00000101_00000110_00000111_01#32, .fmax (.v 5) (.v 6) (.v 7)),
   (0b110001_00000101_00000110_00000111_10#32, .fdiv (.v 5) (.v 6) (.v 7)),
   (0b110001_00000101_00000110_00000111_11#32, .fcpsgn (.v 5) (.v 6) (.v 7)),
   (0b110010_00000101_00000110_1111111100#32, .frcp (.v 5) (.v 6)),
   (0b110010_00000101_00000110_1111111101#32, .frsq (.v 5) (.v 6)),
   (0b110010_00000101_00000110_1111111110#32, .fsqrt (.v 5) (.v 6)),
   (0b110010_00000101_00000110_1111111111#32, .fexp2 (.v 5) (.v 6)),
   (0b110011_00000101_00000110_1111111100#32, .flog2 (.v 5) (.v 6)),
   (0b110011_00000101_00000110_1111111101#32, .fsin (.v 5) (.v 6)),
   (0b110011_00000101_00000110_1111111110#32, .fcos (.v 5) (.v 6)),
   (0b110011_00000101_00000110_1111111111#32, .ftanh (.v 5) (.v 6)),
   (0b110100_11000011_00000110_00000111_00#32, .fcmpEq (.p 3) (.v 6) (.v 7)),
   (0b110100_11000011_00000110_00000111_01#32, .fcmpLt (.p 3) (.v 6) (.v 7)),
   (0b110100_11000011_00000110_00000111_10#32, .fcmpLe (.p 3) (.v 6) (.v 7)),
   (0b110100_11000011_00000110_00000111_11#32, .fcmpUn (.p 3) (.v 6) (.v 7)),
   (0b110101_00000101_00000110_00001000_00#32, .cvtRn (.v 5) (.v 6) 8),
   (0b110101_00000101_00000110_00001000_01#32, .cvtRz (.v 5) (.v 6) 8),
   (0b110101_00000101_00000110_00001000_10#32, .cvtRd (.v 5) (.v 6) 8),
   (0b110101_00000101_00000110_00001000_11#32, .cvtRu (.v 5) (.v 6) 8),
   (0b110110_00000101_00000110_00000111_00#32, .qblk (.v 5) (.v 6) (.v 7)),
   (0b110110_00000101_00000110_1111111101#32, .dqblk (.v 5) (.v 6)),
   (0b110110_00000101_00000110_00000101_10#32, .qmx (.v 5) (.v 6) 5)]

theorem test_words_7 : decodes words7 = true := by decide +kernel

/-- Words and the instructions that they stand for (R259, R260, R261, R262, R263, R264, R289, R290, R292, R293, R294, R295). -/
def words8 : List (BitVec 32 × Instr) :=
  [(0b110111_00000101_00000110_00000111_00#32, .shfl (.v 5) (.v 6) (.v 7)),
   (0b110111_00000101_00000110_00000111_01#32, .shflX (.v 5) (.v 6) (.v 7)),
   (0b110111_00000101_00000110_00000111_10#32, .shflUp (.v 5) (.v 6) (.v 7)),
   (0b110111_00000101_00000110_00000111_11#32, .shflDn (.v 5) (.v 6) (.v 7)),
   (0b111000_11000011_11000100_1111111100#32, .voteAny (.p 3) (.p 4)),
   (0b111000_11000011_11000100_1111111101#32, .voteAll (.p 3) (.p 4)),
   (0b111000_00000101_11000100_1111111110#32, .ballot (.v 5) (.p 4)),
   (0b111000_11000011_00000110_1111111111#32, .voteEq (.p 3) (.v 6)),
   (0b111001_00000101_00000110_1111111100#32, .redwAdd (.v 5) (.v 6)),
   (0b111001_00000101_00000110_1111111101#32, .redwFadd (.v 5) (.v 6)),
   (0b111001_00000101_00000110_1111111110#32, .redwFmax (.v 5) (.v 6)),
   (0b111001_00000101_00000110_1111111111#32, .redwFmin (.v 5) (.v 6)),
   (0b111010_00000101_00000110_00000111_00#32, .topkIns (.v 5) (.v 6) (.v 7)),
   (0b111010_00000101_11111111_00000011_01#32, .topkClr (.v 5) 3),
   (0b111011_10001000_00000110_1111111100#32, .symQ (.w 8) (.v 6)),
   (0b11101111111111_00000110_1111111101#32, .symWait (.v 6)),
   (0b11101111111111111111111111111110#32, .symWall),
   (0b1111000000_10001001_11111111_100001#32, .cp (.w 9) 33),
   (0b1111000001_10001001_11111111_100001#32, .cpSg (.w 9) 33),
   (0b1111000010_10001001_11111111000000#32, .cpStep (.w 9)),
   (0b11110000111111111111111111_100001#32, .hWait 33),
   (0b1111000100_10001001_10001010_100001#32, .hSet (.w 9) (.w 10) 33),
   (0b11110001001111111111111111_100001#32, .hSetFree 33),
   (0b1111000101_10001001_11111111_100001#32, .hQ (.w 9) 33)]

theorem test_words_8 : decodes words8 = true := by decide +kernel

/-- Words and the instructions that they stand for (R298, R300, R307, R336, R338, R369, R370, R371, R25, R364, R88, R372, R373, R374, R375, R376, R396, R377, R184). -/
def words9 : List (BitVec 32 × Instr) :=
  [(0b1111000110_10001001_11111111_100001#32, .pullReq (.w 9) 33),
   (0b1111000111_10001001_10001010_100001#32, .grantCfg (.w 9) (.w 10) 33),
   (0b1111001000_10001001_11111111_100001#32, .xferQ (.w 9) 33),
   (0b1111001001_10001001_10001010_100001#32, .smp (.w 9) (.w 10) 33),
   (0b1111001010_10001001_11111111_100001#32, .smpQ (.w 9) 33),
   (0b11110100000011111111_000000010101#32, .trapInstr 21),
   (0b11110100000111111111000000000000#32, .sret),
   (0b111101000010_10001000_000101010010#32, .ctlR (.w 8) 0x152),
   (0b111101000011_10001001_001000000010#32, .ctlW (.w 9) 0x202),
   (0b111101000011_10001001_001000000100#32, .devid (.w 9)),
   (0b111101000011_10001001_00011_101_0100#32, .fqhead (.w 9) 5),
   (0b111101000011_10001001_00011_101_0011#32, .fqbase (.w 9) 5),
   (0b111101000100_10001001_0000000_101_01#32, .tlbInv (.w 9) 1 5),
   (0b111101000101_10001000_000000000_101#32, .faultPop (.w 8) 5),
   (0b111101000101_10001000_000000001_101#32, .faultPopW (.w 8) 5),
   (0b111101000110_10001001_00000000000_1#32, .faultDone (.w 9) true),
   (0b111101000111_10001001_000000000000#32, .teamPark (.w 9)),
   (0b111101001000_10001001_000000000000#32, .teamWake (.w 9)),
   (0b111101001001_10001001_00000000000_1#32, .ctxSave (.w 9) true),
   (0b111101001010_10001001_00000000000_1#32, .ctxLoad (.w 9) true),
   (0b11110100101111111111000000000000#32, .halt),
   (0b111111_0000000101_111111_0000000111#32, .dictionaryWord 5 7)]

theorem test_words_9 : decodes words9 = true := by decide +kernel

/-- The words that R185 and the catalogue of illegal words name. -/
theorem test_illegal_words :
    [0x00000000, 0x7BFFFFFF, 0xEBFFFFFE, 0x9D05A000, 0x9D068000, 0x83F2100A, 0xD4141AA0, 0xFC030007, 0xFFFFFFFF].all
      (fun w => (decodeWord w).all fun i => !i.wf) = true := by decide +kernel

/-- Words that the spec assembles by hand. -/
theorem test_assembled_words :
    decodes [(0x8052100A, .ldW (.v 20) (.w 4) (.v 2)), (0x44163456, .movi (.v 5) 0x23456), (0x9D058000, .fence 4 1 .dev),
      (0xFC05FFFF, .dictionaryWord 5 1023), (0xFC05FC06, .dictionaryWord 5 6), (0x77FFFFFF, .nop), (0x241817FD, .addi (.v 6) (.v 5) (-3)),
      (0x26521000, .addi (.w 20) (.w 4) 0), (0xC030343B, .ffma (.v 12) (.v 13) (.v 14)), (0x847A1812, .stW (.v 30) (.w 6) (.v 4)),
      (0x6307FFFE, .br (.p 1) (-2)), (0xFC03FC07, .dictionaryWord 3 7), (0x060C1014, .add (.w 3) (.v 4) (.v 5))] = true := by decide +kernel

/-- The examples of R368. -/
theorem test_system_words :
    decodes [(0xF40FF021, .trapInstr 0x21), (0xF41FF000, .sret), (0xF4281001, .ctlR (.w 1) 1), (0xF4383000, .ctlW (.w 3) 0),
      (0xF4484008, .tlbInv (.w 4) 0 2), (0xF458000A, .faultPopW (.w 0) 2), (0xF4685000, .faultDone (.w 5) false),
      (0xF4785000, .teamPark (.w 5)), (0xF4885000, .teamWake (.w 5)), (0xF4986000, .ctxSave (.w 6) false), (0xF4A86000, .ctxLoad (.w 6) false),
      (0xF4BFF000, .halt)] = true := by decide +kernel

/-! A small device: one core, one team of four lanes, its pages, and an entry that it may enqueue. -/

/-- Page tables: a near page of 64 KiB, where virtual address 0x400000000 reaches physical 0, and a bulk page. -/
def mapped (s : State) : State :=
  [(0x10000, 0x20001), (0x20040, 0x30001), (0x30000, 0xF), (0x10100, 0x40001), (0x40000, 0x1000000000F)].foldl
    (fun s e => s.write e.1 (leBytes 8 e.2)) s

def team : Team :=
  { entry := { v := true, rg := 15, wg := 7, barl := 1, plan := 0x400001000, sv := true, sb := 64, sn := 7 }
    items := [{ width := 1 }]
    splinters := [{ pc := 0x400002000, mask := 0xF }]
    uregs := [(2, { val := 0x400001000 }), (4, { val := 3 }), (6, { val := 0x1000000000000 }), (8, { val := 0x80100000000000 }),
      (10, { val := 64 }), (14, { val := 0x400001040 }), (16, { val := 0x100000000 }), (18, { val := 0x10 })]
    vregs := [(2, { uni := 7 }), (4, { st := .perLane, lanes := [(0, 1), (1, 2), (2, 3)] }), (8, { uni := 0x1000 }), (9, { uni := 4 })]
    preds := [(1, 0x3), (2, 0x5)] }

def core : Core :=
  { handles := [(0, { alloc := true }), (1, { alloc := true, st := .full, base := 0x400004000, len := 64 })]
    bars := [(0, { owned := true, exp := 4 })]
    groups := [(0, { first := 64, count := 8, full := [(65, true)] })] }

def device (x : Team) (k : Core) : State :=
  (mapped { State.reset with
    power := .run
    cores := [(0, { k with teams := [(0, x)] })]
    groups := [(0, { v := true, mlist := 0x50000 })]
    ports := [(0, { up := true })]
    parts := [(0, { en := true, root := 0x10000, cntlen := 64, cpmax := 6, entryt := 0x400003000, peerroot := 0x10000 })]
    cur := { valid := true } }).write 0x3000 (leBytes 64 (2 ^ 223 + 2 ^ 214))

def small : State := (device team core).write 0x1040 (leBytes 64 (2 ^ 43))

/-! Values that the spec's tables give. -/

/-- v2 and v4 uniform, v6 holding a second pair's half. -/
def pair (a b : W32) (m : Option ModHint) (e : List (BitVec 24)) : State :=
  { device { team with vregs := [(2, { uni := b }), (4, { uni := a })] } core with cur := { valid := true, hints := { mods := m, exts := e } } }

/-- What an instruction leaves in lane 0 of v12, and the sticky flags of partition 0. -/
def leaves (s : State) (i : Instr) : Option (W32 × FlagSet) :=
  match exec i s with
  | .next t => (t.team? 0 0).map fun x => ((t.vreg 0 x 12).at 0, t.flags 0 0)
  | _ => none

abbrev D : Operand := .v 12
abbrev A : Operand := .v 4
abbrev B : Operand := .v 2
abbrev W : Operand := .w 12

/-- The table of R204. -/
theorem test_integer_table :
    [(Instr.divI D A B, 7, -2, 0xFFFFFFFD, 0), (.remI D A B, -7, 2, 0xFFFFFFFF, 0), (.divN D A B, 7, 0, 0xFFFFFFFF, 0),
      (.remI D A B, -5, 0, 0xFFFFFFFB, 0), (.divI D A B, 0x80000000, -1, 0x80000000, 0),
      (.addSatI D A B, 0x7FFFFFF0, 0x20, 0x7FFFFFFF, Flag.isat), (.addSatN D A B, 0xFFFFFFF0, 0x20, 0xFFFFFFFF, Flag.isat),
      (.mulhiI D A B, 0x80000000, 2, 0xFFFFFFFF, 0), (.mulhiN D A B, 0x80000000, 2, 1, 0), (.sar D A B, 0x80000000, 36, 0xF8000000, 0),
      (.ffs D A, 0x80, 0, 7, 0), (.clz D A, 0, 0, 32, 0)].all
      (fun e => leaves (pair e.2.1 e.2.2.1 none []) e.1 == some (e.2.2.2.1, e.2.2.2.2)) = true := by decide +kernel

/-- The bit fields of R204: `pos` and `len` stand in S2. -/
theorem test_bit_fields :
    leaves (pair 0xF00 0x408 none []) (.bfxI D A B) = some (0xFFFFFFFF, 0) ∧
    leaves (pair 0xF00 0x81C none []) (.bfxN D A B) = some (0, 0) := by decide +kernel

/-- The conversions of R254 whose values it lists. -/
theorem test_conversions :
    [(Instr.cvtRn D A 0x10, 0x47800000, none, 0x7C00, Flag.ofl ||| Flag.inx), (.cvtRz D A 0x10, 0x47800000, none, 0x7BFF, Flag.ofl ||| Flag.inx),
      (.cvtRn D A 0x30, 0x43FA0000, none, 0x7E, Flag.ofl ||| Flag.inx), (.cvtRn D A 0x30, 0x43FA0000, some { nsat := true }, 0x7F, Flag.ofl),
      (.cvtRn D A 0x40, 0x7F800000, some { nsat := true }, 0x7C, 0), (.cvtRz D A 0xA0, 0xC06CCCCD, none, 0xFFFFFFFD, Flag.inx),
      (.cvtRn D A 0xC0, 0x43960000, none, 0xFF, Flag.inv), (.cvtRn D A 0x80, 0x7FC00000, none, 0, Flag.inv)].all
      (fun e => leaves (pair e.2.1 0 e.2.2.1 []) e.1 == some (e.2.2.2.1, e.2.2.2.2)) = true := by decide +kernel

/-- The float form of R67: X = 1 + 2^-12 with a product and a sum folded in is rounded once. -/
theorem test_float_form :
    (VReg.resolve { st := .symbolic, sym := 3, flt := true, scale := 0x3F800800, lanes := [(0, 0xBF800000)] } 3 1 1
      { lanes := 1, vals := [(0, 0x3F800800)] }).at 0 = 0x3A000400 := by decide +kernel

/-! Traps and groups. -/

/-- The cause of the trap that a group leaves in its team. -/
def trapOf (s : State) (i : Instr) : Option (BitVec 4) :=
  match exec i s with
  | .next t => (t.team? 0 0).bind fun x => x.sys.map fun z => z.estat.extractLsb' 0 4
  | _ => none

/-- The rows of the catalogue that decode, and their causes. -/
theorem test_catalogue_of_traps :
    trapOf small .halt = some (BitVec.ofNat 4 Cause.priv.code) ∧ trapOf small (.add (.w 3) A B) = some (BitVec.ofNat 4 Cause.opclass.code) ∧
    trapOf { small with cur := { small.cur with hints := { exts := [1] } } } (.shli D A 1) = some (BitVec.ofNat 4 Cause.illegal.code) ∧
    trapOf { small with cur := { small.cur with hints := { guard := some (false, 1) } } } (.dictionaryWord 5 1023) =
      some (BitVec.ofNat 4 Cause.illegal.code) := by decide +kernel

/-- `small` with words at the program counter of its team. -/
def holding (ws : List Nat) : State := small.write 0x2000 (ws.flatMap (leBytes 4))

/-- The group of `?p2 ld.w.acq.dev v20, [w4 + v2 + 16]`: four words. -/
theorem test_group :
    (holding [0xF8000010, 0xFAFFB400, 0xF9000002, 0x8052100A]).fetchGroup (team.who 0 false) 0 6 {} 0 0x400002000 =
      .group { exts := [0x10], mods := some { scope := some .dev, acq := true }, guard := some (false, 2) } (.ldW (.v 20) (.w 4) (.v 2)) 4
        0x8052100A := by decide +kernel

/-- What is illegal as a group: three extensions, and hints before a dictionary word. -/
theorem test_illegal_groups :
    (holding [0xF8000000, 0xF8000000, 0xF8000000, 0x44163456]).fetchGroup (team.who 0 false) 0 6 {} 0 0x400002000 = .illegal 4 ∧
    (match (holding [0xF9000002, 0xFC05FFFF]).fetchGroup (team.who 0 false) 0 6 {} 0 0x400002000 with
      | .illegal n => n
      | _ => 0) = 2 := by decide +kernel

/-- What a group's last register holds, and where its splinter stands, after one step. -/
def stepped (s : State) : Option (W32 × W64) :=
  match step { s with cur := {}, agenda := [.issue 0 0] } with
  | .next t => (t.team? 0 0).bind fun x => (x.splinterAt 0).map fun p => ((t.vreg 0 x 6).at 0, p.pc)
  | _ => none

/-- `addi v6, v5, -3` and, with an extension, `addi v6, v5, -600`, as steps, where v5 holds 0; `movi v6, 0x0012_3456`. -/
theorem test_step_addi :
    stepped (holding [0x241817FD]) = some (0xFFFFFFFD, 0x400002004) ∧
    stepped (holding [0xF8FFFFFF, 0x241815A8]) = some (0xFFFFFDA8, 0x400002008) ∧
    stepped (holding [0xF8000004, 0x441A3456]) = some (0x00123456, 0x400002008) := by decide +kernel

/-- `movi v5, 0x23456` without its extension, placed by `withFetchWord` after reset: it runs at the next step, and its immediate is
negative (R170). -/
theorem test_step_placed :
    (match step (State.reset.withFetchWord 32 0x44163456) with
      | .next t => (t.team? 0 0).map fun x => (t.vreg 0 x 5).at 0
      | _ => none) = some 0xFFFE3456 := by decide +kernel

/-- The branch of R184 taken from a dictionary entry: its target is reckoned from the dictionary word, and the other lanes go on behind it. -/
theorem test_dictionary_branch :
    (match exec (.br (.p 1) (-2)) { small with cur := { small.cur with dictLo := some true } } with
      | .next t => (t.team? 0 0).map fun (x : Team) => x.splinters.map fun (p : Splinter) => (p.mask, p.pc)
      | _ => none) = some [(3, 0x400001FF8), (12, 0x400002004)] := by decide +kernel

/-- The home core of label 1 (R31). -/
theorem test_home_core : homeOf 1 = 158 := by decide

/-! Witnesses: for every statement with hypotheses, states and operands that meet them. First those of completion: each instruction of each
table, at issue on a small state, where the table has an entry for it. -/

/-- An instruction is ready, and its result can be written. -/
def clearly (f : Ctx → Instr → Option Result) (s : State) (i : Instr) : Bool :=
  match s.ready? i with
  | some cx => (f cx i).any fun r => r.clear cx
  | none => false

/-- An instruction is ready, and a table has an entry for it. -/
def has {α : Type} (f : Ctx → Instr → Option α) (s : State) (i : Instr) : Bool :=
  match s.ready? i with
  | some cx => (f cx i).isSome
  | none => false

def integers : List Instr :=
  [.add D A B, .sub D A B, .addSatI D A B, .addSatN D A B, .mul D A B, .mulhiI D A B, .mulhiN D A B, .mad D A B, .divI D A B, .divN D A B,
   .remI D A B, .remN D A B, .andOp D A B, .orOp D A B, .xorOp D A B, .andn D A B, .shl D A B, .shr D A B, .sar D A B, .rotl D A B,
   .clz D A, .popc D A, .brev D A, .ffs D A, .minI D A B, .maxI D A B, .minN D A B, .maxN D A B, .bfxI D A B, .bfxN D A B, .bfi D A B,
   .lea (.v 12) (.w 2) A, .addi D A 5, .muli D A 5, .andi D A 5, .ori D A 5, .xori D A 5, .shli D A 5, .shri D A 5, .sari D A 5,
   .movi D 5, .movk D 1 5, .mov D A, .cmov D A B, .p2v D (.p 1), .v2p (.p 3) A, .cmpEq (.p 3) A B, .cmpNe (.p 3) A B, .cmpLtI (.p 3) A B,
   .cmpLeI (.p 3) A B, .cmpLtN (.p 3) A B, .cmpLeN (.p 3) A B, .tst (.p 3) A B, .tstz (.p 3) A B, .pand (.p 3) (.p 1) (.p 2),
   .por (.p 3) (.p 1) (.p 2), .pxor (.p 3) (.p 1) (.p 2), .pandn (.p 3) (.p 1) (.p 2), .pset (.p 3), .pclr (.p 3), .pfirst (.p 3) (.p 1),
   .pcnt D (.p 1), .gaddr D (.v 8), .space D (.v 8)]

theorem witness_IntegerInstructionsComplete : integers.all (clearly integerResult small) = true := by decide +kernel

def floats : List Instr :=
  [.fadd D A B, .fsub D A B, .fmul D A B, .ffma D A B, .fmin D A B, .fmax D A B, .fdiv D A B, .fcpsgn D A B, .frcp D A, .frsq D A,
   .fsqrt D A, .fexp2 D A, .flog2 D A, .fsin D A, .fcos D A, .ftanh D A, .fcmpEq (.p 3) A B, .fcmpLt (.p 3) A B, .fcmpLe (.p 3) A B,
   .fcmpUn (.p 3) A B, .cvtRn D A 0x08, .cvtRz D A 0x08, .cvtRd D A 0x08, .cvtRu D A 0x08, .qblk D A (.w 4), .dqblk D A, .qmx D A 3]

theorem witness_FloatInstructionsComplete : floats.all (clearly floatResult small) = true := by decide +kernel

theorem witness_VotesAndReductionsComplete :
    [Instr.voteAny (.p 3) (.p 1), .voteAll (.p 3) (.p 1), .ballot D (.p 1), .voteEq (.p 3) A, .redwAdd D A, .redwFadd D A, .redwFmax D A,
      .redwFmin D A, .sq (.p 3) (.v 65)].all (clearly laneResult small) = true := by decide +kernel

theorem witness_LaneInstructionsComplete :
    [Instr.shfl D A B, .shflX D A B, .shflUp D A B, .shflDn D A B, .topkClr (.v 16) 2, .symQ W A, .symWait A, .symWall, .refill, .yield,
      .nop].all (has laneEffect small) = true ∧
    has laneEffect { small with cur := { small.cur with hints := { exts := [2] } } } (.topkIns (.v 16) A B) = true := by decide +kernel

def memories : List Instr :=
  [.ldB D (.w 2) A, .ldH D (.w 2) A, .ldW D (.w 2) A, .ldD D (.w 2) A, .stB D (.w 2) A, .stH D (.w 2) A, .stW D (.w 2) A, .stD D (.w 2) A,
   .pref (.w 6) A, .zeroLine (.w 2) .zero, .alloc D (.w 10) (.w 4), .freeMem (.w 2), .allocZ D (.w 10) .zero, .atomAdd D (.w 2) .zero,
   .atomAddSatN D (.w 2) .zero, .atomFadd D (.w 2) .zero, .atomXchg D (.w 2) .zero, .atomMinI D (.w 2) .zero, .atomMaxI D (.w 2) .zero,
   .atomMinN D (.w 2) .zero, .atomMaxN D (.w 2) .zero, .atomAnd D (.w 2) .zero, .atomOr D (.w 2) .zero, .atomXor D (.w 2) .zero,
   .atomCas D (.w 2) .zero, .rld D (.w 8) (.w 10), .rst D (.w 8) (.w 10), .ratom D (.w 8) (.w 10), .mcst D .zero (.w 10)]

theorem witness_MemoryInstructionsComplete : memories.all (has memoryEffect small) = true := by decide +kernel

/-- The splinter is released from a barrier. -/
def released : State := device { team with splinters := [{ pc := 0x400002000, mask := 0xF, st := .waiting (.barDone true) }] } core

theorem witness_OrderAndBarrierInstructionsComplete :
    [Instr.fence 3 3 .dev, .barInit (.w 4) 0, .barInitForce (.w 4) 0, .barArr .zero .zero 0, .barInv 0, .barQ W 0, .sput A (.v 64),
      .sgetC D (.v 65), .sget D (.v 65)].all (has syncEffect small) = true ∧ has syncEffect released (.barWait 0) = true := by decide +kernel

theorem witness_ItemInstructionsComplete :
    [Instr.flowRel, .flowSet (.w 4) .zero, .flowQ W (.w 4), .enq (.w 2) .zero, .enqW (.w 14) .zero, .cntSet (.w 4) (.w 4),
      .cntAdd (.w 4) (.w 4), .cntDec (.w 4) (.w 4), .cntQ (.w 4) W, .heapIns (.w 4) (.w 4), .heapRm (.w 4), .admitHeap (.w 2) (.w 4)].all
      (has itemEffect small) = true := by decide +kernel

theorem witness_EngineInstructionsComplete :
    [Instr.cp (.w 2) 0, .cpSg (.w 2) 0, .cpStep W, .hWait 1, .hSet (.w 2) (.w 4) 0, .hSetFree 1, .hQ W 0, .pullReq (.w 4) 1,
      .grantCfg (.w 2) (.w 16) 0, .xferQ W 0, .smp W (.w 18) 0, .smpQ W 0].all (has engineEffect small) = true := by decide +kernel

/-- A team with two tile registers and an accumulator. -/
def tiles : State :=
  device { team with
      tiles := [(0, { record := 0x1000000000000000, first := 0, pair := true }), (1, { record := 0x1200000000000000, first := 2, pair := true })]
      uregs := team.uregs ++ [(20, { val := 0x1000000000000000 })]
      accs := [(0, 0)] }
    { core with accs := [(0, {})], quota := [(0, 0xFFFFFFFFFFFFF800)] }

theorem witness_TensorInstructionsComplete :
    [Instr.tclaim (.t 2) (.w 20), .trel (.t 0), .trel (.a 0), .tload (.t 0) 1, .mma (.t 0) (.t 1) true false false 0, .mfence W,
      .mwait .zero, .accZero (.a 1), .accLd (.a 0) (.w 2), .accSt (.a 0) (.w 2), .accMv (.a 0) D 2, .accMv D (.a 0) 2, .tinfo W (.t 0)].all
      (has tensorEffect tiles) = true := by decide +kernel

/-- The handler at issue in slot 0, a team of partition 0 in slot 1, and partition 1 pre-empted. -/
def handlerTeam : Team :=
  { team with sys := some { pc := 0xF0000000000000, regs := [(2, { val := 0x21 }), (4, { val := 0x400200001 }), (6, { val := 0x400200001 })] } }

def handler : State :=
  let s := device handlerTeam { core with bars := [], quota := [(0, 0xFFFFFFFFFFFFF800)] }
  { s with
    cores := [(0, { s.core 0 with teams := [(0, handlerTeam), (1, { team with entry := { team.entry with rg := 1, wg := 1 } })] })]
    parts := (s.parts.put 1 { en := true, root := 0x10000, saver := some 0, callerSaved := true }).put 0
      { s.part 0 with fqbase := 0x400006000, fqtail := 1 } }

theorem witness_HandlerInstructionsComplete :
    [Instr.ctlR (.w 3) 1, .ctlW (.w 2) 0x202, .devid (.w 3), .fqhead (.w 3) 0, .fqbase (.w 2) 0, .tlbInv (.w 2) 0 0, .faultPop (.w 0) 0,
      .faultPopW (.w 0) 0, .faultDone (.w 3) false, .teamPark (.w 2), .teamWake (.w 2), .halt].all (has systemEffect handler) = true := by
  decide +kernel

/-- What an instruction leaves. -/
def after (s : State) (i : Instr) : State :=
  match exec i s with
  | .next t => t
  | _ => s

/-- The handler with another team's slot empty, at issue. -/
def alone (s : State) : State := { s with cores := [(0, { s.core 0 with teams := [(0, handlerTeam)] })], cur := { valid := true } }

theorem witness_SaveAndLoadComplete :
    has systemEffect handler (.ctxSave (.w 6) true) = true ∧
    has systemEffect (alone (after handler (.ctxSave (.w 6) true))) (.ctxLoad (.w 6) true) = true := by decide +kernel

set_option maxRecDepth 1000000 in
theorem witness_TeamSaveCompletes : has systemEffect handler (.ctxSave (.w 4) false) = true := by decide +kernel

/-- A team that asks for the token of a flow, and whose dictionary holds an `add`. -/
def toks : State :=
  { (device { team with entry := { team.entry with dict := 0x400001000 }, uregs := team.uregs ++ [(22, { val := 2 })] } core).write 0x1000
      (leBytes 4 0x04141814) with
    flows := [{ part := 0, label := 3, tok := true, nexta := 1, nextr := 0, positions := [{ seq := 0, core := some 0, slot := 3, lanes := 1 }] }] }

theorem witness_PlacingInstructionsComplete :
    [Instr.br (.p 1) 5, .call (.p 1) 5, .brx (.w 2), .ret (.w 2), .callx (.v 12) (.w 2), .joinArr (.j 0) 5, .joinSet (.j 0) (.p 1),
      .joinAdd (.j 0) (.p 1), .joinClr (.j 0), .joinRem (.j 0) (.p 1), .exitLanes].all (has movedBy small) = true ∧
    has movedBy toks (.flowSet (.w 4) (.w 22)) = true ∧ has movedBy toks (.dictionaryWord 0 1023) = true ∧
    has movedBy handler .sret = true := by decide +kernel

/-! Events. -/

theorem witness_PowerEvents :
    (eventOf { State.reset with power := .off } .powerOn).isSome = true ∧ (eventOf State.reset .romVerify).isSome = true ∧
    (eventOf { State.reset with power := .stage1, retryAt := some 0 } .downloadRetry).isSome = true ∧
    (eventOf small .resetPin).isSome = true ∧ (eventOf small .powerRemoved).isSome = true ∧
    (eventOf small (.thermalWarning 15)).isSome = true ∧ (eventOf small (.thermalTrip 15)).isSome = true ∧
    (eventOf small (.attestationQuote (List.replicate 64 0))).isSome = true ∧
    (eventOf small (.managementRead .sensors)).isSome = true ∧ (eventOf small (.managementRead .reports)).isSome = true := by decide +kernel

/-- A download happens wherever the image is one that stage one trusts; which images it trusts is not known here (log entry 8). -/
theorem witness_DownloadEvents (s : State) (image : List Byte) (hp : s.power = .stage1) (hr : s.retryAt = none)
    (ht : (s.ports.atD 0 {}).up = true) (h : s.firmwareOk image = true) : (eventOf s (.firmwareDownload image)).isSome = true := by
  simp [eventOf, bootEvent, need, hp, hr, ht, h]

/-- A busy device: items queued on core 0, an ordered position released, a Cut-in under way on core 1, lanes held and lanes waiting at a
join, a symbol that has arrived, a tensor operation. -/
def busy : State :=
  { small with
    cores := [(0, { (small.core 0) with
        teams := [(0, team), (1, { team with splinters := [{ pc := 0x400002000, mask := 0xF, st := .held false }] }),
          (2, { team with splinters := [{ pc := 0x400002000, mask := 0xF, st := .joinWait 0 0x400002000 }] }),
          (3, { team with pend := [{ cause := .item, lanes := 1 }] })]
        syms := [(0, { lanes := 1, arrived := 1 })]
        tq := [{ slot := 0, kind := .zero 0 }]
        accs := [(0, {})]
        heldRecs := [{}] }),
      (1, { cutIn := some { victim := 0, items := [] } })]
    flows := [{ part := 0, label := 3, nexta := 1, positions := [{ seq := 0, core := some 0, slot := 0, lanes := 1, recorded := true }] }] }

theorem witness_CoreEvents :
    (eventOf small (.energyWindow (List.replicate 8 0))).isSome = true ∧ (eventOf small (.teamFormation 255)).isSome = true ∧
    (eventOf busy (.orderedRelease 0 3)).isSome = true ∧ (eventOf small (.cutIn 255)).isSome = true ∧
    (eventOf busy (.cutInAnswer 1)).isSome = true ∧ (eventOf busy (.teamStarvation 0 3)).isSome = true ∧
    (eventOf busy (.splinterStarvation 0 0)).isSome = true ∧ (eventOf busy (.heldLanesRetry 0 1)).isSome = true ∧
    (eventOf busy (.joinFallback 0 2)).isSome = true ∧ (eventOf busy (.symbolResolution 0 0)).isSome = true ∧
    (eventOf busy (.faultRecordRetry 0)).isSome = true ∧ (eventOf busy (.trapEntry 0 3)).isSome = true ∧
    (eventOf busy (.uncorrectableError (.line 0x27FFFFFFFFF))).isSome = true ∧ (eventOf busy (.uncorrectableError (.team 0 0))).isSome = true ∧
    (eventOf busy (.softError 0 0)).isSome = true ∧ (eventOf busy (.tensorOperationCompletion 0 0)).isSome = true := by decide +kernel

/-- A device whose engines are at work: a copy, a sampler job, a handle that is sent and one that is filled, a request, and the Caller of
partition 1 pre-empted. -/
def working : State :=
  { small with
    clock := 10000000
    cores := [(0, { (small.core 0) with
        handles := [(0, { alloc := true, st := .draining, sst := 1, len := 64 }), (1, { alloc := true, st := .filling, posted := true, len := 64 })] })]
    sectors := [(0, { copies := [{ len := 64, src := 0x400001000, dst := 0x400004000 }], jobs := [{}] }), (1, { jobs := [{ running := true }] })]
    parts := [(0, { small.part 0 with requests := [{ id := 5, len := 64, slots := [.out 0 [] 0, .free, .free, .free] }] }),
      (1, { en := true, preempted := true })] }

def announced : Announcement :=
  { part := 0, ue := none, sdev := 0, score := 0, sh := 0, dcore := 0, dh := 1, pri := 0, off := 0, len := 64, pieces := [] }

theorem witness_EngineEvents :
    (eventOf working (.copyCompletion 0 0)).isSome = true ∧ (eventOf working (.callerGrant 0)).isSome = true ∧
    (eventOf working (.pullAnnouncement announced)).isSome = true ∧
    (eventOf working (.pullToken { core := 0, handle := 0, off := 0, len := 0, ue := none })).isSome = true ∧
    (eventOf working (.pullBeat { part := 0, req := 5, off := 0, data := [], status := .ok, ue := none })).isSome = true ∧
    (eventOf working (.pullNotice 0 0 { delivered := true, ue := none })).isSome = true ∧ (eventOf working (.tokenExpiry 0 5 0)).isSome = true ∧
    (eventOf working (.orphan 0 5)).isSome = true ∧ (eventOf working (.abandon 0 0)).isSome = true ∧
    (eventOf working (.callerSave 1)).isSome = true ∧ (eventOf working (.samplerJobStart 0)).isSome = true ∧
    (eventOf working (.samplerJobCompletion 1)).isSome = true := by decide +kernel

/-- A device with transactions in flight, a link that is up and one that fails. -/
def linked : State :=
  { small with
    clock := 10000000
    devid := 3
    txs := [{ tag := 1, acc := { op := .rload false }, lanes := [0] }, { tag := 2, acc := { op := .rstore }, lanes := [0] },
      { tag := 3, acc := { op := .mcst }, columns := [4] }]
    links := [(0, { up := true }), (1, { up := true, fails := 16 })] }

theorem witness_FabricEvents :
    (eventOf linked (.peerRequest { src := 1, tag := 0, part := 0, kind := .read, size := 4, lanes := [] })).isSome = true ∧
    (eventOf linked (.readResponse 1 [7])).isSome = true ∧ (eventOf linked (.ack 2 [])).isSome = true ∧
    (eventOf linked (.nack { tag := 2, lanes := [] })).isSome = true ∧ (eventOf linked (.peerTimeout 1)).isSome = true ∧
    (eventOf linked (.multicastWrite { src := 1, tag := 0, group := 0, addr := 0, words := [], index := 0, count := 1 })).isSome = true ∧
    (eventOf linked (.multicastAck 3 4 0)).isSome = true ∧ (eventOf linked (.multicastTimeout 3)).isSome = true ∧
    (eventOf linked (.linkControl 0 { counter := 0, replay := true })).isSome = true ∧ (eventOf linked (.linkDown 1)).isSome = true ∧
    (eventOf linked (.linkTraining
      { link := 47, replaces := some 5, cols := 32, rows := 16, peer := 9, encKey := [], signature := [], cipher := [] })).isSome = true ∧
    (eventOf linked
      (.linkTraining { link := 31, replaces := none, cols := 4, rows := 2, peer := 35, encKey := [], signature := [], cipher := [] })).isSome = true := by decide +kernel

/-- A flit opens wherever the cipher says so; what the cipher says is not known here (log entry 8). -/
theorem witness_FlitEvents (f : Flit) (plain : List Byte) (hc : f.counter = 0) (hr : flitBad f = false)
    (h : Config.gcmOpen (linked.link 0).rxKey (nonceOf (linked.link 0).rxLid f.counter) f.header f.payload f.gcm = some plain) :
    (eventOf linked (.transitFlit 0 f)).isSome = true := by
  have o : linked.opened 0 f = some plain := by
    unfold State.opened need
    rw [if_pos (by rw [hc]; decide +kernel)]
    exact h
  simp [eventOf, bootEvent, coreEvent, engineEvent, fabricEvent, o, need, hr]

/-! Encoding, steps and checks. -/

theorem witness_EncodedInstructionsDecode :
    (words1 ++ words2 ++ words3 ++ words4 ++ words5 ++ words6 ++ words7 ++ words8 ++ words9).all (fun e => e.2.wf && encode e.2 == some e.1) =
      true := by decide +kernel

/-- Operands and immediates at the ends of their ranges. -/
theorem witness_encodings_at_the_ends :
    [Instr.addi (.v 127) (.w 63) (-512), .addi (.v 0) (.w 0) 511, .movi .zero (-131072), .br (.p 15) 131071, .trapInstr 4095,
      .joinArr (.j 7) (-131072), .mma (.t 15) (.t 0) true true true 7, .dictionaryWord 1022 1023].all
      (fun i => i.wf && (encode i).any fun w => decodeWord w == some i) = true := by decide +kernel

/-- What `StepRunsTheDecodedInstruction` asks of a state with the turn of quarter 0 of core 0, for a team in slot 0. -/
def fetches (s : State) (h : Hints) (i : Instr) (k : Nat) (w : BitVec 32) : Bool :=
  s.power == .run && s.agenda == [.issue 0 0] &&
  (let z : State := ({ s with agenda := [] } : State).inCycle 0 0
   (z.candidates 0 0).head? == some (.splinter 0 0) &&
   match z.team? 0 0 with
   | none => false
   | some x => match x.splinterAt 0 with
     | none => false
     | some p => p.armed.isNone &&
       ((z.fetchWord (x.who 0 x.inSys) (lowLane p.mask) p.pc.toNat == .word w && !isHint w && decodeWord w == some i && h == {} && k == 1) ||
         z.fetchGroup (x.who 0 x.inSys) (lowLane p.mask) 6 {} 0 p.pc.toNat == .group h i k w) &&
       (let u : State := { (z.fillFetch (x.who 0 x.inSys) (lowLane p.mask) p.pc.toNat k).issued 0 0 0 with
          cur := { valid := true, core := 0, slot := 0, spl := 0, hints := h, len := k, word := w } }
        match exec i u with
        | .next v => !u.onlyWaited v 0 0 0
        | _ => false))

theorem witness_StepRunsTheDecodedInstruction :
    fetches { holding [0x241817FD] with cur := {}, agenda := [.issue 0 0] } {} (.addi (.v 6) (.v 5) (-3)) 1 0x241817FD = true ∧
    fetches { holding [0xF8FFFFFF, 0x241815A8] with cur := {}, agenda := [.issue 0 0] } { exts := [0xFFFFFF] }
      (.addi (.v 6) (.v 5) 0x1A8) 2 0x241815A8 = true := by decide +kernel

theorem witness_StepsKeepMemoryCanonical :
    Memory.wf small.mem = true ∧ (match step { small with agenda := [.tick 1] } with
      | .next t => Memory.wf t.mem
      | _ => false) = true := by decide +kernel

theorem witness_DeviceThatIsNotRunningIssuesNothing :
    (∀ p ∈ [({ State.reset with agenda := [.issue 0 0] }, 0), ({ State.reset with agenda := [.issue 1 0], power := .stage1 }, 1)],
      p.1.power ≠ .run ∧ (p.1.power = .stage1 → p.2 ≠ 0) ∧ p.1.agenda = [.issue p.2 0]) := by
  decide +kernel

/-- Stage one at physical address 0x20000, with a word there, at its turn. -/
def stageOneRuns (w : Nat) : State :=
  { (State.reset.write 0x20000 (leBytes 4 w)).setTeam 0 0
      (stageOneTeam { load := 0x20000, ent := 0, len := 4, svn := 0, rsvZero := true, kind := 1, magic := 0 }) with
    power := .stage1, agenda := [.issue 0 0] }

/-- Stage one issues on core 0 (R400), at physical addresses (log entry 10). -/
theorem test_stage_one_issues :
    (match step (stageOneRuns 0x77FFFFFF) with
      | .next t => (t.team? 0 0).bind fun x => x.sys.map fun y => y.pc
      | _ => none) = some 0x20004 := by decide +kernel

/-- What holds of the group at issue and of the rules of its instruction. -/
def checked (s : State) (i : Instr) (f : Ctx → Rules → Bool) : Bool :=
  match s.ctx?, rulesOf i with
  | some cx, some r => f cx r
  | _, _ => false

def hinted (h : Hints) : State := { small with cur := { small.cur with hints := h } }

theorem witness_ChecksTrapInOrder :
    checked (hinted { exts := [1] }) (.shli D A 1) (fun cx r => cx.illegal r) = true ∧
    checked small .halt (fun cx r => !cx.illegal r && r.priv && !cx.sys) = true ∧
    checked small (.add (.w 3) A B) (fun cx r => !cx.illegal r && !r.priv && !r.ok cx) = true ∧
    checked handler (.ctlR (.w 16) 1) (fun cx r => !cx.illegal r && r.priv && cx.sys && !r.ok cx) = true := by decide +kernel

theorem witness_PrivilegedInstructions :
    [Instr.halt, .trapInstr 0, .add D A B].all (fun i => (encode i).isSome && (rulesOf i).isSome) = true := by decide +kernel

theorem witness_SystemModeRefusesTheseInstructions :
    [Instr.refill, .joinSet (.j 0) (.p 1), .sput A (.v 64), .flowRel, .tclaim (.t 2) (.w 4), .topkClr (.v 16) 2, .symWall].all
      (fun i => (encode i).isSome && checked handler i fun cx _ => cx.sys) = true ∧
    checked handler .exitLanes (fun cx _ => cx.sys && !cx.x.formed) = true := by decide +kernel

theorem witness_GuardedOffInstructionsDoNothing :
    checked (hinted { guard := some (false, 5) }) (.add D A B)
      (fun cx r => !cx.illegal r && !r.priv && r.ok cx && !cx.p15Pending && cx.guarded == 0) = true := by decide +kernel

/-- A write of p15 is pending. -/
def pending : State := device { team with p15pend := 1 } core

theorem witness_PendingP15IsAwaited :
    [Instr.pand (.p 3) (.p 15) (.p 1), .barQ W 0].all (fun i => checked pending i fun cx r =>
      !cx.illegal r && !r.priv && r.ok cx && cx.awaitsP15 r && cx.guarded != 0) = true ∧
    checked { pending with cur := { pending.cur with hints := { guard := some (true, 15) } } } (.add D A B) (fun cx r =>
      !cx.illegal r && !r.priv && r.ok cx && cx.awaitsP15 r && cx.guarded != 0) = true ∧
    checked { pending with cur := { pending.cur with hints := { guard := some (false, 15) } } } (.add D A B) (fun cx r =>
      !cx.illegal r && !r.priv && r.ok cx && cx.p15Pending && cx.guarded == 0 && cx.h.guard == some (false, 15)) = true := by
  decide +kernel

/-- v4 is symbolic; v9 holds address poison in lane 2; v10 is symbolic under the same symbol. -/
def unknown : State :=
  device { team with
      vregs := [(2, { uni := 7 }), (4, { st := .symbolic, sym := 0, scale := 3, lanes := [(0, 1)] }),
        (9, { st := .perLane, pois := [(2, .addr)] }), (10, { st := .symbolic, sym := 0, scale := 1 }),
        (11, { st := .symbolic, sym := 0, scale := 0x3F800000, flt := true })]
      uregs := team.uregs ++ [(20, { sym := some 1, scale := 5, val := 9 })] }
    { core with syms := [(0, { lanes := 15 }), (1, { lanes := 1, w64 := true, uni := true })] }

/-- The same under a hint with SYM. -/
def folding : State := { unknown with cur := { unknown.cur with hints := { mods := some { sym := true } } } }

theorem witness_BlockingUsesWaitOrTrap :
    (unknown.ready? (.divI D A B)).any (fun cx => (resultOf cx (.divI D A B)).any fun r => r.srcs.any cx.symbolic && !r.wideSrc) = true ∧
    (folding.ready? (.fmul D (.v 11) (.v 2))).any (fun cx => (resultOf cx (.fmul D (.v 11) (.v 2))).any fun r =>
      r.srcs.any cx.symbolic && !r.wideSrc && !cx.foldsAt (.fmul D (.v 11) (.v 2))) = true ∧
    (unknown.ready? (.divI D (.v 9) B)).any (fun cx => (resultOf cx (.divI D (.v 9) B)).any fun r =>
      let os := cx.origins (r.srcs.map cx.read)
      !r.srcs.any cx.symbolic && !r.wideSrc && !r.wide && !cx.destWaits r.d && (tagsOf os).isEmpty && addrLanes os != 0) = true := by
  decide +kernel

/-! Registers. -/

theorem witness_WritesAreReadBack :
    [D, A, .w 12, .p 3, .zero].all (fun d => checked small .nop fun cx _ =>
      cx.s.team? cx.c cx.t == some cx.x && cx.sys == cx.x.inSys && cx.act &&& ~~~cx.x.live == 0 && !cx.destWaits d && !cx.destWaits64 d) =
      true := by decide +kernel

/-- What `WritesSetTheTag` asks: a full write of one value and of two, and a partial one, of a register of the team's and of a shared one. -/
theorem witness_WritesSetTheTag :
    (small.team? 0 0).any (fun x => x.live == 0xF && !x.entry.shared 12 && x.entry.shared 64 && (laneRange 0 x.width).getLsbD 31) = true := by
  decide +kernel

/-- What `LinearFormsStaySymbolic` asks of an instruction with an integer form in `a` and destination `d`. -/
def linear (d a : Operand) (i : Instr) (f : Ctx → Linear → Bool) : Bool :=
  (unknown.ready? i).any fun cx => cx.takesForm d && (cx.integerForm a).any (f cx)

theorem witness_LinearFormsStaySymbolic :
    [Instr.add D A B, .add D B A, .sub D A B, .sub D B A].all (fun i => linear D A i fun cx _ => !cx.symbolic B) = true ∧
    [Instr.add D A (.v 10), .sub D A (.v 10)].all (fun i => linear D A i fun cx g =>
      (cx.integerForm (.v 10)).any fun h => h.sym == g.sym && h.alone == g.alone) = true ∧
    [Instr.mul D A (.w 4), .mul D (.w 4) A, .shl D A (.w 4)].all (fun i => linear D A i fun cx _ => !cx.symbolic (.w 4)) = true ∧
    [Instr.addi D A 5, .muli D A 5, .shli D A 5].all (fun i => linear D A i fun _ _ => true) = true ∧
    [Instr.addi W (.w 20) 5, .mov D (.w 20), .mov W (.w 20)].all (fun i =>
      linear W (.w 20) i (fun _ g => g.scale != 0) && linear D (.w 20) i fun _ _ => true) = true ∧
    (unknown.ready? (.mov D A)).any (fun cx => (cx.vreg 4).st == .symbolic && cx.takesForm D) = true ∧
    [Operand.v 10, .v 11].all (fun a => [Instr.fadd D a B, .fadd D B a, .fsub D a B, .fsub D B a].all fun i => (folding.ready? i).any fun cx =>
      cx.takesForm D && (cx.floatingForm a).isSome && cx.allLanes && cx.mods.sym && cx.mods.rm == .rn && !cx.symbolic B) = true ∧
    [Instr.fmul D (.v 11) (.w 4), .fmul D (.w 4) (.v 11)].all (fun i => (folding.ready? i).any fun cx =>
      cx.takesForm D && (cx.floatingForm (.v 11)).isSome && cx.allLanes && cx.mods.sym && cx.mods.rm == .rn && !cx.symbolic (.w 4)) = true := by
  decide +kernel

/-- Every flag's trap is enabled, and a saturating sum clamps. -/
def trapping : State := device { team with vregs := [(2, { uni := 0x7FFFFFFF }), (4, { uni := 1 })] } { core with arithen := [(0, 0xFF)] }

theorem witness_EnabledFlagsTrap :
    (trapping.ready? (.addSatI D A B)).any (fun cx => (resultOf cx (.addSatI D A B)).any fun r =>
      r.clear cx && !cx.sys && flagsOf cx.act r.flags &&& cx.s.enabled cx.c cx.part != 0 && cx.s.settled cx.c cx.t) = true := by decide +kernel

/-- An instruction is ready, its operands are known and free of poison, and its destination can be written. -/
def isClear (d : Operand) (srcs : List Operand) (i : Instr) : Bool := (small.ready? i).any fun cx => cx.plain srcs && !cx.destWaits d

theorem witness_SumsWrapOrClamp :
    [Instr.add D A B, .sub D A B, .addSatI D A B, .addSatN D A B].all (isClear D [A, B]) = true ∧
    [Instr.add W (.w 2) (.w 4), .sub W (.w 2) (.w 4), .addSatI W (.w 2) (.w 4), .addSatN W (.w 2) (.w 4)].all (isClear W [.w 2, .w 4]) = true ∧
    [Instr.add .zero A B, .addSatN .zero A B].all (isClear .zero [A, B]) = true := by decide +kernel

theorem witness_Products :
    [Instr.mul D A B, .mulhiI D A B, .mulhiN D A B].all (isClear D [A, B]) = true ∧ isClear D [A, B, .zero] (.mad D A B) = true := by
  decide +kernel

theorem witness_DivisionsAndRemainders :
    [Instr.divI D A B, .divN D A B, .remI D A B, .remN D A B].all (isClear D [A, B]) = true ∧
    [Instr.divI W (.w 2) (.w 4), .remN W (.w 2) (.w 4)].all (isClear W [.w 2, .w 4]) = true := by decide +kernel

theorem witness_BitwiseAndExtremes :
    [Instr.andOp D A B, .orOp D A B, .xorOp D A B, .andn D A B, .minI D A B, .maxI D A B, .minN D A B, .maxN D A B].all
      (isClear D [A, B]) = true := by decide +kernel

theorem witness_ShiftsAndRotations :
    [Instr.shl D A B, .shr D A B, .sar D A B, .rotl D A B].all (isClear D [A, B]) = true ∧
    [Instr.shl W (.w 2) (.w 4), .sar W (.w 2) (.w 4)].all (isClear W [.w 2, .w 4]) = true := by decide +kernel

theorem witness_BitCounts :
    [Instr.clz D A, .popc D A, .brev D A, .ffs D A].all (isClear D [A]) = true ∧
    [Instr.clz W (.w 2), .ffs W .zero].all (isClear W [.w 2]) = true := by decide +kernel

theorem witness_ComparesWritePredicates :
    [Instr.cmpEq (.p 3) A B, .cmpNe (.p 3) A B, .cmpLtI (.p 3) A B, .cmpLeI (.p 3) A B, .cmpLtN (.p 3) A B, .cmpLeN (.p 3) A B,
      .tst (.p 3) A B, .tstz (.p 3) A B].all (isClear (.p 3) [A, B]) = true := by decide +kernel

theorem witness_PredicatesCombine :
    [Instr.pand (.p 3) (.p 1) (.p 2), .por (.p 3) (.p 1) .zero, .pxor (.p 3) .zero .zero, .pandn (.p 3) (.p 1) (.p 2)].all
      (isClear (.p 3) []) = true := by decide +kernel

theorem witness_ComputingInstructionsKeepTheRest : (integers ++ floats).all (clearly resultOf small) = true := by decide +kernel

theorem witness_InstructionsThatStoreNothingKeepMemory :
    has laneEffect small (.shfl D A B) = true ∧ has syncEffect small (.fence 3 3 .dev) = true ∧ has tensorEffect tiles (.trel (.t 0)) = true := by
  decide +kernel

/-- Offsets 1 under a scale of 3: lane 0 has its value, lane 2 is no lane of the symbol, and a register of another symbol stays; the upper half
of an element; a float form's NaN offset alone; a uniform register. -/
theorem witness_ResolutionGivesTheFormsValue :
    let r : VReg := { st := .symbolic, sym := 4, scale := 3, lanes := [(0, 1), (2, 1)] }
    (r.resolve 4 32 7 { lanes := 1, vals := [(0, 5)] }).at 0 = 16 ∧ (r.resolve 4 32 7 { lanes := 1, vals := [(0, 5)] }).at 2 = 1 ∧
    (r.resolve 4 32 7 { lanes := 1, vals := [(0, 5)], uni := true }).at 2 = 16 ∧
    (({ r with alone := 4 } : VReg).resolve 4 32 7 { lanes := 1, vals := [(0, 5)], uni := true }).at 2 = 1 ∧ r.sym ≠ 5 ∧
    (({ r with half := true, scale := 1 } : VReg).resolve 4 32 7 { lanes := 1, vals := [(0, 0x700000005)], w64 := true }).at 0 = 8 ∧
    (({ r with flt := true, lanes := [(2, 0x7F812345)] } : VReg).resolve 4 32 7 { lanes := 1, vals := [(0, 5)] }).at 2 = CNAN ∧
    (({ val := 1, sym := some 4, scale := 3 } : UReg).resolve 4 { lanes := 2, vals := [(1, 5)], uni := true }).val = 16 ∧
    ({ sym := some 4 } : UReg).sym ≠ some 5 := by decide +kernel

/-- What `space` writes for the address in the pair v8 and v9. -/
def spaceOf (x : Team) (a : Nat) : Option W32 :=
  match exec (.space D (.v 8)) (device { x with vregs := [(8, { uni := BitVec.ofNat 32 a }), (9, { uni := BitVec.ofNat 32 (a / 2 ^ 32) })] } core) with
  | .next t => (t.team? 0 0).map fun x => (t.vreg 0 x 12).at 0
  | _ => none

/-- The ends of the regions of R77 and R5. -/
theorem test_space :
    [(0, 0), (0x3FFFFFFFF, 0), (0x400000000, 1), (0x7FFFFFFFF, 1), (0x800000000, 0), (0x1000000000000, 3), (0x1FFFFFFFFFFFF, 3),
      (0x2000000000000, 0), (0x80000000000000, 0), (0x80100000000000, 4), (0x9FFFFFFFFFFFFF, 4), (0xA0000000000000, 0),
      (0xF0000000000000, 0)].all (fun e => spaceOf team e.1 == some (BitVec.ofNat 32 e.2)) = true ∧
    [(0x800000000, 2), (0x8000000FF, 2), (0x800000100, 0)].all
      (fun e => spaceOf { team with entry := { team.entry with privUnits := 1 } } e.1 == some (BitVec.ofNat 32 e.2)) = true := by decide +kernel

theorem witness_SpaceClassifiesAddresses :
    (small.ready? (.space D (.v 8))).any (fun cx => cx.plain64 [.v 8] && !cx.destWaits D) = true ∧
    (handler.ready? (.space (.w 3) (.w 6))).any (fun cx => cx.plain64 [.w 6] && !cx.destWaits (.w 3)) = true := by decide +kernel

/-! Control flow. -/

theorem witness_BranchesDivideSplinters :
    (small.ready? (.br .zero 5)).any (fun cx => !cx.sys && decide (1 ≤ cx.x.roomFor cx.n) && cx.holds .zero == cx.p.mask) = true ∧
    (small.ready? (.br (.p 7) 5)).any (fun cx => !cx.sys && decide (1 ≤ cx.x.roomFor cx.n) && cx.holds (.p 7) == 0) = true ∧
    (small.ready? (.br (.p 1) 5)).any (fun cx => !cx.sys && decide (2 ≤ cx.x.roomFor cx.n) && cx.holds (.p 1) != 0 &&
      cx.p.mask &&& ~~~cx.holds (.p 1) != 0) = true := by decide +kernel

theorem witness_ControlInstructionsKeepTheRest :
    [Instr.br (.p 1) 5, .call (.p 1) 5, .brx (.w 2), .ret (.w 2), .callx (.v 12) (.w 2), .joinArr (.j 0) 5, .joinSet (.j 0) (.p 1),
      .joinAdd (.j 0) (.p 1), .joinClr (.j 0), .joinRem (.j 0) (.p 1)].all (fun i => has movedBy small i && (controlDest i).isSome) = true := by
  decide +kernel

/-! Memory. -/

/-- What `StoresKeepOtherBytes` asks. -/
def stores (i : Instr) : Bool := (small.ready? i).any fun cx => (memReq cx i).any fun r => [cx.accessOf r].any fun a => (cx.bound r a).any fun e =>
  a.op.changes && a.origins.isEmpty && cx.atIssue a && e.1.reaches cx.who a && (memoryEffect cx i).isSome

theorem witness_StoresKeepOtherBytes :
    [Instr.stB D (.w 2) A, .stH D (.w 2) A, .stW D (.w 2) A, .stD D (.w 2) A, .zeroLine (.w 2) .zero, .atomAdd D (.w 2) .zero,
      .atomCas D (.w 2) .zero].all stores = true := by decide +kernel

/-- Lanes 0 to 3 store bytes at one address: lane 3 stores last. -/
theorem witness_LastLanesStoreRemains :
    (small.ready? (.stW B (.w 2) .zero)).any (fun cx => (memReq cx (.stW B (.w 2) .zero)).any fun r => [cx.accessOf r].any fun a =>
      a.op == .store 4 && a.origins.isEmpty && cx.atIssue a && small.reaches cx.who a && (memoryEffect cx (.stW B (.w 2) .zero)).isSome &&
      a.lanes.getLsbD (lowLane a.lanes) && (a.hold.at? (lowLane a.lanes)).isNone) = true := by decide +kernel

theorem witness_LoadsDeliverMemory :
    [Instr.ldB D (.w 2) A, .ldH D (.w 2) A, .ldW D (.w 2) A].all (fun i => (small.ready? i).any fun cx => (memReq cx i).any fun r =>
      [cx.accessOf r].any fun a => (cx.bound r a).any fun e => cx.atIssue a && (memoryEffect cx i).isSome && r.dest == some D &&
        (small.core cx.c).osb.isEmpty && (lanesOf a.lanes).all fun l => match e.1.fate cx.who a l with
          | (.memory [(pa, n)], []) => (match r.op with
              | .load m _ => n == m
              | _ => false) && decide (pa + n ≤ 0x400000000) && !small.lineBad pa n
          | _ => false) = true := by decide +kernel

/-- Partition 0 holds an allocation at 0x400001000, where w2 points. -/
def allocating : State := { small with parts := small.parts.put 0 { small.part 0 with live := [{ base := 0x400001000, len := 64, pool := 0, core := 0 }] } }

theorem witness_FreeReturnsAllocations :
    (small.ready? (.freeMem .zero)).any (fun cx => cx.plain64 [.zero] && uniformOp .zero && cx.val .zero (lowLane cx.act) == 0) = true ∧
    (small.ready? (.freeMem (.w 2))).any (fun cx => cx.plain64 [.w 2] && cx.val (.w 2) (lowLane cx.act) != 0 && (small.part cx.part).live.isEmpty) =
      true ∧
    (allocating.ready? (.freeMem (.w 2))).any (fun cx => cx.plain64 [.w 2] &&
      ((allocating.part cx.part).live.find? fun e => e.base == (cx.val (.w 2) (lowLane cx.act)).toNat).isSome) = true := by decide +kernel

/-! Items and engines. -/

theorem witness_FlowQueryReadsTheFlow :
    (toks.ready? (.flowQ W (.w 4))).any (fun cx => cx.plain [.w 4] && !cx.destWaits W && (toks.flow cx.part (cx.val (.w 4) 0).toNat).tok) = true ∧
    (small.ready? (.flowQ W (.w 4))).any (fun cx => cx.plain [.w 4] && !cx.destWaits W && small.flows.isEmpty) = true := by decide +kernel

/-- The tensor team with a load and a product waiting. -/
def loaded : State :=
  { tiles with cores := [(0, { (tiles.core 0) with tq := [{ kind := .tload 0 1 }, { kind := .zero 0 }] })] }

theorem witness_ReleaseWaitsThenEmpties :
    (loaded.ready? (.trel (.t 0))).any (fun cx => cx.pendingOp fun k => k.namesTile 0) = true ∧
    (loaded.ready? (.trel (.a 0))).any (fun cx => cx.pendingOp fun k => k.namesAcc 0) = true ∧
    (tiles.ready? (.trel (.t 0))).any (fun cx => !cx.pendingOp fun k => k.namesTile 0) = true ∧
    (tiles.ready? (.trel (.t 9))).any (fun cx => !cx.pendingOp fun k => k.namesTile 9) = true ∧
    (tiles.ready? (.trel (.a 0))).any (fun cx => !(cx.pendingOp fun k => k.namesAcc 0) && (cx.x.accs.at? 0).isSome) = true := by
  decide +kernel

theorem witness_HandleWaitHoldsUntilFull :
    (small.ready? (.hWait 0)).any (fun cx => cx.ownsHandle 0 && (small.handle cx.c 0).st != .full) = true ∧
    (small.ready? (.hWait 1)).any (fun cx => cx.ownsHandle 1 && (small.handle cx.c 1).st == .full && !beyondCore (small.handle cx.c 1).scope) =
      true := by decide +kernel

/-! Traps and control registers. -/

theorem witness_SoftTraps :
    (handler.ready? (.trapInstr 5)).any (fun cx => cx.sys) = true ∧
    (small.ready? (.trapInstr 5)).any (fun cx => !cx.sys && small.settled cx.c cx.t) = true ∧
    ((device { team with queue := [{ op := .store 4, lanes := 1 }] } core).ready? (.trapInstr 5)).any (fun cx =>
      !cx.sys && !(device { team with queue := [{ op := .store 4, lanes := 1 }] } core).settled cx.c cx.t) = true := by decide +kernel

theorem witness_FlowsHaveHomesAndRecordsOfTheirOwn :
    (({ part := 1, label := 3 } : FlowRecord).part, ({ part := 1, label := 3 } : FlowRecord).label) ≠ (0, 3) := by decide

theorem witness_EstatFields : ({ code := 4095 } : Condition).code < 4096 ∧ 7 < 8 ∧ 6 < 8 := by decide

theorem witness_TrapEntrySavesAndEnters :
    ((device { team with trap := some {} } core).team? 0 0).any (fun x =>
      x.trap.any (fun cd => cd.cause != .arith) && (x.splinters[x.trapSpl]?).isSome) = true := by decide +kernel

theorem witness_ReturnResumesAtEpc :
    (handler.ready? .sret).any (fun cx => cx.x.sys.any (fun z => !z.formed && (cx.x.splinters[z.spl]?).isSome) && !cx.x.dead) = true := by
  decide +kernel

theorem witness_TerminatedTeamsEndAtTheirReturn :
    (handler.team? 0 0).any (fun x => x.part == 0 && x.inSys && !x.formed) = true ∧
    ((device { handlerTeam with dead := true } core).ready? .sret).any (fun cx => !cx.x.formed && cx.x.dead) = true := by decide +kernel

theorem witness_ControlRegistersHoldWhatIsWritten :
    (small.ctlRefused (.caller 0) 0 = true ∨ small.ctlRefused (.fqhead 0) 0xFFFFFFFFFFFFFFFF = true) ∧
    [Ctl.sysroot, .tvec, .flags 7, .arithen 7, .caller 7, .root 0].all (fun r => !r.readOnly) = true ∧
    [Ctl.sysroot, .tvec, .flags 7, .arithen 7].all (fun r => !small.ctlRefused r 0) = true ∧
    (handler.team? 0 0).any (fun x => x.sys.any fun z => !z.formed && !Ctl.readOnly .epc && !handler.ctlRefused .epc 0 &&
      !handler.ctlRefused .actp 7) = true := by decide +kernel

theorem witness_TemperatureReportsAndHalts : small.isUp = true := by decide +kernel

/-! Tensor arithmetic worked by hand in the spec. -/

/-- A claim with some bytes, under a record. -/
def claim (record : W64) (bs : SMap Byte) : Claim := { record := record, bytes := bs }

/-- The native block: elements from byte 0, scales from 0x4000, band scales from 0x5000. -/
def native (sa : Byte) : MmaIn :=
  let e (x y : Byte) : SMap Byte := [(0, 0x77), (1, 0x77), (2, 0x77), (3, 0x77), (4, 1), (8, x), (9, x), (10, x), (11, x), (12, 1), (0x4000, 0xFE), (0x4001, 1),
    (0x4002, y), (0x4003, 1)]
  { a := claim 0 (e 0x66 sa ++ [(0x5000, 0xC0), (0x5001, 0x3F)]), b := claim 0 (e 0x22 0xA0 ++ [(0x5001, 0x40)])
    fa := TileFormat.decode (BitVec.ofNat 64 (2 ^ 58 + 1024 * 2 ^ 40 + 1280 * 2 ^ 16))
    fb := TileFormat.decode (BitVec.ofNat 64 (2 ^ 58 + 2 ^ 57 + 1024 * 2 ^ 40 + 1280 * 2 ^ 16)), neg := false }

theorem test_native_block :
    (native 0x80).element 0 0 0x3F800000 = (0x494AE610, 0) ∧ (native 0xFF).element 0 0 0x3F800000 = (CNAN, Flag.inv) := by decide +kernel

/-- One element of 448 or -448 against 448 in MX mode, with block scales. -/
def mx (a ea eb : Byte) : MmaIn :=
  { a := claim 0 [(0, a), (0x4000, ea)], b := claim 0 [(0, 0x7E), (0x4000, eb)]
    fa := TileFormat.decode (BitVec.ofNat 64 (2 ^ 60 + 2 * 2 ^ 58 + 1024 * 2 ^ 40))
    fb := TileFormat.decode (BitVec.ofNat 64 (2 ^ 60 + 2 * 2 ^ 58 + 2 ^ 57 + 1024 * 2 ^ 40)), neg := false }

/-- The three blocks of the example of E8M0 exponents, one after another. -/
theorem test_mx_blocks :
    (mx 0x7E 0xFE 0xF0).addBlock 0 0 (0, 0) 0 = (0x7F7FFFFF, Flag.ovf) ∧
    (mx 0xFE 0x7F 0x7F).addBlock 0 0 (0x7F7FFFFF, 0) 0 = (0x7F7FFFFF, 0) ∧
    (mx 0xFE 0xFE 0xF0).addBlock 0 0 (0x7F7FFFFF, 0) 0 = (0xFF7FFFFF, Flag.ovf) := by decide +kernel

/-- The group of four kept elements of eight: mask 0x5A, then 0x5B with its NaN. -/
def sparse (m : Byte) : MmaIn :=
  { a := claim 0 [(0, 0xC2), (1, 0x51), (0x4000, m)], b := claim 0 [(0, 0x22), (1, 0x44), (2, 0x66), (3, 0x77)]
    fa := TileFormat.decode (BitVec.ofNat 64 (2 * 2 ^ 55 + 2 ^ 58 + 1024 * 2 ^ 28)), fb := TileFormat.decode (BitVec.ofNat 64 (2 ^ 58 + 2 ^ 57))
    neg := false }

theorem test_sparse_group :
    f32 (rne32 (blockSum ((List.range 8).map ((sparse 0x5A).product 0 0)))) = f32 0x41880000 ∧
    blockSum ((List.range 8).map ((sparse 0x5B).product 0 0)) = .nan := by decide +kernel

/-- FP32 into FP4 under the scales 0x80 and 0x70. -/
theorem test_quantise :
    quantise .rn false 0x80 [0x4019999A, 0xBF666666, 0x3DCCCCCD, 0x40A00000, 0x40533333, 0xC1400000, 0x3F333333, 0x3FA00000] =
      (0x11F34092, Flag.inx ||| Flag.ufl) ∧
    (quantise .rn true 0x70 [0xC1400000, 0, 0, 0, 0, 0, 0, 0]).2 = Flag.ofl ||| Flag.inx := by decide +kernel

end Sys2Proof.Tests
end

section
/-!
PROOFS. Bytes of memory read back after a write, and control registers read back after a write (R3, R5, R364).
-/

namespace Sys2Proof.Machine

open Sys2Proof

/-! Bytes of a table. -/

/-- A byte of a table after a run of bytes was stored: the stored one within the run, the old one outside it. -/
theorem atD_storeBytes (m : SMap Byte) (a x : Nat) (bs : List Byte) :
    SMap.atD (storeBytes m a bs) x 0 = if a ≤ x ∧ x < a + bs.length then bs.getD (x - a) 0 else SMap.atD m x 0 := by
  induction bs generalizing m a with
  | nil => simp [storeBytes, show ¬(a ≤ x ∧ x < a) by omega]
  | cons b bs ih =>
    rw [storeBytes, ih, SMap.atD_store]
    by_cases hx : x = a
    · simp [hx]
    · by_cases hin : a + 1 ≤ x ∧ x < a + 1 + bs.length
      · obtain ⟨k, rfl⟩ : ∃ k, x = a + 1 + k := ⟨x - (a + 1), by omega⟩
        have hk : a + 1 + k - a = k + 1 := by omega
        rw [if_pos hin, if_pos (by simp; omega), hk]
        simp
      · rw [if_neg hin, if_neg hx, if_neg (by simp; omega)]

/-- A run of bytes that was stored is read back whole. -/
theorem bytesAt_storeBytes_self (m : SMap Byte) (a : Nat) (bs : List Byte) : bytesAt (storeBytes m a bs) a bs.length = bs := by
  induction bs generalizing m a with
  | nil => rfl
  | cons b bs ih =>
    have hb : SMap.atD (storeBytes m a (b :: bs)) a 0 = b := (atD_storeBytes m a a (b :: bs)).trans (by simp)
    rw [List.length_cons, bytesAt, hb, storeBytes, ih]

@[simp] theorem length_leBytes (n v : Nat) : (leBytes n v).length = n := by
  induction n generalizing v with
  | zero => rfl
  | succ n ih => simp [leBytes, ih]

/-- The `n` low bytes of a value make up the value modulo `2 ^ (8 * n)`. -/
theorem leNat_leBytes (n v : Nat) : leNat (leBytes n v) = v % 2 ^ (8 * n) := by
  induction n generalizing v with
  | zero => simp [leBytes, leNat, Nat.mod_one]
  | succ n ih =>
    have hpow : 2 ^ (8 * (n + 1)) = 256 * 2 ^ (8 * n) := by rw [show 8 * (n + 1) = 8 + 8 * n by omega, Nat.pow_add]
    rw [leBytes, leNat, ih, hpow, Nat.mod_mul]
    simp

/-! Memory written and read back (R3). -/

/-- A byte of memory after a write. -/
theorem byte_write (s : State) (a x : Nat) (bs : List Byte) :
    (s.write a bs).byte x = if a ≤ x ∧ x < a + bs.length then bs.getD (x - a) 0 else s.byte x :=
  atD_storeBytes s.mem a x bs

/-- A little-endian value written is read back at its width. -/
theorem word_write_leBytes (s : State) (a n v : Nat) : (s.write a (leBytes n v)).word a n = v % 2 ^ (8 * n) := by
  have hbytes := bytesAt_storeBytes_self s.mem a (leBytes n v)
  rw [length_leBytes] at hbytes
  rw [State.word, State.bytes, State.write, hbytes, leNat_leBytes]

/-- Settles O45: a byte after a write, and a little-endian value read back. -/
theorem memoryWritesAreReadBack : Obligations.MemoryWritesAreReadBack := by
  unfold Obligations.MemoryWritesAreReadBack
  exact fun s a x bs => ⟨byte_write s a x bs, fun n v => word_write_leBytes s a n v⟩

/-! Control registers written and read back (R5, R364, R366). -/

/-- A value with no bit at or above `n` is what its `n` low bits extend to. -/
theorem setWidth_setWidth_of_low {n : Nat} {v : W64} (h : v &&& ~~~((BitVec.allOnes n).setWidth 64) = 0) :
    (v.setWidth n).setWidth 64 = v := by
  ext i hi
  have hbit := congrArg (fun b : W64 => b.getLsbD i) h
  simp [hi] at hbit ⊢
  grind

/-- A write that software may not make, or that is refused, changes nothing (R5, R6). -/
theorem ctlWrite_unchanged {s : State} {r : Ctl} {v : W64} (c t : Nat) (h : r.readOnly = true ∨ s.ctlRefused r v = true) :
    s.ctlWrite c t r v = s := by
  simp only [State.ctlWrite, Bool.or_eq_true, h, if_true]

/-- A write within the register's rules sets it. -/
theorem ctlWrite_sets {s : State} {r : Ctl} {v : W64} (c t : Nat) (h : r.readOnly = false) (hv : s.ctlRefused r v = false) :
    s.ctlWrite c t r v = s.ctlSet c t v r := by
  simp [State.ctlWrite, h, hv]

/-- A value that is not refused has none of the register's reserved bits (R6). -/
theorem reserved_clear {s : State} {r : Ctl} {v : W64} (hv : s.ctlRefused r v = false) : v &&& ~~~r.mask = 0 := by
  simp only [State.ctlRefused, Bool.or_eq_false_iff, bne_eq_false_iff_eq] at hv
  exact hv.1

/-- A one written to a sticky flag clears it (R366). -/
theorem flags_ctlSet (s : State) (c t p : Nat) (v : W64) : (s.ctlSet c t v (.flags p)).flags c p = s.flags c p &&& ~~~v.setWidth 8 := by
  simp [State.ctlSet, State.flags]

/-- The registers of a trapped team that software writes: EPC and ACTP (R364). -/
theorem team_ctlSet_epc {s : State} {c t : Nat} {x : Team} {z : SysCtx} (v : W64) (hx : s.team? c t = some x) (hz : x.sys = some z)
    (hf : z.formed = false) : ∃ y, (s.ctlSet c t v .epc).team? c t = some y ∧ (s.ctlSet c t v .epc).ctlRead c y .epc = v := by
  refine ⟨{ x with sys := some { z with epc := v } }, ?_, ?_⟩
  · simp [State.ctlSet, hx, hz]
  · simp [State.ctlRead, Team.ctl, hf]

theorem team_ctlSet_actp {s : State} {c t : Nat} {x : Team} {z : SysCtx} (v : W64) (hx : s.team? c t = some x) (hz : x.sys = some z)
    (hf : z.formed = false) : ∃ y, (s.ctlSet c t v .actp).team? c t = some y ∧ (s.ctlSet c t v .actp).ctlRead c y .actp = v := by
  refine ⟨{ x with sys := some { z with actp := v.toNat } }, ?_, ?_⟩
  · simp [State.ctlSet, hx, hz]
  · simp [State.ctlRead, Team.ctl, hf]

/-- Settles O59, register by register: a narrow one holds the value because its reserved bits are clear. -/
theorem controlRegistersHoldWhatIsWritten : Obligations.ControlRegistersHoldWhatIsWritten := by
  unfold Obligations.ControlRegistersHoldWhatIsWritten
  refine fun s c t x r v => ⟨ctlWrite_unchanged c t, fun hr hv => ?_⟩
  rw [ctlWrite_sets c t hr hv]
  have hlow := reserved_clear hv
  cases r with
  | flags p => exact flags_ctlSet s c t p v
  | epc => exact fun hx z hz hf => team_ctlSet_epc v hx hz hf
  | actp => exact fun hx z hz hf => team_ctlSet_actp v hx hz hf
  | fqbase | fqhead => trivial
  | estat | eaddr | eiaddr | fqtail => cases hr
  | arithen p =>
    have hw : (v.setWidth 8).setWidth 64 = v := setWidth_setWidth_of_low hlow
    simpa [State.ctlSet, State.ctlRead, State.enabled] using hw
  | devid => exact setWidth_setWidth_of_low (n := 9) hlow
  | quota | root | peerroot | entryt | caller | tokbud | ept | arrt => simp [State.ctlSet, State.ctlRead]
  | sysroot | sysent | tvec | ftag => rfl

end Sys2Proof.Machine
end

section

namespace Sys2Proof.Machine
open Sys2Proof

/-! What leaves memory alone: each function of the model that writes no byte, in the order of the model (R73). -/

theorem foldl_mem {α : Type} {f : State → α → State} (hf : ∀ s a, (f s a).mem = s.mem) (l : List α) (s : State) :
    (l.foldl f s).mem = s.mem := by
  induction l generalizing s with
  | nil => rfl
  | cons a l ih => rw [List.foldl_cons, ih, hf]

theorem foldl_fst_mem {α β : Type} {f : State × β → α → State × β} (hf : ∀ r a, (f r a).1.mem = r.1.mem) (l : List α)
    (r : State × β) : (l.foldl f r).1.mem = r.1.mem := by
  induction l generalizing r with
  | nil => rfl
  | cons a l ih => exact (ih _).trans (hf r a)

/-! Teams, links and packets. -/

@[simp] theorem State.closeTeam_mem (s : State) (c t : Nat) : (s.closeTeam c t).mem = s.mem := by
  simp [State.closeTeam]

@[simp] theorem State.onSplinter_mem (s : State) (c t n : Nat) (f : Splinter → Splinter) : (s.onSplinter c t n f).mem = s.mem := by
  simp [State.onSplinter]

@[simp] theorem State.counted_mem (s : State) (p : Nat) (k : Activity) : (s.counted p k).mem = s.mem := by
  simp [State.counted]

@[simp] theorem State.setLink_mem (s : State) (n : Nat) (l : Link) : (s.setLink n l).mem = s.mem := by
  simp [State.setLink]

@[simp] theorem State.emit_mem (s : State) (n : Nat) (f : Flit) : (s.emit n f).mem = s.mem := by
  simp [State.emit]

@[simp] theorem State.transmit_mem (s : State) (n : Nat) (f : Flit) : (s.transmit n f).mem = s.mem := by
  simp [State.transmit, apply_ite State.mem]

@[simp] theorem State.carry_mem (s : State) (k : Packet) : (s.carry k).mem = s.mem := by
  unfold State.carry
  split <;> simp [foldl_mem]

@[simp] theorem State.raisePort_mem (s : State) (n : Nat) : (s.raisePort n).mem = s.mem := by
  simp [State.raisePort]

@[simp] theorem State.sealPacket_mem (s : State) (n : Nat) (bs : List Byte) : (s.sealPacket n bs).mem = s.mem := by
  simp [State.sealPacket]

@[simp] theorem State.overPort_mem (s : State) (n : Nat) (k : Packet) : (s.overPort n k).mem = s.mem :=
  foldl_mem (fun _ _ => by simp) _ _

@[simp] theorem State.send_mem (s : State) (m : OutMsg) : (s.send m).mem = s.mem := by
  unfold State.send
  (repeat' split) <;> simp

/-! Caches of lines and of translations. -/

@[simp] theorem State.clearWhole_mem (s : State) (ps : List (Nat × Nat)) : (s.clearWhole ps).mem = s.mem := by
  unfold State.clearWhole
  split <;> rfl

@[simp] theorem State.fillTlb_mem (s : State) (places : List TlbPlace) (space : Nat) (w : Walk) :
    (s.fillTlb places space w).mem = s.mem := by
  cases w <;> rfl

@[simp] theorem State.fillSpot_mem (s : State) (w : Who) (lane a : Nat) : (s.fillSpot w lane a).mem = s.mem := by
  unfold State.fillSpot
  (repeat' split) <;> simp

@[simp] theorem State.stopFills_mem (s : State) (c p : Nat) (lines : Nat → Bool) : (s.stopFills c p lines).mem = s.mem := by
  simp [State.stopFills]

@[simp] theorem State.discardLines_mem (s : State) (c p : Nat) (sc : Scope) : (s.discardLines c p sc).mem = s.mem := by
  simp [State.discardLines, apply_ite State.mem]

@[simp] theorem State.patchLine_mem (s : State) (c p : Nat) (pa : Nat) (bs : List Byte) : (s.patchLine c p pa bs).mem = s.mem := by
  unfold State.patchLine
  (repeat' split) <;> rfl

@[simp] theorem State.fillLine_mem (s : State) (c p : Nat) (pa : Nat) : (s.fillLine c p pa).mem = s.mem := by
  unfold State.fillLine
  dsimp only
  (repeat' split) <;> simp

@[simp] theorem State.dropLines_mem (s : State) (c p pa n : Nat) : (s.dropLines c p pa n).mem = s.mem := by
  simp [State.dropLines]

@[simp] theorem State.laneWalks_mem (s : State) (w : Who) (k : AccessKind) (lane a n : Nat) : (s.laneWalks w k lane a n).mem = s.mem := by
  simp [State.laneWalks]

@[simp] theorem State.walks_mem (s : State) (w : Who) (k : AccessKind) (a n : Nat) : (s.walks w k a n).mem = s.mem := by
  simp [State.walks]

@[simp] theorem State.setFlags_mem (s : State) (c p : Nat) (f : FlagSet) : (s.setFlags c p f).mem = s.mem := by
  unfold State.setFlags
  split <;> rfl

@[simp] theorem State.walkEntry_mem (s : State) (p idx : Nat) : (s.walkEntry p idx).mem = s.mem := by
  simp [State.walkEntry]

@[simp] theorem State.walkEndpoint_mem (s : State) (p idx : Nat) : (s.walkEndpoint p idx).mem = s.mem := by
  simp [State.walkEndpoint]

@[simp] theorem State.sendVia_mem (s : State) (p : Nat) (ue : Bool) (idx : Nat) (m : Option Nat → OutMsg) :
    (s.sendVia p ue idx m).mem = s.mem := by
  unfold State.sendVia
  split <;> simp

/-! Flows, tokens, items and counters. -/

/-- The choice of the record to spill is made a variable before the branches are taken apart: otherwise the kernel evaluates
the multiplication in `homeOf` when it compares the states. -/
@[simp] theorem State.setFlow_mem (s : State) (f : FlowRecord) : (s.setFlow f).mem = s.mem := by
  unfold State.setFlow
  obtain ⟨victim, hv⟩ : ∃ victim, victim = spillVictim := ⟨_, rfl⟩
  rw [← hv]
  dsimp only
  split
  · rfl
  · split <;> rfl

@[simp] theorem State.touchFlow_mem (s : State) (p label : Nat) : (s.touchFlow p label).mem = s.mem := by
  unfold State.touchFlow
  split <;> simp

@[simp] theorem State.assign_mem (s : State) (p label cls : Nat) (pos : Position) : (s.assign p label cls pos).2.2.mem = s.mem := by
  simp [State.assign]

@[simp] theorem State.toQueue_mem (s : State) (q : QItem) : (s.toQueue q).mem = s.mem := by
  simp [State.toQueue]

@[simp] theorem State.grant_mem (s : State) (f : FlowRecord) (w : Waiter) : (s.grant f w).mem = s.mem := by
  unfold State.grant
  split <;> simp

@[simp] theorem State.returnToken_mem (s : State) (p label : Nat) : (s.returnToken p label).mem = s.mem := by
  unfold State.returnToken
  dsimp only
  split <;> simp

@[simp] theorem State.awaitToken_mem (s : State) (p label : Nat) (w : Waiter) : (s.awaitToken p label w).mem = s.mem := by
  simp [State.awaitToken, apply_ite State.mem]

@[simp] theorem State.proceed_mem (s : State) (q : QItem) : (s.proceed q).mem = s.mem := by
  unfold State.proceed
  split <;> simp

@[simp] theorem State.park_mem (s : State) (q : QItem) : (s.park q).mem = s.mem := by
  simp [State.park]

@[simp] theorem State.enqueue_mem (s : State) (r : ItemRecord) (p : Nat) : (s.enqueue r p).mem = s.mem := by
  unfold State.enqueue
  dsimp only
  split <;> simp

@[simp] theorem State.offer_mem (s : State) (r : ItemRecord) (p : Nat) : (s.offer r p).mem = s.mem := by
  unfold State.offer
  split <;> simp

@[simp] theorem State.retryOffers_mem (s : State) : s.retryOffers.mem = s.mem :=
  foldl_mem (fun _ _ => by simp) _ _

@[simp] theorem State.setCounter_mem (s : State) (n : Nat) (k : Counter) : (s.setCounter n k).mem = s.mem := by
  simp [State.setCounter, foldl_mem, apply_ite State.mem]

@[simp] theorem State.onPosition_mem (s : State) (id : Nat) (f : Position → Position) : (s.onPosition id f).mem = s.mem := by
  unfold State.onPosition
  split <;> simp

@[simp] theorem State.dropPosition_mem (s : State) (id : Nat) : (s.dropPosition id).mem = s.mem := by
  unfold State.dropPosition
  split <;> simp

@[simp] theorem State.dropRange_mem (s : State) (w : Who) (a n : Nat) : (s.dropRange w a n).mem = s.mem :=
  foldl_mem (fun s p => by split <;> simp) _ _

/-! Locks and barriers. -/

@[simp] theorem State.lock_mem (s : State) (c i : Nat) (l : Lock) : (s.lock c i l).mem = s.mem := by
  simp [State.lock]

@[simp] theorem State.unlock_mem (s : State) (c i : Nat) : (s.unlock c i).mem = s.mem := by
  simp [State.unlock]

@[simp] theorem State.unlockHandle_mem (s : State) (c h : Nat) : (s.unlockHandle c h).mem = s.mem := by
  simp [State.unlockHandle, apply_ite State.mem]

@[simp] theorem State.setBar_mem (s : State) (lvl c i : Nat) (b : Barrier) : (s.setBar lvl c i b).mem = s.mem := by
  simp [State.setBar, apply_ite State.mem]

@[simp] theorem State.wakeBar_mem (s : State) (lvl c i : Nat) (last : Bool) : (s.wakeBar lvl c i last).mem = s.mem := by
  unfold State.wakeBar
  split <;> rfl

@[simp] theorem State.arrive_mem (s : State) (lvl c i count : Nat) (gen : Bool) : (s.arrive lvl c i count gen).mem = s.mem := by
  simp [State.arrive, apply_ite State.mem]

@[simp] theorem State.walkBarsFrom_mem (s : State) (p f a : Nat) : (s.walkBarsFrom p f a).mem = s.mem := by
  induction f generalizing s a with
  | zero => rfl
  | succ f ih =>
    unfold State.walkBarsFrom
    dsimp only
    split
    · simp
    · split <;> simp [ih]

@[simp] theorem State.walkBars_mem (s : State) (p : Nat) (e : EntryRecord) : (s.walkBars p e).mem = s.mem := by
  unfold State.walkBars
  split <;> simp

@[simp] theorem State.takeBars_mem (s : State) (c p idx : Nat) (bl : List (Nat × Nat × Nat)) : (s.takeBars c p idx bl).mem = s.mem := by
  simp [State.takeBars, foldl_mem, apply_ite State.mem]

/-! The formation and the end of a team. -/

@[simp] theorem State.spend_mem (s : State) (p : Nat) (e : EntryRecord) : (s.spend p e).mem = s.mem := by
  simp [State.spend]

@[simp] theorem State.packItems_mem (s : State) (c : Nat) (e : EntryRecord) (lead : QItem) (room : Nat) (used opened : Mask)
    (qs : List QItem) :
    (s.packItems c e lead room used opened qs).1.mem = s.mem := by
  induction qs generalizing s room used with
  | nil => rfl
  | cons q qs ih =>
    unfold State.packItems
    dsimp only
    split
    · exact ih _ _ _
    · split
      · exact ih _ _ _
      · simp [ih, apply_ite State.mem]

@[simp] theorem State.placePositions_mem (s : State) (t first : Nat) (ps : List (QItem × Nat)) :
    (s.placePositions t first ps).mem = s.mem := by
  simp [State.placePositions, foldl_mem, apply_ite State.mem]

@[simp] theorem State.leftQueued_mem (s : State) (c n : Nat) (left : List QItem) : (s.leftQueued c n left).mem = s.mem := by
  simp [State.leftQueued]

@[simp] theorem State.forget_mem (s : State) (c t : Nat) (m : Mask) : (s.forget c t m).mem = s.mem := by
  simp [State.forget]

@[simp] theorem State.settleItem_mem (s : State) (c t : Nat) (i : Item) : (s.settleItem c t i).mem = s.mem := by
  unfold State.settleItem
  (repeat' split) <;> simp

@[simp] theorem State.settleItems_mem (s : State) (c t : Nat) : (s.settleItems c t).mem = s.mem := by
  unfold State.settleItems
  split <;> simp [foldl_mem]

@[simp] theorem State.freeBars_mem (s : State) (c p idx : Nat) : (s.freeBars c p idx).mem = s.mem := by
  simp [State.freeBars]

@[simp] theorem State.returnPrivate_mem (s : State) (p : Nat) (e : EntryRecord) (base : Nat) : (s.returnPrivate p e base).mem = s.mem := by
  unfold State.returnPrivate
  split <;> rfl

@[simp] theorem State.returnBlock_mem (s : State) (x : Team) : (s.returnBlock x).mem = s.mem := by
  simp [State.returnBlock]

@[simp] theorem State.ghost_mem (s : State) (c t : Nat) (x : Team) : (s.ghost c t x).mem = s.mem := by
  simp [State.ghost]

@[simp] theorem State.freeTensor_mem (s : State) (c t : Nat) : (s.freeTensor c t).mem = s.mem := by
  unfold State.freeTensor
  (repeat' split) <;> rfl

@[simp] theorem State.sweep_mem (s : State) (c t : Nat) : (s.sweep c t).mem = s.mem := by
  unfold State.sweep
  dsimp only
  (repeat' split) <;> simp

@[simp] theorem State.endTeam_mem (s : State) (c t : Nat) : (s.endTeam c t).mem = s.mem := by
  unfold State.endTeam
  dsimp only
  (repeat' split) <;> simp

@[simp] theorem State.freePrivates_mem (s : State) (p : Nat) : (s.freePrivates p).mem = s.mem :=
  foldl_mem (fun _ _ => by simp) _ _

@[simp] theorem State.refuseAll_mem (s : State) (p : Nat) : (s.refuseAll p).mem = s.mem :=
  foldl_mem (fun _ _ => by simp) _ _

@[simp] theorem State.endPartition_mem (s : State) (p : Nat) : (s.endPartition p).mem = s.mem := by
  simp [State.endPartition]

/-! Registers, traps and the completion of an instruction. -/

@[simp] theorem State.writeV_mem (s : State) (c t n : Nat) (act : Mask) (f : Nat → W32) (o : Nat → Option Origin) :
    (s.writeV c t n act f o).mem = s.mem := by
  unfold State.writeV
  split <;> simp

@[simp] theorem State.writeU_mem (s : State) (c t n : Nat) (v : W64) (o : Option Origin) : (s.writeU c t n v o).mem = s.mem := by
  simp [State.writeU]

@[simp] theorem State.writeP_mem (s : State) (c t n : Nat) (act : Mask) (f : Nat → Bool) : (s.writeP c t n act f).mem = s.mem := by
  simp [State.writeP]

@[simp] theorem State.enterTrap_mem (s : State) (c t : Nat) : (s.enterTrap c t).mem = s.mem := by
  unfold State.enterTrap
  (repeat' split) <;> rfl

@[simp] theorem State.takeTrap_mem (s : State) (c t n : Nat) (cd : Condition) : (s.takeTrap c t n cd).mem = s.mem := by
  simp [State.takeTrap, apply_ite State.mem]

@[simp] theorem State.pendOn_mem (s : State) (c t : Nat) (cd : Condition) : (s.pendOn c t cd).mem = s.mem := by
  simp [State.pendOn]

@[simp] theorem State.takePending_mem (s : State) (c t : Nat) : (s.takePending c t).mem = s.mem := by
  unfold State.takePending
  (repeat' split) <;> simp

@[simp] theorem State.leaveTrap_mem (s : State) (c t : Nat) : (s.leaveTrap c t).mem = s.mem := by
  unfold State.leaveTrap
  (repeat' split) <;> simp

@[simp] theorem Ctx.retire_mem (cx : Ctx) (s : State) (passes : Nat) : (cx.retire s passes).mem = s.mem := by
  simp [Ctx.retire]

@[simp] theorem Ctx.hold_mem (cx : Ctx) (s : State) (r : Wait) : (cx.hold s r).mem = s.mem := by
  simp [Ctx.hold]

@[simp] theorem Ctx.write_mem (cx : Ctx) (s : State) (d : Operand) (f : Nat → W64) (o : Nat → Option Origin) :
    (cx.write s d f o).mem = s.mem := by
  unfold Ctx.write
  split <;> simp

@[simp] theorem Ctx.write64_mem (cx : Ctx) (s : State) (d : Operand) (f : Nat → W64) (o : Nat → Option Origin) :
    (cx.write64 s d f o).mem = s.mem := by
  unfold Ctx.write64
  split <;> simp

@[simp] theorem Ctx.writeP15_mem (cx : Ctx) (s : State) (f : Nat → Bool) : (cx.writeP15 s f).mem = s.mem := by
  simp [Ctx.writeP15]

/-! Issue and fetch. -/

@[simp] theorem State.markTeams_mem (s : State) (c q : Nat) : (s.markTeams c q).mem = s.mem := by
  simp [State.markTeams]

@[simp] theorem State.issued_mem (s : State) (c t q : Nat) : (s.issued c t q).mem = s.mem := by
  unfold State.issued
  (repeat' split) <;> simp

@[simp] theorem State.fillFetch_mem (s : State) (w : Who) (lane a n : Nat) : (s.fillFetch w lane a n).mem = s.mem :=
  foldl_mem (fun _ _ => by simp) _ _

@[simp] theorem State.allWait_mem (s s' : State) (c t : Nat) : (s.allWait s' c t).mem = s'.mem := by
  unfold State.allWait
  dsimp only
  split
  · simp
  · split <;> simp

@[simp] theorem State.finish_mem (s : State) : s.finish.mem = s.mem := by
  simp [State.finish]

/-! Accesses, peers and multicasts. -/

@[simp] theorem State.fillPeer_mem (s : State) (p off n : Nat) : (s.fillPeer p off n).mem = s.mem := by
  unfold State.fillPeer
  dsimp only
  split
  · rfl
  · exact foldl_mem (fun s q => by simp) _ _

@[simp] theorem State.dropOwn_mem (s : State) (m : McastMsg) (ps : List (Nat × Nat)) : (s.dropOwn m ps).mem = s.mem := by
  unfold State.dropOwn
  split <;> simp [foldl_mem]

@[simp] theorem State.joinColumn_mem (s : State) (src part tag col : Nat) (ack : BitVec 512) :
    (s.joinColumn src part tag col ack).mem = s.mem := by
  unfold State.joinColumn
  split <;> simp

@[simp] theorem State.memberAnswer_mem (s : State) (x : Transaction) (key : Nat × Nat) (ok : Bool) :
    (s.memberAnswer x key ok).mem = s.mem := by
  simp [State.memberAnswer, apply_ite State.mem]

@[simp] theorem State.openRelay_mem (s : State) (m : McastMsg) : (s.openRelay m).mem = s.mem := by
  simp [State.openRelay, foldl_mem, apply_ite State.mem]

@[simp] theorem State.deliver_mem (s : State) (c t : Nat) (a : Access) (l : Nat) (bs : List Byte) (o : Option Origin) :
    (s.deliver c t a l bs o).mem = s.mem := by
  unfold State.deliver
  (repeat' split) <;> simp

@[simp] theorem State.deliverPoison_mem (s : State) (c t : Nat) (a : Access) (m : Mask) : (s.deliverPoison c t a m).mem = s.mem :=
  foldl_mem (fun _ _ => by simp) _ _

@[simp] theorem State.returnP15_mem (s : State) (c t : Nat) (a : Access) (m : Mask) (f : Nat → Bool) :
    (s.returnP15 c t a m f).mem = s.mem := by
  unfold State.returnP15
  split <;> simp

@[simp] theorem State.fillLines_mem (s : State) (w : Who) (ps : List (Nat × Nat)) : (s.fillLines w ps).mem = s.mem :=
  foldl_mem (fun _ _ => by simp) _ _

@[simp] theorem State.storedWhole_mem (s : State) (a : Access) (done : Mask) (ls : List (Nat × Fate)) :
    (s.storedWhole a done ls).mem = s.mem := by
  unfold State.storedWhole
  split <;> simp

@[simp] theorem State.request_mem (s : State) (w : Who) (t : Nat) (a : Access) (kind : PeerKind) (x : Transaction)
    (cells : List (Nat × BitVec 64 × BitVec 64)) :
    (s.request w t a kind x cells).mem = s.mem := by
  unfold State.request
  split <;> simp

@[simp] theorem State.readPeers_mem (s : State) (w : Who) (t : Nat) (a : Access) (ls : List Nat) : (s.readPeers w t a ls).mem = s.mem := by
  simp [State.readPeers, foldl_mem]

@[simp] theorem State.sendPeers_mem (s : State) (w : Who) (t : Nat) (a : Access) (ls : List (Nat × Nat × Nat × Bool)) :
    (s.sendPeers w t a ls).mem = s.mem := by
  simp [State.sendPeers, foldl_mem, apply_ite State.mem]

@[simp] theorem State.finishAccess_mem (s : State) (w : Who) (t : Nat) (a : Access) (pending : Bool) :
    (s.finishAccess w t a pending).mem = s.mem := by
  simp [State.finishAccess, apply_ite State.mem]

@[simp] theorem State.saturated_mem (s : State) (w : Who) (t : Nat) (a : Access) (sat : Mask) : (s.saturated w t a sat).mem = s.mem := by
  simp [State.saturated, apply_ite State.mem]

@[simp] theorem State.dropFar_mem (s : State) (c p : Nat) (ls : List Nat) : (s.dropFar c p ls).mem = s.mem := by
  simp [State.dropFar]

@[simp] theorem State.finishMcast_mem (s : State) (w : Who) (x : Transaction) (pending : Bool) :
    (s.finishMcast w x pending).mem = s.mem := by
  unfold State.finishMcast
  extract_lets a all ack s1 s2 s3 s4
  rw [State.finishAccess_mem, State.returnP15_mem, foldl_mem (fun s l => by simp)]
  simp [s2, s1]

@[simp] theorem State.closeMcasts_mem (s : State) (w : Who) (t : Nat) (pending : Bool) : (s.closeMcasts w t pending).mem = s.mem :=
  foldl_mem (fun _ _ => by simp) _ _

@[simp] theorem State.queueAccess_mem (s : State) (c t : Nat) (a : Access) : (s.queueAccess c t a).mem = s.mem := by
  simp [State.queueAccess]

@[simp] theorem State.bindV_mem (s : State) (c t n : Nat) (act : Mask) (sym : Nat) (half : Bool) :
    (s.bindV c t n act sym half).mem = s.mem := by
  unfold State.bindV
  split <;> simp

@[simp] theorem Ctx.bind_mem (cx : Ctx) (s : State) (d : Operand) (wide : Bool) (sym : Nat) : (cx.bind s d wide sym).mem = s.mem := by
  unfold Ctx.bind
  (repeat' split) <;> simp

@[simp] theorem State.nextOrder_mem (s : State) (c t : Nat) : (s.nextOrder c t).mem = s.mem := by
  simp [State.nextOrder]

@[simp] theorem Ctx.pendP15_mem (cx : Ctx) (s : State) (a : Access) : (cx.pendP15 s a).mem = s.mem := by
  unfold Ctx.pendP15
  split <;> simp

@[simp] theorem Ctx.markDone_mem (cx : Ctx) (s : State) (m : Mask) : (cx.markDone s m).mem = s.mem := by
  simp [Ctx.markDone]

/-! Handles and copies. -/

@[simp] theorem State.resultOf_mem (s : State) (c h : Nat) (v : W64) : (s.resultOf c h v).mem = s.mem := by
  simp [State.resultOf]

@[simp] theorem State.fillHandle_mem (s : State) (c h : Nat) (base : W64) (len : Nat) (scope : Scope) (lock : Option Nat) :
    (s.fillHandle c h base len scope lock).mem = s.mem := by
  unfold State.fillHandle
  split <;> rfl

@[simp] theorem State.fullHandle_mem (s : State) (c h err : Nat) : (s.fullHandle c h err).mem = s.mem := by
  simp [State.fullHandle]

@[simp] theorem State.drainHandle_mem (s : State) (c h lock : Nat) (base : W64) : (s.drainHandle c h lock base).mem = s.mem := by
  simp [State.drainHandle]

@[simp] theorem State.freeHandle_mem (s : State) (c h : Nat) : (s.freeHandle c h).mem = s.mem := by
  simp [State.freeHandle]

@[simp] theorem State.poisonLine_mem (s : State) (l : Nat) : (s.poisonLine l).mem = s.mem := by
  unfold State.poisonLine
  split <;> rfl

@[simp] theorem State.arriveAt_mem (s : State) (x : Option (Nat × Nat × Nat × Nat × Bool)) : (s.arriveAt x).mem = s.mem := by
  unfold State.arriveAt
  split <;> simp

@[simp] theorem Ctx.acceptCopy_mem (cx : Ctx) (s : State) (h : Nat) (d : CopyDesc) (l1 l2 : Nat) :
    (cx.acceptCopy s h d l1 l2).mem = s.mem := by
  unfold Ctx.acceptCopy
  rw [State.onSector_mem]
  split <;> simp

@[simp] theorem Ctx.emptyCopy_mem (cx : Ctx) (h : Nat) (d : CopyDesc) : (cx.emptyCopy h d).mem = cx.s.mem := by
  unfold Ctx.emptyCopy
  split <;> simp

@[simp] theorem Ctx.nextStage_mem (cx : Ctx) (s : State) : (cx.nextStage s).mem = s.mem := by
  simp [Ctx.nextStage]

@[simp] theorem State.setCopy_mem (s : State) (n i : Nat) (x : CopyCmd) : (s.setCopy n i x).mem = s.mem := by
  simp [State.setCopy]

@[simp] theorem State.releaseSource_mem (s : State) (x : CopyCmd) : (s.releaseSource x).mem = s.mem := by
  unfold State.releaseSource
  (repeat' split) <;> simp

@[simp] theorem State.endCopy_mem (s : State) (n i : Nat) (x : CopyCmd) (err : Nat) : (s.endCopy n i x err).mem = s.mem := by
  simp [State.endCopy, apply_ite State.mem]

@[simp] theorem State.noteErr_mem (s : State) (c h e : Nat) : (s.noteErr c h e).mem = s.mem := by
  simp [State.noteErr, apply_ite State.mem]

/-! Transactions. -/

@[simp] theorem State.endTx_mem (s : State) (x : Transaction) : (s.endTx x).mem = s.mem := by
  simp [State.endTx]

@[simp] theorem State.cacheAnswer_mem (s : State) (x : Transaction) (lines : SMap (List Byte)) (good : List Nat) :
    (s.cacheAnswer x lines good).mem = s.mem := by
  unfold State.cacheAnswer
  dsimp only
  split
  · split
    · simp
    · simp
    · simp
    · exact (foldl_mem (fun s l => foldl_fst_mem (fun _ _ => by simp) _ _) _ _).trans (by simp)
  · split
    · exact foldl_mem (fun s e => by simp) _ _
    · rfl

@[simp] theorem State.giveLanes_mem (s : State) (w : Who) (x : Transaction) (vals : List (Nat × BitVec 64)) :
    (s.giveLanes w x vals).mem = s.mem := by
  simp [State.giveLanes, foldl_mem]

@[simp] theorem State.leaveTx_mem (s : State) (x : Transaction) (ls : List Nat) : (s.leaveTx x ls).mem = s.mem := by
  simp [State.leaveTx, apply_ite State.mem]

@[simp] theorem State.sendLine_mem (s : State) (c t : Nat) (e : OsEntry) : (s.sendLine c t e).mem = s.mem := by
  simp [State.sendLine]

/-! Pulls and sampler jobs. -/

@[simp] theorem State.arrivedAt_mem (s : State) (u : UeFrom) : (s.arrivedAt u).mem = s.mem := by
  simp [State.arrivedAt]

@[simp] theorem State.onRequest_mem (s : State) (p id : Nat) (f : PullEntry → PullEntry) : (s.onRequest p id f).mem = s.mem := by
  simp [State.onRequest]

@[simp] theorem State.reenter_mem (s : State) (p id : Nat) : (s.reenter p id).mem = s.mem := by
  unfold State.reenter
  (repeat' split) <;> rfl

@[simp] theorem State.dropRequest_mem (s : State) (p id : Nat) : (s.dropRequest p id).mem = s.mem := by
  simp [State.dropRequest]

@[simp] theorem State.grantToken_mem (s : State) (p : Nat) : (s.grantToken p).mem = s.mem := by
  unfold State.grantToken
  dsimp only
  (repeat' split) <;> simp

@[simp] theorem State.sendFor_mem (s : State) (x : Handle) (m : Option Nat → OutMsg) : (s.sendFor x m).mem = s.mem := by
  simp [State.sendFor]

@[simp] theorem State.endSend_mem (s : State) (c h sst : Nat) : (s.endSend c h sst).mem = s.mem := by
  simp [State.endSend]

@[simp] theorem State.post_mem (s : State) (c h : Nat) (base : W64) (len count : Nat) (sc : Scope) (lock : Option Nat) (block : Block) :
    (s.post c h base len count sc lock block).mem = s.mem := by
  simp [State.post]

@[simp] theorem State.endJob_mem (s : State) (n : Nat) (x : SamplerJob) (res : JobResult) : (s.endJob n x res).mem = s.mem := by
  unfold State.endJob
  split <;> simp

/-! The tensor unit. -/

@[simp] theorem State.endOp_mem (s : State) (c i : Nat) : (s.endOp c i).mem = s.mem := by
  unfold State.endOp
  split <;> rfl

@[simp] theorem State.poisonBatch_mem (s : State) (c : Nat) (o : TensorOp) (p : Option Origin) : (s.poisonBatch c o p).mem = s.mem := by
  unfold State.poisonBatch
  split <;> simp

@[simp] theorem State.flagBatch_mem (s : State) (c : Nat) (o : TensorOp) (f : FlagSet) : (s.flagBatch c o f).mem = s.mem := by
  unfold State.flagBatch
  split <;> simp

@[simp] theorem State.onAcc_mem (s : State) (c : Nat) (o : TensorOp) (n : Nat) (f : Accumulator → Accumulator) :
    (s.onAcc c o n f).mem = s.mem := by
  unfold State.onAcc
  split <;> rfl

@[simp] theorem State.finishMma_mem (s : State) (c i : Nat) (o : TensorOp) (acc ta tb : Nat) (zc nb na : Bool) :
    (s.finishMma c i o acc ta tb zc nb na).mem = s.mem := by
  simp [State.finishMma]

/-! System mode. -/

@[simp] theorem Ctx.writeRecord_mem (cx : Ctx) (s : State) (d : Operand) (v : Nat) : (cx.writeRecord s d v).mem = s.mem := by
  unfold Ctx.writeRecord
  split <;> simp [foldl_mem]

@[simp] theorem State.keepParked_mem (s : State) (c i : Nat) (e : Parked) (rest : Mask) : (s.keepParked c i e rest).mem = s.mem := by
  unfold State.keepParked
  (repeat' split) <;> simp

@[simp] theorem State.logImage_mem (s : State) (body : List Byte) (svn kind : Nat) : (s.logImage body svn kind).mem = s.mem := by
  simp [State.logImage]

@[simp] theorem State.reply_mem (s : State) (what : MgmtOut) : (s.reply what).mem = s.mem := by
  simp [State.reply]

@[simp] theorem State.leaveFlows_mem (s : State) (c t num : Nat) : (s.leaveFlows c t num).mem = s.mem := by
  simp [State.leaveFlows]

@[simp] theorem State.removeTeam_mem (s : State) (c t : Nat) : (s.removeTeam c t).mem = s.mem := by
  unfold State.removeTeam
  split <;> rfl

@[simp] theorem State.preempt_mem (s : State) (p me : Nat) : (s.preempt p me).mem = s.mem := by
  unfold State.preempt
  dsimp only
  rw [foldl_mem (fun s e => by simp)]
  simp

/-! Control flow and lists. -/

@[simp] theorem Ctx.divide_mem (cx : Ctx) (s : State) (passes : Nat) (parts : List (Mask × Splinter)) :
    (cx.divide s passes parts).mem = s.mem := by
  simp [Ctx.divide]

@[simp] theorem State.settleJoins_mem (s : State) (c t : Nat) : (s.settleJoins c t).mem = s.mem := by
  unfold State.settleJoins
  dsimp only
  (repeat' split) <;> simp

@[simp] theorem Ctx.joined_mem (cx : Ctx) (f : Team → Team) : (cx.joined f).mem = cx.s.mem := by
  simp [Ctx.joined]

@[simp] theorem State.leave_mem (s : State) (c t : Nat) (m : Mask) : (s.leave c t m).mem = s.mem := by
  unfold State.leave
  dsimp only
  (repeat' split) <;> simp

@[simp] theorem State.dropWaiter_mem (s : State) (p label seq : Nat) : (s.dropWaiter p label seq).mem = s.mem := by
  simp [State.dropWaiter]

@[simp] theorem Ctx.writePair_mem (cx : Ctx) (d : Operand) (f : Nat → Nat × Nat) : (cx.writePair d f).mem = cx.s.mem := by
  simp [Ctx.writePair]

@[simp] theorem Ctx.writeList_mem (cx : Ctx) (d : Operand) (f : Nat → List W32) (n : Nat) : (cx.writeList d f n).mem = cx.s.mem :=
  foldl_mem (fun _ _ => by simp) _ _

/-! Links. -/

@[simp] theorem State.control_mem (s : State) (n : Nat) (note : LinkNote) : (s.control n note).mem = s.mem := by
  simp [State.control, foldl_mem, apply_ite State.mem]

@[simp] theorem State.resend_mem (s : State) (n : Nat) : (s.resend n).mem = s.mem :=
  foldl_mem (fun _ _ => by simp) _ _

@[simp] theorem State.keyLink_mem (s : State) (t : LinkTraining) (port : Nat) (secret : List Byte) :
    (s.keyLink t port secret).mem = s.mem := by
  unfold State.keyLink
  split <;> simp

@[simp] theorem State.sendKey_mem (s : State) (n id : Nat) (cipher : List Byte) : (s.sendKey n id cipher).mem = s.mem := by
  simp [State.sendKey]

@[simp] theorem State.train_mem (s : State) (t : LinkTraining) (port : Nat) : (s.train t port).mem = s.mem := by
  unfold State.train
  (repeat' split) <;> simp

@[simp] theorem State.takeFlit_mem (s : State) (n : Nat) (f : Flit) : (s.takeFlit n f).mem = s.mem := by
  unfold State.takeFlit
  split <;> simp

/-! Saved areas. -/

@[simp] theorem State.walkWaiter_mem (s : State) (w : Who) (e : EntryRecord) (p : AreaSplinter) : (s.walkWaiter w e p).mem = s.mem := by
  unfold State.walkWaiter
  dsimp only
  split <;> simp

@[simp] theorem State.walkArea_mem (s : State) (c : Nat) (a : Area) : (s.walkArea c a).mem = s.mem := by
  unfold State.walkArea
  dsimp only
  split
  · simp
  · rw [foldl_mem (fun s y => by simp), foldl_mem (fun s p => by simp)]
    simp

@[simp] theorem State.waitersBack_mem (s : State) (c t p : Nat) (items : List Item) : (s.waitersBack c t p items).mem = s.mem := by
  simp [State.waitersBack]

@[simp] theorem State.jobsBack_mem (s : State) (c t : Nat) (save : Option Nat) : (s.jobsBack c t save).mem = s.mem := by
  simp [State.jobsBack]

@[simp] theorem State.endLoad_mem (s : State) (target : Nat) : (s.endLoad target).mem = s.mem := by
  simp [State.endLoad]

/-! Arrivals and shared registers. -/

@[simp] theorem Ctx.arriveOnce_mem (cx : Ctx) (lvl target i n : Nat) (s : State) : (cx.arriveOnce lvl target i n s).mem = s.mem := by
  unfold Ctx.arriveOnce
  split <;> simp

@[simp] theorem Ctx.setFull_mem (cx : Ctx) (s : State) (a : Operand) (b : Bool) : (cx.setFull s a b).mem = s.mem := by
  simp [Ctx.setFull]

end Sys2Proof.Machine

end

section

namespace Sys2Proof.Machine
open Sys2Proof

/-! Writers of memory (R3, R73). -/

theorem State.write_wf {s : State} {a : Nat} {bs : List Byte} (h : Memory.wf s.mem) : Memory.wf (s.write a bs).mem := sound_write a bs h

theorem State.zeroPhys_wf {s : State} {a n : Nat} (h : Memory.wf s.mem) : Memory.wf (s.zeroPhys a n).mem := sound_zeroPhys a n h

theorem State.writeParts_wf {s : State} {ps : List (Nat × Nat)} {bs : List Byte} (h : Memory.wf s.mem) :
    Memory.wf (s.writeParts ps bs).mem :=
  sound_writeParts ps bs h

theorem State.zeroRange_wf {s : State} {w : Who} {a n : Nat} (h : Memory.wf s.mem) : Memory.wf (s.zeroRange w a n).mem :=
  sound_zeroRange w a n h

theorem State.raise_wf {s : State} {code core : Nat} {part : Option Nat} {info : W64} {detail : W32} (h : Memory.wf s.mem) :
    Memory.wf (s.raise code core part info detail).mem :=
  sound_raise code core part info detail h

theorem foldl_wf {α : Type} {f : State → α → State} (hf : ∀ s a, Memory.wf s.mem → Memory.wf (f s a).mem) {l : List α} {s : State}
    (h : Memory.wf s.mem) : Memory.wf (l.foldl f s).mem :=
  sound_foldl hf l h

theorem State.powerOnReset_wf {s : State} : Memory.wf s.powerOnReset.mem := wf_reset

theorem State.held_wf {s : State} : Memory.wf s.held.mem := wf_reset

/-! Fault records (R88). -/

theorem State.writeRecord_wf {s : State} {r : FaultRecord} (h : Memory.wf s.mem) : Memory.wf (s.writeRecord r).2.mem := by
  unfold State.writeRecord
  dsimp only
  split
  · exact h
  · split
    · simpa using h
    · simpa using writeParts_wf h

theorem State.tellRecord_wf {s : State} {r : FaultRecord} (h : Memory.wf s.mem) : Memory.wf (s.tellRecord r).mem := by
  unfold State.tellRecord
  split
  · exact h
  · exact raise_wf h

theorem State.writeHeld_wf {s : State} {c : Nat} {stuck : List Nat} {left rs : List FaultRecord} (h : Memory.wf s.mem) :
    Memory.wf (s.writeHeld c stuck left rs).mem := by
  induction rs generalizing s stuck left with
  | nil => exact h
  | cons r rs ih =>
    have hw := writeRecord_wf (r := r) h
    unfold State.writeHeld
    split
    · exact ih h
    · split <;> rename_i heq <;> rw [heq] at hw
      · exact ih hw
      · exact ih h
      · exact ih (tellRecord_wf hw)

theorem State.retryRecords_wf {s : State} {c : Nat} (h : Memory.wf s.mem) : Memory.wf (s.retryRecords c).mem := writeHeld_wf h

theorem State.retryAll_wf {s : State} (h : Memory.wf s.mem) : Memory.wf s.retryAll.mem := foldl_wf (fun _ _ => retryRecords_wf) h

theorem State.queueRecord_wf {s : State} {r : FaultRecord} (h : Memory.wf s.mem) : Memory.wf (s.queueRecord r).mem := by
  have hw := writeRecord_wf (r := r) h
  unfold State.queueRecord
  dsimp only
  split
  · exact h
  · split <;> rename_i heq <;> rw [heq] at hw
    · exact hw
    · exact h
    · exact tellRecord_wf hw

theorem State.queueRecords_wf {s : State} {rs : List FaultRecord} (h : Memory.wf s.mem) : Memory.wf (s.queueRecords rs).mem :=
  foldl_wf (fun _ _ => queueRecord_wf) h

/-! Items, teams and their formation (R135-R138). -/

theorem State.discardItem_wf {s : State} {c : Nat} {q : QItem} (h : Memory.wf s.mem) : Memory.wf (s.discardItem c q).mem := by
  unfold State.discardItem
  dsimp only
  split
  · simpa using raise_wf h
  · split
    · simpa using raise_wf h
    · exact raise_wf h

theorem State.findLead_wf {s : State} {c : Nat} {kept qs : List QItem} (h : Memory.wf s.mem) : Memory.wf (s.findLead c kept qs).1.mem := by
  induction qs generalizing s kept with
  | nil => exact h
  | cons q qs ih =>
    unfold State.findLead
    dsimp only
    split
    · exact ih h
    · split
      · exact ih (discardItem_wf (by simpa using h))
      · split
        · simpa using h
        · exact ih (by simpa using h)

theorem State.dropInvalid_wf {s : State} {c p idx : Nat} {kept qs : List QItem} (h : Memory.wf s.mem) :
    Memory.wf (s.dropInvalid c p idx kept qs).1.mem := by
  induction qs generalizing s kept with
  | nil => exact h
  | cons q qs ih =>
    unfold State.dropInvalid
    dsimp only
    split
    · split
      · exact ih (discardItem_wf (by simpa using h))
      · exact ih (by simpa using h)
    · exact ih h

theorem State.zeroLanes_wf {s : State} {c p : Nat} {e : EntryRecord} {base : Nat} {ps : List (QItem × Nat)} (h : Memory.wf s.mem) :
    Memory.wf (s.zeroLanes c p e base ps).mem := by
  unfold State.zeroLanes
  split
  · exact h
  · exact foldl_wf (fun _ _ => zeroRange_wf) h

theorem State.formTeam_wf {s : State} {c : Nat} {lead : QItem} {e : EntryRecord} {ps : List (QItem × Nat)} (h : Memory.wf s.mem) :
    Memory.wf (s.formTeam c lead e ps).mem := by
  refine zeroLanes_wf ?_
  rw [placePositions_mem, setTeam_mem]
  simpa [apply_ite State.mem] using h

theorem State.form_wf {s : State} {c : Nat} (h : Memory.wf s.mem) : Memory.wf (s.form c).mem := by
  have hl := findLead_wf (c := c) (kept := []) (qs := (s.core c).items) h
  unfold State.form
  dsimp only
  split <;> rename_i heq <;> rw [heq] at hl
  · simpa using hl
  · exact formTeam_wf (by simpa using hl)

theorem State.refill_wf {s : State} {c t n : Nat} (h : Memory.wf s.mem) : Memory.wf (s.refill c t n).mem := by
  unfold State.refill
  split
  · exact h
  · rename_i x _
    have hd := dropInvalid_wf (c := c) (p := x.part) (idx := x.entryIdx) (kept := []) (qs := (s.core c).items) h
    dsimp only
    split
    · simpa using hd
    · exact zeroLanes_wf (by simpa using hd)

/-! Ends of partitions, and restarts (R360, R377, R380, R402). -/

theorem State.terminate_wf {s : State} {p : Nat} (h : Memory.wf s.mem) : Memory.wf (s.terminate p).mem := by
  rw [State.terminate, offer_mem]
  exact raise_wf (by simpa using h)

theorem State.launch_wf {s : State} (h : Memory.wf s.mem) : Memory.wf s.launch.mem := by
  unfold State.launch
  dsimp only
  split
  · simpa using h
  · exact raise_wf (by simpa using h)

theorem State.warmRestart_wf {s : State} (h : Memory.wf s.mem) : Memory.wf s.warmRestart.mem := by
  unfold State.warmRestart
  split
  · exact h
  · extract_lets s1 s2 s3 s4 digest e
    have h1 : Memory.wf s1.mem := sound_of_mem (foldl_mem endPartition_mem _ s) h
    have h2 : Memory.wf s2.mem := sound_of_mem (foldl_mem returnBlock_mem _ s1) h1
    clear_value s1 s2
    have h4 : Memory.wf s4.mem := raise_wf (s := s3) h2
    split
    · exact launch_wf h4
    · exact powerOnReset_wf

theorem State.consume_wf {s : State} {sys : Bool} {tag : Nat} (h : Memory.wf s.mem) : Memory.wf (s.consume sys tag).mem := by
  unfold State.consume
  split
  · exact warmRestart_wf h
  · exact terminate_wf h

theorem State.repay_wf {s : State} (h : Memory.wf s.mem) : Memory.wf s.repay.mem := by
  unfold State.repay
  split
  · exact h
  · exact foldl_wf (fun _ _ => consume_wf) h

theorem State.consumeAll_wf {s : State} {sys : Bool} {ts : List Nat} (h : Memory.wf s.mem) : Memory.wf (s.consumeAll sys ts).mem := by
  induction ts generalizing s with
  | nil => exact h
  | cons t ts ih =>
    unfold State.consumeAll
    split
    · exact warmRestart_wf h
    · exact ih (terminate_wf h)

/-! Traps (R354, R358, R359). -/

theorem State.doubleTrap_wf {s : State} {c t : Nat} {cause : Cause} {fault : Nat} {info : W64} (h : Memory.wf s.mem) :
    Memory.wf (s.doubleTrap c t cause fault info).mem :=
  warmRestart_wf (raise_wf h)

theorem State.trapOn_wf {s : State} {c t n : Nat} {cd : Condition} {a : Option W64} (h : Memory.wf s.mem) :
    Memory.wf (s.trapOn c t n cd a).mem := by
  unfold State.trapOn
  split
  · exact h
  · split
    · exact doubleTrap_wf h
    · simpa using h

theorem State.fetchFails_wf {s : State} {c t n : Nat} {x : Team} {p : Splinter} {a : Nat} {f : Fetched} (h : Memory.wf s.mem) :
    Memory.wf (s.fetchFails c t n x p a f).mem := by
  unfold State.fetchFails
  dsimp only
  split
  · exact h
  · split
    · exact doubleTrap_wf h
    · exact queueRecord_wf (by simpa using h)
  · exact trapOn_wf (queueRecord_wf h)
  all_goals
    split
    · exact consume_wf h
    · exact trapOn_wf (consume_wf h)

theorem State.pendAccess_wf {s : State} {w : Who} {t : Nat} {a : Access} {cause : Cause} {m : Mask} {ea : Option W64} (h : Memory.wf s.mem) :
    Memory.wf (s.pendAccess w t a cause m ea).mem := by
  unfold State.pendAccess
  split
  · exact doubleTrap_wf h
  · simpa using h
end Sys2Proof.Machine

end

section

namespace Sys2Proof.Machine
open Sys2Proof

/-! Requests of peers and multicast writes served (R317, R318, R321, R332). -/

theorem State.serveLane_wf {s : State} {m : PeerMsg} {ps : List (Nat × Nat)} {v c : BitVec 64} (h : Memory.wf s.mem) :
    Memory.wf (s.serveLane m ps v c).1.mem := by
  unfold State.serveLane
  dsimp only
  split
  · exact h
  · exact writeParts_wf h
  · exact writeParts_wf h

theorem State.serveLanes_wf {s : State} {m : PeerMsg} {ls : List (PeerLane × List (Nat × Nat))} (h : Memory.wf s.mem) :
    Memory.wf (s.serveLanes m ls).1.mem := by
  induction ls generalizing s with
  | nil => exact h
  | cons l ls ih => exact ih (serveLane_wf h)

theorem State.refusePeer_wf {s : State} {m : PeerMsg} {bad : List PeerLane} (h : Memory.wf s.mem) : Memory.wf (s.refusePeer m bad).mem := by
  unfold State.refusePeer
  split
  · exact h
  · exact raise_wf (by simpa using h)

theorem State.servePeer_wf {s : State} {m : PeerMsg} (h : Memory.wf s.mem) : Memory.wf (s.servePeer m).mem := by
  unfold State.servePeer
  extract_lets ls tags s1 good bad s2
  have h1 : Memory.wf s1.mem := consumeAll_wf h
  have h2 : Memory.wf s2.mem := sound_of_mem (foldl_mem (fun _ _ => fillPeer_mem _ _ _ _) _ _) h1
  have h3 := serveLanes_wf (m := m) (ls := good) h2
  split
  · exact refusePeer_wf h1
  · refine refusePeer_wf ?_
    (repeat' split) <;> simpa using h3

theorem State.memberWrite_wf {s : State} {m : McastMsg} {cells : List (Nat × BitVec 32)} (h : Memory.wf s.mem) :
    Memory.wf (s.memberWrite m cells).1.mem := by
  unfold State.memberWrite
  extract_lets p ts tags ps s1 s2
  have h1 : Memory.wf s1.mem := sound_of_mem (foldl_mem (fun _ _ => fillPeer_mem _ _ _ _) _ _) h
  have h2 : Memory.wf s2.mem := foldl_wf (fun _ _ => writeParts_wf) h1
  split
  · simpa using h2
  · exact raise_wf (consumeAll_wf h)

theorem State.memberTakes_wf {s : State} {m : McastMsg} (h : Memory.wf s.mem) : Memory.wf (s.memberTakes m).1.mem := by
  unfold State.memberTakes
  dsimp only
  split
  · exact h
  · exact memberWrite_wf h

theorem State.replicate_wf {s : State} {m : McastMsg} (h : Memory.wf s.mem) : Memory.wf (s.replicate m).mem := by
  unfold State.replicate
  extract_lets own key s1 s2
  have h1 : Memory.wf s1.mem := by simpa [s1] using h
  have h2 : Memory.wf s2.mem := sound_of_mem (foldl_mem (fun _ _ => send_mem _ _) _ _) h1
  have ht := memberTakes_wf (m := m) h2
  split
  · simpa using h1
  · split
    · exact h2
    · split <;> rename_i heq <;> rw [heq] at ht
      · exact ht
      · simpa using ht

/-! Accesses performed (R69-R78, R87, R95). -/

theorem State.holdBytes_mem {s t : State} {w : Who} {a : Access} {l id pa : Nat} {bs : List Byte} (h : s.holdBytes w a l id pa bs = some t) :
    t.mem = s.mem := by
  unfold State.holdBytes at h
  dsimp only at h
  split at h
  · cases h; rfl
  · split at h
    · cases h; rfl
    · cases h

theorem State.holdParts_mem {s t : State} {w : Who} {a : Access} {l id : Nat} {ps : List (Nat × Nat)} {bs : List Byte}
    (h : s.holdParts w a l id ps bs = some t) : t.mem = s.mem := by
  induction ps generalizing s bs with
  | nil => cases h; rfl
  | cons p ps ih =>
    unfold State.holdParts at h
    split at h
    · cases h
    · rename_i hb
      rw [ih h, holdBytes_mem hb]

theorem State.storeParts_wf {s : State} {w : Who} {ps : List (Nat × Nat)} {bs : List Byte} (h : Memory.wf s.mem) :
    Memory.wf (s.storeParts w ps bs).mem := by
  induction ps generalizing s bs with
  | nil => exact h
  | cons p ps ih => exact ih (by simpa using write_wf h)

theorem State.performLane_wf {s u : State} {w : Who} {t : Nat} {a : Access} {l : Nat} {ps : List (Nat × Nat)}
    (hp : s.performLane w t a l ps = some u) (h : Memory.wf s.mem) : Memory.wf u.mem := by
  unfold State.performLane at hp
  dsimp only at hp
  split at hp
  case h_3 =>
    split at hp
    · exact sound_of_mem (holdParts_mem hp) h
    · cases hp
      exact storeParts_wf h
  case h_4 =>
    cases hp
    exact storeParts_wf h
  case h_5 =>
    cases hp
    exact storeParts_wf (by simpa using h)
  all_goals
    cases hp
    simpa using h

theorem State.performLanes_wf {s : State} {w : Who} {t : Nat} {a : Access} {ls : List (Nat × Fate)} (h : Memory.wf s.mem) :
    Memory.wf (s.performLanes w t a ls).1.mem := by
  induction ls generalizing s with
  | nil => exact h
  | cons l ls ih =>
    unfold State.performLanes
    split
    · exact ih h
    · split
      · exact h
      · exact ih (performLane_wf ‹_› h)

theorem State.sendMcast_wf {s : State} {w : Who} {t : Nat} {a : Access} (h : Memory.wf s.mem) : Memory.wf (s.sendMcast w t a).mem := by
  unfold State.sendMcast
  extract_lets grp g own ms cols tag runs flits x s1 s2
  have h2 : Memory.wf s2.mem := foldl_wf (fun s c hs => sound_of_mem (foldl_mem (fun _ _ => send_mem _ _) _ _) hs) h
  split
  · exact foldl_wf (fun _ _ => replicate_wf) h2
  · exact h2

theorem State.poisonedStore_wf {s : State} {w : Who} {t : Nat} {a : Access} {os : List (Nat × Origin)} {pending : Bool}
    (h : Memory.wf s.mem) : Memory.wf (s.poisonedStore w t a os pending).mem := by
  unfold State.poisonedStore
  extract_lets s1 s2 s3 tags s4 m l
  have h3 : Memory.wf s3.mem := by simpa [s3, s2, s1] using h
  have h4 : Memory.wf s4.mem := consumeAll_wf h3
  split
  · exact h4
  · exact pendAccess_wf h4

theorem State.dropMcast_wf {s : State} {w : Who} {t : Nat} {a : Access} {cause : Cause} {ea : Option W64} {pending : Bool}
    (h : Memory.wf s.mem) : Memory.wf (s.dropMcast w t a cause ea pending).mem :=
  pendAccess_wf (by simpa using h)

theorem State.parkAccess_wf {s : State} {w : Who} {t : Nat} {a : Access} {entry : Option Nat} {ls : List (Nat × FaultCause)}
    (h : Memory.wf s.mem) : Memory.wf (s.parkAccess w t a entry ls).mem := by
  unfold State.parkAccess
  exact queueRecords_wf h

theorem State.passAccess_wf {s : State} {w : Who} {t : Nat} {a : Access} {entry : Option Nat} {pending : Bool} (h : Memory.wf s.mem) :
    Memory.wf (s.passAccess w t a entry pending).s.mem := by
  unfold State.passAccess
  extract_lets os fs faults e tags s1 s2 ls refused badLanes s3 s4 s5 s6
  have h1 : Memory.wf s1.mem := sound_of_mem (foldl_mem (fun s l => foldl_mem (fun _ _ => fillSpot_mem _ _ _ _) _ s) _ _) h
  have h2 : Memory.wf s2.mem := consumeAll_wf h1
  have h3 : Memory.wf s3.mem := queueRecords_wf h2
  have h4 : Memory.wf s4.mem := sound_of_mem (foldl_mem (fun s e => by split <;> simp) _ _) h3
  have h6 : Memory.wf s6.mem := by simpa [s6, s5] using h4
  have hp := performLanes_wf (w := w) (t := t) (a := a) (ls := ls) h6
  clear_value s1 s2 s3 s4 s5 s6
  split
  · exact poisonedStore_wf h
  split
  · dsimp only
    split
    · exact dropMcast_wf h
    split
    · exact dropMcast_wf h
    · simpa using sendMcast_wf h
  split
  · exact doubleTrap_wf h
  split
  · exact h
  split
  · exact h2
  split
  rename_i s7 done sat heq
  rw [heq] at hp
  extract_lets s8 s9 settled a' stuck s10 s11 s12 s13
  have h9 : Memory.wf s9.mem := by simpa [s9, s8] using hp
  have h10 : Memory.wf s10.mem := by
    unfold s10
    split
    · split
      · simpa using h9
      · exact h9
    · exact parkAccess_wf h9
  have h11 : Memory.wf s11.mem := by simpa [s11] using h10
  have h12 : Memory.wf s12.mem := by
    unfold s12
    split
    · exact pendAccess_wf h11
    · exact h11
  unfold s13
  split
  · simpa using h12
  · exact h12
end Sys2Proof.Machine

end

section

namespace Sys2Proof.Machine
open Sys2Proof

/-! The queue of accesses that wait (R69, R108). -/

theorem State.runQueued_wf {s : State} {c t : Nat} {w : Who} {a : Access} (h : Memory.wf s.mem) : Memory.wf (s.runQueued c t w a).mem := by
  unfold State.runQueued
  extract_lets drop s0 os m s1 s2 r
  have hdrop : Memory.wf (drop s).mem := by simpa [drop] using h
  have hr : Memory.wf r.s.mem := passAccess_wf hdrop
  split
  · split
    · simpa using hdrop
    · exact hdrop
  · split
    · exact pendAccess_wf (by simpa [s2, s1] using hdrop)
    · split
      · exact hr
      · simpa using hr

theorem State.drainList_wf {s : State} {c t : Nat} {as : List Access} (h : Memory.wf s.mem) : Memory.wf (s.drainList c t as).mem := by
  induction as generalizing s with
  | nil => exact h
  | cons a as ih =>
    unfold State.drainList
    split
    · exact h
    · dsimp only
      split
      · exact ih h
      · split
        · exact ih (runQueued_wf h)
        · exact ih h

theorem State.drain_wf {s : State} {c t : Nat} (h : Memory.wf s.mem) : Memory.wf (s.drain c t).mem := by
  unfold State.drain
  split
  · exact h
  · simpa using drainList_wf h

theorem State.drainCore_wf {s : State} {c : Nat} (h : Memory.wf s.mem) : Memory.wf (s.drainCore c).mem :=
  foldl_wf (fun _ _ => drain_wf) h

theorem State.resolveSym_wf {s : State} {c n : Nat} (h : Memory.wf s.mem) : Memory.wf (s.resolveSym c n).mem := by
  unfold State.resolveSym
  split
  · exact h
  · dsimp only
    split
    · exact h
    · rw [sweep_mem]
      refine drain_wf ?_
      rw [onCore_mem]
      split
      · exact h
      · simpa using h

/-! Answers of peers (R318, R327). -/

theorem State.refuseLanes_wf {s : State} {w : Who} {x : Transaction} {ls : List Nat} (h : Memory.wf s.mem) :
    Memory.wf (s.refuseLanes w x ls).mem := by
  unfold State.refuseLanes
  split
  · exact h
  · extract_lets a m s1 s2 s3
    have h1 : Memory.wf s1.mem := queueRecords_wf h
    have h3 : Memory.wf s3.mem := by simpa [s3, s2] using h1
    split
    · exact pendAccess_wf h3
    · exact h3

theorem State.peerAnswers_wf {s : State} {x : Transaction} {lines : SMap (List Byte)} {good bad : List Nat} {vals : List (Nat × BitVec 64)}
    (h : Memory.wf s.mem) : Memory.wf (s.peerAnswers x lines good bad vals).mem := by
  unfold State.peerAnswers
  extract_lets w good bad s1 s2 shared done tell s3 all lost won s4 s5
  have h3 : Memory.wf s3.mem := by simpa [s3, s2, s1] using h
  have h4 : Memory.wf s4.mem := by
    unfold s4
    split
    · exact sound_of_mem (foldl_mem (fun _ _ => deliver_mem _ _ _ _ _ _ _) _ _) h3
    · simpa using h3
  have h5 : Memory.wf s5.mem := refuseLanes_wf h4
  exact drain_wf (by simpa using h5)

theorem State.refuseTx_wf {s : State} {x : Transaction} (h : Memory.wf s.mem) : Memory.wf (s.refuseTx x).mem := by
  unfold State.refuseTx
  split
  · simpa using h
  · exact peerAnswers_wf h

theorem State.answerTx_wf {s : State} {x : Transaction} {vals : List (Nat × BitVec 64)} (h : Memory.wf s.mem) :
    Memory.wf (s.answerTx x vals).mem := by
  unfold State.answerTx
  dsimp only
  split
  · split
    · simpa using h
    · exact peerAnswers_wf h
  · exact peerAnswers_wf h

theorem State.finishMcasts_wf {s : State} (h : Memory.wf s.mem) : Memory.wf s.finishMcasts.mem :=
  foldl_wf (fun _ _ hs => drain_wf (by simpa using hs)) h

theorem State.expireMcast_wf {s : State} {x : Transaction} (h : Memory.wf s.mem) : Memory.wf (s.expireMcast x).mem := by
  unfold State.expireMcast
  extract_lets key s1 end_
  have h1 : Memory.wf s1.mem := sound_of_mem (foldl_mem (fun _ _ => memberAnswer_mem _ _ _ _) _ _) h
  exact finishMcasts_wf h1

theorem State.multicast_wf {s : State} {m : McastMsg} (h : Memory.wf s.mem) : Memory.wf (s.multicast m).mem := by
  have ht := memberTakes_wf (m := m) h
  unfold State.multicast
  split
  · exact finishMcasts_wf (replicate_wf h)
  · dsimp only
    split <;> rename_i heq <;> rw [heq] at ht
    · exact ht
    · simpa using ht

/-! Releases of ordered positions (R38, R98). -/

theorem State.finishRelease_wf {s : State} {id : Nat} (h : Memory.wf s.mem) : Memory.wf (s.finishRelease id).mem := by
  unfold State.finishRelease
  split
  · exact h
  · split
    · exact h
    · split
      · simpa using h
      · exact drainCore_wf (by simpa using h)

theorem State.performLine_wf {s : State} {c t : Nat} {e : OsEntry} (h : Memory.wf s.mem) : Memory.wf (s.performLine c t e).mem := by
  unfold State.performLine
  split
  · simpa using h
  · rw [clearWhole_mem]
    exact foldl_wf (fun s b hs => by simpa using write_wf hs) h

theorem State.performRelease_wf {s : State} {q : Position} (h : Memory.wf s.mem) : Memory.wf (s.performRelease q).mem := by
  unfold State.performRelease
  refine finishRelease_wf ?_
  split
  · simpa using h
  · rw [onCore_mem]
    exact foldl_wf (fun _ _ => performLine_wf) (by simpa using h)

theorem State.lineAnswered_wf {s : State} {x : Transaction} {ok : Bool} (h : Memory.wf s.mem) : Memory.wf (s.lineAnswered x ok).mem := by
  unfold State.lineAnswered
  refine finishRelease_wf ?_
  split
  · simpa using h
  · exact refuseLanes_wf (by simpa using h)

/-! Engines: their writes and what they meet (R87, R102, R289). -/

theorem State.engineTrouble_wf {s : State} {w : Who} {r : FaultRecord} {st : Stall} {a : Nat} {t : Trouble} (h : Memory.wf s.mem) :
    Memory.wf (s.engineTrouble w r st a t).1.mem := by
  cases t with
  | fault c => exact queueRecord_wf h
  | form => exact h
  | table t => exact consume_wf h

theorem State.engineWrite_wf {s : State} {w : Who} {pa : Nat} {bs : List Byte} (h : Memory.wf s.mem) :
    Memory.wf (s.engineWrite w pa bs).mem := by
  simpa [State.engineWrite] using write_wf h

theorem State.putSegs_wf {s : State} {w : Who} {pa : Nat} {gs : List Seg} (h : Memory.wf s.mem) : Memory.wf (s.putSegs w pa gs).mem := by
  have parts (gs : List Seg) (r : State × Nat) (hr : Memory.wf r.1.mem) : Memory.wf (gs.foldl (fun (r : State × Nat) g => match g.data with
      | some d => (r.1.engineWrite w r.2 d, r.2 + g.n)
      | none => (r.1, r.2 + g.n)) r).1.mem := by
    induction gs generalizing r with
    | nil => exact hr
    | cons g gs ih =>
      refine ih _ ?_
      dsimp only
      split
      · exact engineWrite_wf hr
      · exact hr
  unfold State.putSegs
  split
  · exact h
  · extract_lets s1
    have h1 : Memory.wf s1.mem := by
      unfold s1
      split
      · exact engineWrite_wf h
      · exact parts _ _ h
    split
    · simpa using h1
    · exact h1

theorem State.writePieces_wf {s : State} {w : Who} {ps : List Piece} {gs : List Seg} (h : Memory.wf s.mem) :
    Memory.wf (s.writePieces w ps gs).mem := by
  induction ps generalizing s gs with
  | nil => exact h
  | cons p ps ih =>
    cases p with
    | here pa n => exact ih (putSegs_wf h)
    | skip n => exact ih h

theorem State.transfer_wf {s u : State} {w : Who} {bad : List Nat} {src dst n e : Nat} (ht : s.transfer w bad src dst n = .ok (u, e))
    (h : Memory.wf s.mem) : Memory.wf u.mem := by
  unfold State.transfer at ht
  split at ht
  · cases ht
  · split at ht
    · cases ht
    · cases ht
      exact writePieces_wf h
end Sys2Proof.Machine

end

section

namespace Sys2Proof.Machine
open Sys2Proof

/-! Copy commands (R289-R291). -/

theorem State.copyTrouble_wf {s : State} {n i : Nat} {x : CopyCmd} {a : Nat} {k : AccessKind} {t : Trouble} (h : Memory.wf s.mem) :
    Memory.wf (s.copyTrouble n i x a k t).mem :=
  engineTrouble_wf (by simpa using h)

theorem State.element_go_wf {s u : State} {x : CopyCmd} {next : W64} {e : Nat} (hg : s.element x = .go u next e) (h : Memory.wf s.mem) :
    Memory.wf u.mem := by
  unfold State.element at hg
  dsimp only at hg
  split at hg
  · cases hg
  · cases hg
  · cases hg
  · split at hg
    · cases hg
    · split at hg
      · cases hg
      · cases hg
      · cases hg; exact h
      · split at hg
        · cases hg
        · rename_i ht
          cases hg
          exact transfer_wf ht h

theorem State.runChain_wf {s : State} {n i : Nat} {x : CopyCmd} {f : Nat} (h : Memory.wf s.mem) : Memory.wf (s.runChain n i x f).mem := by
  induction f generalizing s x with
  | zero => simpa [State.runChain] using h
  | succ f ih =>
    unfold State.runChain
    split
    · simpa using h
    · split
      · simpa using h
      · split
        · simpa using h
        · exact copyTrouble_wf h
        · rename_i hg
          exact ih (element_go_wf hg h)

/-! Pull transfers (R294-R308). -/

theorem State.overUe_wf {s : State} {c p : Nat} {u : UeFrom} {k : State → Nat → State}
    (hk : ∀ s i, Memory.wf s.mem → Memory.wf (k s i).mem) (h : Memory.wf s.mem) : Memory.wf (s.overUe c p u k).mem := by
  unfold State.overUe
  dsimp only
  split
  · split
    · exact hk _ _ (by simpa using h)
    · exact h
  · split
    · exact raise_wf (by simpa using h)
    · exact h

theorem State.overPath_wf {s : State} {c p : Nat} {ue : Bool} {u : Option UeFrom} {k : State → State}
    (hk : ∀ s, Memory.wf s.mem → Memory.wf (k s).mem) (h : Memory.wf s.mem) : Memory.wf (s.overPath c p ue u k).mem := by
  unfold State.overPath
  split
  · split
    · exact h
    · exact hk _ h
  · refine overUe_wf (fun s i hs => ?_) h
    split
    · exact hk _ hs
    · exact hs

theorem State.fullPosted_wf {s : State} {c hd : Nat} (h : Memory.wf s.mem) : Memory.wf (s.fullPosted c hd).mem := by
  unfold State.fullPosted
  extract_lets x full s1 refused
  have h1 : Memory.wf s1.mem := by simpa [s1] using h
  have hrefused : Memory.wf refused.mem := by simpa [refused, full] using raise_wf h1
  split
  · simpa [full] using h
  · split
    · exact hrefused
    · split
      · simpa [full] using h1
      · dsimp only
        split
        · simpa [full] using h1
        · exact hrefused

theorem State.cancelPost_wf {s : State} {c hd : Nat} (h : Memory.wf s.mem) : Memory.wf (s.cancelPost c hd).mem := by
  unfold State.cancelPost
  extract_lets p gone s1 s2
  have h1 : Memory.wf s1.mem := sound_of_mem (foldl_mem (fun _ _ => sendVia_mem _ _ _ _ _) _ _) h
  exact fullPosted_wf (by simpa [s2] using h1)

theorem State.completePull_wf {s : State} {p : Nat} {r : PullEntry} (h : Memory.wf s.mem) : Memory.wf (s.completePull p r).mem := by
  unfold State.completePull
  dsimp only
  split
  · simpa using h
  · split
    · exact fullPosted_wf (by simpa using h)
    · simpa using h

theorem State.settlePull_wf {s : State} {p id : Nat} (h : Memory.wf s.mem) : Memory.wf (s.settlePull p id).mem := by
  unfold State.settlePull
  split
  · exact h
  · split
    · exact completePull_wf h
    · exact h

theorem State.putBeat_wf {s : State} {p id : Nat} {b : StalledBeat} {f : Nat} (h : Memory.wf s.mem) : Memory.wf (s.putBeat p id b f).mem := by
  induction f generalizing s with
  | zero => exact h
  | succ f ih =>
    unfold State.putBeat
    split
    · exact h
    · extract_lets w a
      split
      · simpa using writePieces_wf h
      · extract_lets again
        split
        · simpa using h
        · dsimp only
          split
          · simpa using engineTrouble_wf h
          · exact ih (by simpa using engineTrouble_wf h)

theorem State.retryBeats_wf {s : State} {p id : Nat} (h : Memory.wf s.mem) : Memory.wf (s.retryBeats p id).mem := by
  unfold State.retryBeats
  split
  · exact h
  · exact settlePull_wf (foldl_wf (fun _ _ => putBeat_wf) (by simpa using h))

theorem State.announce_wf {s : State} {a : Announcement} {f : Nat} (h : Memory.wf s.mem) : Memory.wf (s.announce a f).mem := by
  unfold State.announce
  exact settlePull_wf (foldl_wf (fun _ _ => putBeat_wf) h)

theorem State.announced_wf {s : State} {a : Announcement} {f : Nat} (h : Memory.wf s.mem) : Memory.wf (s.announced a f).mem := by
  unfold State.announced
  split
  · exact announce_wf h
  · exact raise_wf (by simpa using h)

theorem State.beatArrives_wf {s : State} {p : Nat} {r : PullEntry} {b : StalledBeat} (h : Memory.wf s.mem) :
    Memory.wf (s.beatArrives p r b).mem := by
  unfold State.beatArrives
  dsimp only
  split
  · simpa using h
  · exact settlePull_wf (putBeat_wf (by simpa using h))

theorem State.sendTrouble_wf {s : State} {c hd a : Nat} {t : Trouble} (h : Memory.wf s.mem) : Memory.wf (s.sendTrouble c hd a t).mem := by
  unfold State.sendTrouble
  simpa using engineTrouble_wf h

theorem State.pump_wf {s : State} {c hd f : Nat} (h : Memory.wf s.mem) : Memory.wf (s.pump c hd f).mem := by
  induction f generalizing s with
  | zero => exact h
  | succ f ih =>
    unfold State.pump
    extract_lets x k own w
    split
    · exact h
    · split
      · split
        · exact ih (sendTrouble_wf h)
        · exact ih (by simpa using h)
      · split
        · exact h
        · extract_lets m left
          split
          · exact ih (sendTrouble_wf h)
          · refine ih ?_
            rw [onHandle_mem]
            exact sound_of_mem (foldl_mem (fun _ _ => sendFor_mem _ _ _) _ _) h

theorem State.pumpAll_wf {s : State} {c hd : Nat} (h : Memory.wf s.mem) : Memory.wf (s.pumpAll c hd).mem := pump_wf h

/-! Sampler jobs (R337). -/

theorem State.jobTrouble_wf {s : State} {n : Nat} {x : SamplerJob} {done : Option JobResult} {a : Nat} {k : AccessKind} {t : Trouble}
    (h : Memory.wf s.mem) : Memory.wf (s.jobTrouble n x done a k t).mem := by
  unfold State.jobTrouble
  simpa using engineTrouble_wf h

theorem State.jobWrite_wf {s : State} {x : SamplerJob} {p : Nat × List Byte} (h : Memory.wf s.mem) : Memory.wf (s.jobWrite x p).mem := by
  unfold State.jobWrite
  split
  · exact writePieces_wf h
  · exact h

theorem State.runJob_wf {s : State} {n : Nat} {x : SamplerJob} (h : Memory.wf s.mem) : Memory.wf (s.runJob n x).mem := by
  unfold State.runJob
  split
  · exact jobTrouble_wf h
  · split
    · simpa using h
    · split
      · exact jobTrouble_wf h
      · split
        · simpa using h
        · rw [endJob_mem]
          exact foldl_wf (fun _ _ => jobWrite_wf) h

/-! Tensor operations (R276, R279). -/

theorem State.opTrouble_wf {s : State} {c : Nat} {o : TensorOp} {a : Nat} {k : AccessKind} {t : Trouble} (h : Memory.wf s.mem) :
    Memory.wf (s.opTrouble c o a k t).mem := by
  unfold State.opTrouble
  simpa using engineTrouble_wf h

theorem State.finishTload_wf {s : State} {c i : Nat} {o : TensorOp} {n hd : Nat} (h : Memory.wf s.mem) :
    Memory.wf (s.finishTload c i o n hd).mem := by
  unfold State.finishTload
  dsimp only
  split
  · exact opTrouble_wf h
  · simpa using h

theorem State.finishLd_wf {s : State} {c i : Nat} {o : TensorOp} {acc : Nat} {addr : W64} {lock : Nat} (h : Memory.wf s.mem) :
    Memory.wf (s.finishLd c i o acc addr lock).mem := by
  unfold State.finishLd
  split
  · exact opTrouble_wf h
  · simpa using h

theorem State.finishSt_wf {s : State} {c i : Nat} {o : TensorOp} {acc : Nat} {addr : W64} {lock : Nat} (h : Memory.wf s.mem) :
    Memory.wf (s.finishSt c i o acc addr lock).mem := by
  unfold State.finishSt
  dsimp only
  split
  · simpa using h
  · split
    · exact opTrouble_wf h
    · simpa using writePieces_wf h

theorem State.runOp_wf {s : State} {c i : Nat} {o : TensorOp} (h : Memory.wf s.mem) : Memory.wf (s.runOp c i o).mem := by
  unfold State.runOp
  split
  · exact finishTload_wf h
  · simpa using h
  · simpa using h
  · exact finishLd_wf h
  · exact finishSt_wf h
end Sys2Proof.Machine

end

section

namespace Sys2Proof.Machine
open Sys2Proof

/-! Control registers and answers to faults (R364, R374, R375). -/

theorem State.ctlSet_wf {s : State} {c t : Nat} {v : W64} {r : Ctl} (h : Memory.wf s.mem) : Memory.wf (s.ctlSet c t v r).mem := by
  unfold State.ctlSet
  split
  case h_9 | h_10 => exact retryAll_wf (by simpa using h)
  all_goals simpa using h

theorem State.ctlWrite_wf {s : State} {c t : Nat} {v : W64} {r : Ctl} (h : Memory.wf s.mem) : Memory.wf (s.ctlWrite c t r v).mem := by
  unfold State.ctlWrite
  split
  · exact h
  · exact ctlSet_wf h

theorem State.replay_wf {s : State} {c i : Nat} {e : Parked} {m : Mask} (h : Memory.wf s.mem) : Memory.wf (s.replay c i e m).mem := by
  unfold State.replay
  split
  · exact h
  · extract_lets a rest s1 r s2
    have h1 : Memory.wf s1.mem := by
      unfold s1
      split
      · exact h
      · simpa using h
    have hr : Memory.wf r.s.mem := passAccess_wf h1
    have h2 : Memory.wf s2.mem := by
      unfold s2
      split
      · exact hr
      · simpa using hr
    split
    · exact h2
    · simpa using h2

theorem State.poisonParked_wf {s : State} {c i : Nat} {e : Parked} {m : Mask} (h : Memory.wf s.mem) :
    Memory.wf (s.poisonParked c i e m).mem := by
  unfold State.poisonParked
  split
  · exact h
  · extract_lets a w s1 s2 a' s3 s4
    have h3 : Memory.wf s3.mem := by simpa [s3, s2, s1] using h
    have h4 : Memory.wf s4.mem := by
      unfold s4
      split
      · exact pendAccess_wf h3
      · exact h3
    split
    · simpa using h4
    · exact h4

theorem State.answerAccess_wf {s : State} {c i gen : Nat} {m : Mask} {poison : Bool} (h : Memory.wf s.mem) :
    Memory.wf (s.answerAccess c i gen m poison).1.mem := by
  unfold State.answerAccess
  dsimp only
  split
  · exact h
  · split
    · exact h
    · refine drainCore_wf ?_
      split
      · exact poisonParked_wf h
      · exact replay_wf h

@[simp] theorem State.answerFetch_mem (s : State) (c t p : Nat) (poison : Bool) : (s.answerFetch c t p poison).1.mem = s.mem := by
  unfold State.answerFetch
  split
  · rfl
  · dsimp only
    split
    · rfl
    · split
      · rfl
      · split
        · rfl
        · split
          · simp
          · split <;> simp

theorem State.answerEngine_wf {s : State} {c i : Nat} {lk poison : Bool} (h : Memory.wf s.mem) :
    Memory.wf (s.answerEngine c i lk poison).1.mem := by
  unfold State.answerEngine
  dsimp only
  iterate 4 (split; · simpa using h)
  · split
    · exact pumpAll_wf (by simpa using h)
    · split
      · exact h
      · exact retryBeats_wf (by simpa using h)

theorem State.answerFault_wf {s : State} {w4 w5 : Nat} {poison : Bool} (h : Memory.wf s.mem) : Memory.wf (s.answerFault w4 w5 poison).1.mem := by
  unfold State.answerFault
  dsimp only
  split
  · exact h
  · split
    · exact answerAccess_wf h
    · split
      · simpa using h
      · split
        · exact answerEngine_wf h
        · exact h

@[simp] theorem State.setParked_mem (s : State) (v : W64) (park : Bool) : (s.setParked v park).1.mem = s.mem := by
  unfold State.setParked
  split
  · rfl
  · split
    · rfl
    · split <;> simp

/-! Energy windows and the passage of time (R399, R404-R406). -/

theorem State.openWindow_wf {s : State} {p : Nat} {refused : Bool} {e : PartEntry} (h : Memory.wf s.mem) :
    Memory.wf (s.openWindow p refused e).mem := by
  unfold State.openWindow
  refine write_wf ?_
  split
  · exact raise_wf (by simpa using h)
  · simpa using h

theorem State.openWindows_wf {s : State} (h : Memory.wf s.mem) : Memory.wf s.openWindows.mem := foldl_wf (fun _ _ => openWindow_wf) h

theorem State.millisecond_wf {s : State} (h : Memory.wf s.mem) : Memory.wf s.millisecond.mem := by
  unfold State.millisecond
  split
  · exact h
  · refine retryAll_wf ?_
    split
    · exact openWindows_wf h
    · exact h

theorem State.milliseconds_wf {s : State} {n : Nat} (h : Memory.wf s.mem) : Memory.wf (State.milliseconds n s).mem := by
  induction n generalizing s with
  | zero => exact h
  | succ n ih => exact ih (millisecond_wf h)

theorem State.pass_wf {s : State} {n : Nat} (h : Memory.wf s.mem) : Memory.wf (s.pass n).mem := by
  unfold State.pass
  split
  · exact h
  · exact milliseconds_wf h

/-! Boot (R400-R402). -/

theorem State.startStageOne_wf {s : State} {base : Nat} (h : Memory.wf s.mem) : Memory.wf (s.startStageOne base).mem := by
  unfold State.startStageOne
  dsimp only
  rw [logImage_mem, setTeam_mem, raisePort_mem]
  exact write_wf h

theorem State.setTag_wf {s : State} {n tag : Nat} (h : Memory.wf s.mem) : Memory.wf (s.setTag n tag).mem := write_wf h

theorem State.firstTags_wf {s : State} (h : Memory.wf s.mem) : Memory.wf s.firstTags.mem := foldl_wf (fun _ _ => setTag_wf) (write_wf h)

theorem State.startFirmware_wf {s : State} {image : List Byte} (h : Memory.wf s.mem) : Memory.wf (s.startFirmware image).mem := by
  unfold State.startFirmware
  refine launch_wf (firstTags_wf ?_)
  rw [logImage_mem]
  exact write_wf h

/-! Links (R311-R316). -/

theorem State.dropLink_wf {s : State} {n : Nat} (h : Memory.wf s.mem) : Memory.wf (s.dropLink n).mem := raise_wf (by simpa using h)

theorem State.passOn_wf {s : State} {n : Nat} {f : Flit} {plain : List Byte} (h : Memory.wf s.mem) : Memory.wf (s.passOn n f plain).mem := by
  unfold State.passOn
  dsimp only
  split
  · exact h
  · split
    · exact raise_wf h
    · simpa using h

theorem State.discardFlit_wf {s : State} {n : Nat} (h : Memory.wf s.mem) : Memory.wf (s.discardFlit n).mem := by
  unfold State.discardFlit
  dsimp only
  split
  · exact dropLink_wf (by simpa using h)
  · simpa using h

/-! Saves and loads (R395-R398). -/

theorem State.removePart_wf {s : State} {p : Nat} (h : Memory.wf s.mem) : Memory.wf (s.removePart p).mem := by
  unfold State.removePart
  extract_lets bars cores s1 s2 s3
  have h1 : Memory.wf s1.mem := sound_of_mem (foldl_mem (fun _ _ => removeTeam_mem _ _ _) _ _) h
  have h3 : Memory.wf s3.mem := sound_of_mem (foldl_mem (fun _ _ => setBar_mem _ _ _ _ _) _ s2) h1
  exact foldl_wf (fun _ _ => drainCore_wf) (by simpa using h3)

theorem State.placeGroup_mem {s t : State} {p : Nat} {g : Nat × Nat × ShareGroup} (h : s.placeGroup p g = some t) : t.mem = s.mem := by
  unfold State.placeGroup at h
  dsimp only at h
  split at h
  · cases h
  · split at h
    · cases h
    · cases h; rfl

theorem State.placeBar_mem {s t : State} {p : Nat} {b : Nat × Nat × Nat × Barrier} (h : s.placeBar p b = some t) : t.mem = s.mem := by
  unfold State.placeBar at h
  dsimp only at h
  split at h
  · cases h
  · cases h; simp

theorem State.placeClaims_mem {s t : State} {c n : Nat} {kept : SMap Claim} {ts : List (Nat × AreaTile)}
    (h : s.placeClaims c n kept ts = some t) : t.mem = s.mem := by
  induction ts generalizing s with
  | nil => cases h; rfl
  | cons z ts ih =>
    unfold State.placeClaims at h
    split at h
    · cases h
    · split at h
      · cases h
      · exact (ih h).trans rfl

theorem State.placeStores_mem {s t : State} {c : Nat} {es : List OsEntry} (h : s.placeStores c es = some t) : t.mem = s.mem := by
  induction es generalizing s with
  | nil => cases h; rfl
  | cons e es ih =>
    unfold State.placeStores at h
    extract_lets id at h
    split at h
    · cases h
    · exact (ih h).trans rfl

theorem State.placeItems_mem {s t : State} {c n p : Nat} {is : List Item} (h : s.placeItems c n p is = some t) : t.mem = s.mem := by
  induction is generalizing s with
  | nil => cases h; rfl
  | cons i is ih =>
    unfold State.placeItems at h
    split at h
    · exact ih h
    · split at h
      · cases h
      · rw [ih h, onPosition_mem]

theorem State.rejoin_mem {s t : State} {c u n : Nat} {exact : Bool} {qs : List (FlowRecord × Position)}
    (h : s.rejoin c u n exact qs = some t) : t.mem = s.mem := by
  induction qs generalizing s with
  | nil => cases h; rfl
  | cons q qs ih =>
    unfold State.rejoin at h
    dsimp only at h
    split at h
    · rw [ih h, onPosition_mem]
    · split at h
      · cases h
      · split at h
        · cases h
        · rename_i hp
          rw [ih h, placeStores_mem hp, onPosition_mem]

theorem State.placeOps_mem {s t : State} {c n : Nat} {a : Area} {os : List (AreaOp × List Nat)} (h : s.placeOps c n a os = some t) :
    t.mem = s.mem := by
  induction os generalizing s with
  | nil => cases h; rfl
  | cons o os ih =>
    unfold State.placeOps at h
    split at h
    · cases h
    · dsimp only at h
      split at h
      · cases h
      · split at h
        case h_3 => exact (ih h).trans rfl
        all_goals
          split at h
          · exact (ih h).trans rfl
          · split at h
            · exact (ih h).trans rfl
            · cases h

theorem State.retryParked_wf {s : State} {c t : Nat} {w : Who} {a : Access} (h : Memory.wf s.mem) : Memory.wf (s.retryParked c t w a).mem := by
  unfold State.retryParked
  split
  · exact h
  · have hr := passAccess_wf (w := w) (t := t) (a := a) (entry := none) (pending := true) h
    dsimp only
    split
    · exact hr
    · simpa using hr

theorem placeAll_wf {α : Type} {f : State → α → Option State} (hf : ∀ s a t, f s a = some t → Memory.wf s.mem → Memory.wf t.mem)
    {as : List α} {s t : State} (h : placeAll f s as = some t) (hs : Memory.wf s.mem) : Memory.wf t.mem := by
  induction as generalizing s with
  | nil => cases h; exact hs
  | cons a as ih =>
    unfold placeAll at h
    split at h
    · cases h
    · rename_i ha
      exact ih h (hf _ _ _ ha hs)

@[simp] theorem State.numberRequests_mem (s : State) (rs : List PullEntry) : (s.numberRequests rs).1.mem = s.mem := by
  unfold State.numberRequests
  exact foldl_fst_mem (fun _ _ => by rfl) rs (s, [])

theorem State.placeArea_wf {s t : State} {c : Nat} {a : Area} {e : EntryRecord} (hp : s.placeArea c a e = some t) (h : Memory.wf s.mem) :
    Memory.wf t.mem := by
  unfold State.placeArea at hp
  extract_lets k p ids phys at hp
  obtain ⟨n, -, hp⟩ := Option.bind_eq_some_iff.mp hp
  obtain ⟨reserve, -, hp⟩ := Option.bind_eq_some_iff.mp hp
  rcases ite_eq_iff.mp hp with ⟨-, hp⟩ | ⟨-, hp⟩
  · cases hp
  · extract_lets at hp
    obtain ⟨s1, h1, hp⟩ := Option.bind_eq_some_iff.mp hp
    obtain ⟨s2, h2, hp⟩ := Option.bind_eq_some_iff.mp hp
    obtain ⟨s3, h3, hp⟩ := Option.bind_eq_some_iff.mp hp
    extract_lets at hp
    obtain ⟨s4, h4, hp⟩ := Option.bind_eq_some_iff.mp hp
    obtain ⟨s5, h5, hp⟩ := Option.bind_eq_some_iff.mp hp
    extract_lets at hp
    obtain rfl := Option.some.inj hp
    have m3 : s3.mem = s.mem := (rejoin_mem h3).trans ((placeItems_mem h2).trans ((placeClaims_mem h1).trans rfl))
    have m5 : s5.mem = s3.mem := (placeOps_mem h5).trans ((placeStores_mem h4).trans rfl)
    have w5 : Memory.wf s5.mem := sound_of_mem (m5.trans m3) h
    refine drainCore_wf (foldl_wf (fun _ _ => retryParked_wf) (sound_of_mem (foldl_mem (fun _ _ => queueAccess_mem _ _ _ _) _ _) ?_))
    exact sound_of_mem (discardLines_mem _ _ _ _) w5

theorem State.placePart_wf {s t : State} {p : Nat} {as : List Area} {r : PartRest} (hp : s.placePart p as r = some t) (h : Memory.wf s.mem) :
    Memory.wf t.mem := by
  unfold State.placePart at hp
  split at hp
  · cases hp
  · rename_i hg
    have h1 := placeAll_wf (fun s a t ha hs => sound_of_mem (placeGroup_mem ha) hs) hg h
    split at hp
    · cases hp
    · rename_i hb
      have h2 := placeAll_wf (fun s a t ha hs => sound_of_mem (placeBar_mem ha) hs) hb h1
      dsimp only at hp
      refine placeAll_wf (fun s a t ha hs => ?_) hp (by simpa using h2)
      obtain ⟨e, -, he⟩ := Option.bind_eq_some_iff.mp ha
      exact placeArea_wf he hs
end Sys2Proof.Machine

end

section

namespace Sys2Proof.Machine
open Sys2Proof

/-! What an instruction's body leaves (`Did`), and how `perform` completes it. -/

/-- The memory of the state that a body leaves is in canonical form. -/
def Did.sound : Did → Prop
  | .done s _ | .moved s | .wait s _ | .trap s _ _ _ _ | .gone s => Memory.wf s.mem

@[simp] theorem Did.sound_done {s : State} {f : Nat → FlagSet} : (Did.done s f).sound ↔ Memory.wf s.mem := Iff.rfl

@[simp] theorem Did.sound_moved {s : State} : (Did.moved s).sound ↔ Memory.wf s.mem := Iff.rfl

@[simp] theorem Did.sound_wait {s : State} {r : Wait} : (Did.wait s r).sound ↔ Memory.wf s.mem := Iff.rfl

@[simp] theorem Did.sound_trap {s : State} {k : Cause} {n : Nat} {a : Option W64} {m : Mask} :
    (Did.trap s k n a m).sound ↔ Memory.wf s.mem := Iff.rfl

@[simp] theorem Did.sound_gone {s : State} : (Did.gone s).sound ↔ Memory.wf s.mem := Iff.rfl

theorem Did.sound.ite {p : Prop} [Decidable p] {a b : Did} (ha : a.sound) (hb : b.sound) : (if p then a else b).sound := by
  split
  · exact ha
  · exact hb

/-- A body, or what follows in one, that keeps memory in canonical form. -/
def Ctx.Keeps (k : Ctx → Did) : Prop := ∀ cx : Ctx, Memory.wf cx.s.mem → (k cx).sound

theorem Ctx.settle_wf {cx : Ctx} {n : Nat} {d : Did} (h : d.sound) : Memory.wf (cx.settle n d).mem := by
  unfold Ctx.settle
  split
  · extract_lets g s1 s2 on
    have h2 : Memory.wf s2.mem := by simpa [s1, s2] using h
    split
    · exact h2
    · exact State.trapOn_wf h2
  · exact h
  · simpa using h
  · extract_lets s1
    apply State.trapOn_wf
    unfold s1
    split
    · exact h
    · simpa using h
  · exact h

theorem Ctx.judge_sound {cx : Ctx} {r : Rules} {body : Ctx → Did} (hb : Ctx.Keeps body) (h : Memory.wf cx.s.mem) :
    (cx.judge r body).sound := by
  unfold Ctx.judge
  exact .ite h (.ite h (.ite h (.ite h (.ite h (.ite h (hb _ h))))))

theorem perform_wf {r : Rules} {body : Ctx → Did} {s t : State} (hp : perform r body s = .next t) (h : Memory.wf s.mem)
    (hb : Ctx.Keeps body) : Memory.wf t.mem := by
  unfold perform at hp
  split at hp
  · cases hp
  · rename_i cx hc
    obtain ⟨-, hs, -⟩ := ctx_some hc
    cases hp
    exact Ctx.settle_wf (Ctx.judge_sound hb (hs ▸ h))

/-! Consuming poison, waiting and checking, before a body goes on. -/

theorem Ctx.usePoison_sound {cx : Ctx} {os : List (Nat × Origin)} {k : Ctx → Did} (hk : Ctx.Keeps k)
    (h : Memory.wf cx.s.mem) : (cx.usePoison os k).sound := by
  unfold Ctx.usePoison
  have hs {sys : Bool} {tags : List Nat} : Memory.wf (cx.s.consumeAll sys tags).mem := State.consumeAll_wf h
  exact .ite (.ite (hk cx h) h) (.ite hs (.ite (hk _ hs) hs))

theorem Ctx.use_sound {cx : Ctx} {vs : List Val} {k : Ctx → Did} (hk : Ctx.Keeps k) (h : Memory.wf cx.s.mem) :
    (cx.use vs k).sound := usePoison_sound hk h

theorem Ctx.blockOn_sound {cx : Ctx} {os : List Operand} {k : Ctx → Did} (hk : Ctx.Keeps k) (h : Memory.wf cx.s.mem) :
    (cx.blockOn os k).sound := by
  unfold Ctx.blockOn
  exact .ite h (use_sound hk h)

theorem Ctx.blockOn64_sound {cx : Ctx} {os : List Operand} {k : Ctx → Did} (hk : Ctx.Keeps k) (h : Memory.wf cx.s.mem) :
    (cx.blockOn64 os k).sound := blockOn_sound hk h

theorem Ctx.behind_sound {cx : Ctx} {n : Nat} {k : Ctx → Did} (hk : Ctx.Keeps k) (h : Memory.wf cx.s.mem) :
    (cx.behind n k).sound := by
  unfold Ctx.behind
  exact .ite h (hk cx h)

theorem Ctx.withHandle_sound {cx : Ctx} {n : Nat} {k : Ctx → Did} (hk : Ctx.Keeps k) (h : Memory.wf cx.s.mem) :
    (cx.withHandle n k).sound := by
  unfold Ctx.withHandle
  exact .ite (hk cx h) h

theorem Ctx.checkAccess_sound {cx : Ctx} {a : Access} {k : Unit → Did} (hk : (k ()).sound) (h : Memory.wf cx.s.mem) :
    (cx.checkAccess a k).sound := by
  unfold Ctx.checkAccess
  exact .ite h (.ite hk (.ite h (.ite h hk)))

theorem Ctx.soundReads_sound {cx : Ctx} {addr : Nat → W64} {k : Ctx → Did} {bad : State → State} (hb : ∀ s, (bad s).mem = s.mem)
    (hk : Ctx.Keeps k) (h : Memory.wf cx.s.mem) : (cx.soundReads addr k bad).sound := by
  unfold Ctx.soundReads
  exact .ite (hk cx h) (sound_of_mem (hb _) h)

theorem Ctx.awaitAccess_sound {cx : Ctx} {a : Access} {k : Ctx → Did} (hk : Ctx.Keeps k) (h : Memory.wf cx.s.mem) :
    (cx.awaitAccess a k).sound := by
  unfold Ctx.awaitAccess
  refine .ite (hk cx h) (.ite h (checkAccess_sound (.ite h ?_) h))
  have hr {w : Who} : Memory.wf ((cx.s.nextOrder cx.c cx.t).passAccess w cx.t a none false).s.mem :=
    State.passAccess_wf (by simpa using h)
  dsimp only
  split
  · exact hr
  split
  · exact hr
  · exact .ite (hk _ hr) (.ite hr hr)

theorem Ctx.readOwn_sound {cx : Ctx} {seat : Nat} {a : W64} {k : Ctx → Nat → Did} {bad : State → State}
    (hb : ∀ s, (bad s).mem = s.mem) (hk : ∀ v, Ctx.Keeps fun cx => k cx v) (h : Memory.wf cx.s.mem) :
    (cx.readOwn seat a k bad).sound := by
  unfold Ctx.readOwn
  refine .ite h ?_
  generalize ({cx.ownAccess (.record 64) (laneBit cx.lane) (fun _ => a) with seat := seat} : Access) = b
  refine awaitAccess_sound (fun cx h => ?_) h
  exact soundReads_sound hb (fun cx h => hk _ cx h) h

theorem Ctx.withAcc_sound {cx : Ctx} {n : Nat} {k : Ctx → Nat → Did} (hk : ∀ i, Ctx.Keeps fun cx => k cx i)
    (h : Memory.wf cx.s.mem) : (cx.withAcc n k).sound := by
  unfold Ctx.withAcc
  split
  · exact hk _ cx h
  extract_lets core own ahead s1 s2 s3
  split
  · exact h
  split
  · exact h
  · exact hk _ _ (by simpa using h)
end Sys2Proof.Machine

end

section

namespace Sys2Proof.Machine
open Sys2Proof

/-! The bodies that several instructions share: results in registers, branches, accesses. -/

theorem Ctx.compute_sound {cx : Ctx} {d : Operand} {os : List Operand} {f : Ctx → Nat → W64} (h : Memory.wf cx.s.mem) :
    (cx.compute d os f).sound := by
  unfold Ctx.compute
  exact .ite h (blockOn_sound (fun cx h => by simpa using h) h)

theorem Ctx.compute64_sound {cx : Ctx} {d : Operand} {os : List Operand} {f : Ctx → Nat → W64} (h : Memory.wf cx.s.mem) :
    (cx.compute64 d os f).sound := by
  unfold Ctx.compute64
  exact .ite h (blockOn64_sound (fun cx h => by simpa using h) h)

theorem Ctx.writeForm_sound {cx : Ctx} {d : Operand} {n : Nat} {k : W64} {m : Mask} {v : Val} (h : Memory.wf cx.s.mem) :
    (cx.writeForm d n k m v).sound := by
  have hw : Memory.wf (cx.write cx.s d v.at_ v.pois).mem := by simpa using h
  unfold Ctx.writeForm
  split
  · exact .ite (.ite h hw) (.ite h (by simpa using h))
  · exact .ite h (.ite hw (by simpa using h))
  · exact h

theorem Ctx.writeKnown_sound {cx : Ctx} {d : Operand} {v : Val} (h : Memory.wf cx.s.mem) : (cx.writeKnown d v).sound := by
  unfold Ctx.writeKnown
  exact .ite h (by simpa using h)

theorem Ctx.linear_sound {cx : Ctx} {d : Operand} {minus : Bool} {a b : Opd} (h : Memory.wf cx.s.mem) :
    (cx.linear d minus a b).sound := by
  unfold Ctx.linear
  dsimp only
  split
  · exact writeKnown_sound h
  · exact writeForm_sound h
  · exact writeForm_sound h
  · exact .ite (writeForm_sound h) h
  · exact h

theorem Ctx.scaled_sound {cx : Ctx} {d : Operand} {a : Opd} {u : Val} (h : Memory.wf cx.s.mem) : (cx.scaled d a u).sound := by
  unfold Ctx.scaled
  split
  · exact writeKnown_sound h
  · exact writeForm_sound h
  · exact h

theorem Ctx.saturating_sound {cx : Ctx} {f : (w : Nat) → BitVec w → BitVec w → BitVec w × Bool} {d a b : Operand}
    (h : Memory.wf cx.s.mem) : (cx.saturating f d a b).sound := by
  unfold Ctx.saturating
  exact .ite h (blockOn_sound (fun cx h => by simpa using h) h)

theorem Ctx.product_sound {cx : Ctx} {d a b : Operand} (h : Memory.wf cx.s.mem) : (cx.product d a b).sound := by
  unfold Ctx.product
  exact .ite (scaled_sound h) (.ite (scaled_sound h) (compute_sound h))

theorem Ctx.copyForm_sound {cx : Ctx} {d a : Operand} (h : Memory.wf cx.s.mem) : (cx.copyForm d a).sound := by
  unfold Ctx.copyForm
  split
  · exact .ite h (by simpa using h)
  · exact .ite (writeForm_sound h) (.ite h (by simpa using h))
  · exact .ite h (by simpa using h)
  · exact h
  · exact h

theorem Ctx.float1_sound {cx : Ctx} {f : RMode → W32 → W32 × FlagSet} {d a : Operand} (h : Memory.wf cx.s.mem) :
    (cx.float1 f d a).sound := by
  unfold Ctx.float1
  exact .ite h (blockOn_sound (fun cx h => by simpa using h) h)

theorem Ctx.float2_sound {cx : Ctx} {f : RMode → W32 → W32 → W32 × FlagSet} {d a b : Operand} (h : Memory.wf cx.s.mem) :
    (cx.float2 f d a b).sound := by
  unfold Ctx.float2
  exact .ite h (blockOn_sound (fun cx h => by simpa using h) h)

theorem Ctx.writeFloatForm_sound {cx : Ctx} {d : Operand} {g : FloatForm} {k : W32} {v : Val} (h : Memory.wf cx.s.mem) :
    (cx.writeFloatForm d g k v).sound := by
  unfold Ctx.writeFloatForm
  dsimp only
  split <;> simpa using h

theorem Ctx.foldWith_sound {cx : Ctx} {f : Fold} {d : Operand} {g : FloatForm} {k : Val} {left : Bool} (h : Memory.wf cx.s.mem) :
    (cx.foldWith f d g k left).sound := by
  cases f with
  | add | mul => exact writeFloatForm_sound h
  | sub => exact .ite (writeFloatForm_sound h) (writeFloatForm_sound h)

theorem Ctx.folding_sound {cx : Ctx} {f : Fold} {d a b : Operand} (h : Memory.wf cx.s.mem) : (cx.folding f d a b).sound := by
  unfold Ctx.folding
  refine .ite (float2_sound h) (.ite (float2_sound h) ?_)
  split
  · exact foldWith_sound h
  · exact h

theorem Ctx.cvt_sound {cx : Ctx} {m : RMode} {d a : Operand} {code : BitVec 8} (h : Memory.wf cx.s.mem) :
    (cx.cvt m d a code).sound := by
  unfold Ctx.cvt
  have hk (cx : Ctx) (h : Memory.wf cx.s.mem) (p : Bool) (f g : Nat → W64) (o : Nat → Option Origin) :
      Memory.wf (if p then cx.write64 cx.s d f o else cx.write cx.s d g o).mem := by
    split <;> simpa using h
  dsimp only
  exact .ite h (.ite (blockOn64_sound (fun cx h => hk cx h _ _ _ _) h) (blockOn_sound (fun cx h => hk cx h _ _ _ _) h))

theorem Ctx.shuffle_sound {cx : Ctx} {j : Nat → W64 → Option Nat} {d a b : Operand} (h : Memory.wf cx.s.mem) :
    (cx.shuffle j d a b).sound := by
  unfold Ctx.shuffle
  exact .ite h (use_sound (fun cx h => by simpa using h) h)

theorem Ctx.reduce_sound {cx : Ctx} {f : Ctx → Nat → W32 × FlagSet} {d a : Operand} (h : Memory.wf cx.s.mem) :
    (cx.reduce f d a).sound := by
  unfold Ctx.reduce
  exact .ite h (blockOn_sound (fun cx h => by simpa using h) h)

theorem Ctx.sharedGet_sound {cx : Ctx} {d a : Operand} {clear : Bool} (h : Memory.wf cx.s.mem) : (cx.sharedGet d a clear).sound := by
  unfold Ctx.sharedGet
  refine .ite h (use_sound (fun cx h => ?_) h)
  dsimp only
  split <;> simpa using h

theorem Ctx.branch_sound {cx : Ctx} {s : State} {cond : Operand} {off : BitVec 18} (h : Memory.wf s.mem) :
    (cx.branch s cond off).sound := by
  simpa [Ctx.branch] using h

theorem Ctx.jump_sound {cx : Ctx} {n : Nat} {d a : Operand} (h : Memory.wf cx.s.mem) : (cx.jump n d a).sound := by
  unfold Ctx.jump
  refine .ite h (blockOn64_sound (fun cx h => .ite h (.ite h ?_)) h)
  dsimp only
  split <;> simpa using h

theorem Ctx.changeJoins_sound {cx : Ctx} {f : Team → Team} (h : Memory.wf cx.s.mem) : (cx.changeJoins f).sound := by
  simpa [Ctx.changeJoins] using h
end Sys2Proof.Machine

end

section

namespace Sys2Proof.Machine
open Sys2Proof

/-! Accesses at issue (R69, R108, R219-R228). -/

theorem Ctx.launchAccess_sound {cx : Ctx} {s : State} {a : Access} {now : Bool} (h : Memory.wf s.mem) :
    (cx.launchAccess s a now).sound := by
  unfold Ctx.launchAccess
  extract_lets s1 r
  have h1 : Memory.wf s1.mem := by simpa [s1] using h
  have hr : Memory.wf r.s.mem := State.passAccess_wf h1
  clear_value s1 r
  exact .ite (by simpa using h1) (.ite (by simpa using hr) (.ite (by simpa using hr) (by simpa using hr)))

theorem Ctx.directAccess_sound {cx : Ctx} {a : Access} {r : Req} {d : Operand} (h : Memory.wf cx.s.mem) :
    (cx.directAccess a r d).sound := by
  unfold Ctx.directAccess
  extract_lets all v o left b p
  have hp : Memory.wf p.s.mem := State.passAccess_wf (by simpa using h)
  clear_value p
  refine .ite ?_ (.ite h (.ite (.ite h ?_) (checkAccess_sound (.ite h (.ite (by simpa using hp) h)) h)))
  · rw [Did.sound_done]
    split <;> simpa using h
  · exact State.drain_wf (by simpa using h)

theorem State.allocSym_mem {s t : State} {c k n : Nat} {sys wide uni : Bool} {m : Mask} {src : SymSource}
    (h : s.allocSym c k sys m wide uni src = some (n, t)) : t.mem = s.mem := by
  obtain ⟨-, h⟩ := (ite_eq_iff.mp h).resolve_left (by simp)
  split at h
  · cases h
  · cases h
    rfl

theorem Ctx.startAccess_sound {cx : Ctx} {r : Req} (h : Memory.wf cx.s.mem) : (cx.startAccess r).sound := by
  unfold Ctx.startAccess
  refine .ite h (.ite (directAccess_sound h) (checkAccess_sound (.ite h (.ite (launchAccess_sound h) ?_)) h))
  split
  · exact h
  · next hs => exact launchAccess_sound (by simpa [State.allocSym_mem hs] using h)

theorem Ctx.recordTrouble_wf {cx : Ctx} {a : Nat} {sp : Spot} (h : Memory.wf cx.s.mem) : Memory.wf (cx.recordTrouble a sp).mem := by
  unfold Ctx.recordTrouble
  split
  · exact State.doubleTrap_wf h
  · exact State.consume_wf h
  · exact State.doubleTrap_wf h

theorem Ctx.writeArea_sound {cx : Ctx} {s : State} {a : Nat} {bs : List Byte} {k : State → Did}
    (hk : ∀ t, Memory.wf t.mem → (k t).sound) (h : Memory.wf s.mem) : (cx.writeArea s a bs k).sound := by
  unfold Ctx.writeArea
  split
  · exact recordTrouble_wf h
  · exact hk _ (State.storeParts_wf h)

theorem Ctx.readArea_sound {cx : Ctx} {a n : Nat} {k : List Byte → Did} (hk : ∀ bs, (k bs).sound) (h : Memory.wf cx.s.mem) :
    (cx.readArea a n k).sound := by
  unfold Ctx.readArea
  split
  · exact recordTrouble_wf h
  split
  · exact State.consume_wf h
  · exact hk _

theorem Ctx.takeRecord_sound {cx : Ctx} {d : Operand} {p : Nat} (h : Memory.wf cx.s.mem) : (cx.takeRecord d p).sound := by
  unfold Ctx.takeRecord
  dsimp only
  split
  · exact recordTrouble_wf h
  split
  · exact State.consume_wf h
  · simpa using State.retryAll_wf (s := cx.s.onPart p _) h
end Sys2Proof.Machine

end

section

namespace Sys2Proof.Machine
open Sys2Proof

/-! The copy engine, handles, sampler, tensor unit and context switches: the bodies their instructions share. -/

theorem Ctx.runCopy_sound {cx : Ctx} {n : Nat} {d : CopyDesc} {plan : Bool} {e : StageEnd}
    (hi : ∀ s, (e.issued s).mem = s.mem) (ht : ∀ s, (e.trapped s).mem = s.mem) (h : Memory.wf cx.s.mem) :
    (cx.runCopy n d plan e).sound := by
  have trapped : Memory.wf (e.trapped cx.s).mem := sound_of_mem (ht _) h
  unfold Ctx.runCopy
  refine .ite trapped (.ite h (.ite trapped (.ite trapped (.ite ?_ (.ite h (.ite ?_ ?_))))))
  · simpa [hi] using h
  · simpa [hi] using h
  · split
    · simpa [hi] using h
    · exact h

theorem Ctx.copyAt_sound {cx : Ctx} {x : Operand} {n : Nat} {sg : Bool} (h : Memory.wf cx.s.mem) : (cx.copyAt x n sg).sound :=
  behind_sound (fun _ h => blockOn_sound (fun _ h => withHandle_sound (fun _ h =>
    readOwn_sound (fun _ => rfl) (fun _ _ h => runCopy_sound (fun _ => rfl) (fun _ => rfl) h) h) h) h) h

theorem Ctx.startSend_wf {cx : Ctx} {w n l : Nat} {k : Handle} (h : Memory.wf cx.s.mem) : Memory.wf (cx.startSend w n l k).mem := by
  unfold Ctx.startSend
  dsimp only
  refine State.pumpAll_wf ?_
  split <;> split <;> simpa using h

theorem Ctx.enterJob_sound {cx : Ctx} {x : Operand} {j : SamplerJob} (h : Memory.wf cx.s.mem) : (cx.enterJob x j).sound := by
  unfold Ctx.enterJob
  refine .ite h (.ite h ?_)
  split
  · exact h
  · next hs => simpa [State.allocSym_mem hs] using h

theorem Ctx.accept_sound {cx : Ctx} {s : State} {k : TensorKind} (h : Memory.wf s.mem) : (cx.accept s k).sound := by
  simpa [Ctx.accept] using h

theorem Ctx.accMemory_sound {cx : Ctx} {acc base : Operand} {dst : Bool} {kind : Nat → W64 → Nat → TensorKind}
    (h : Memory.wf cx.s.mem) : (cx.accMemory acc base dst kind).sound := by
  refine behind_sound (fun cx h => blockOn_sound (fun cx h => .ite h (.ite h (.ite h (.ite h ?_)))) h) h
  split
  · exact h
  · exact withAcc_sound (fun _ _ h => accept_sound (by simpa using h)) h

theorem Ctx.batchReturn_sound {cx : Ctx} {n : BitVec 32} (h : Memory.wf cx.s.mem) : (cx.batchReturn n).sound := by
  unfold Ctx.batchReturn
  exact .ite (by simpa using h) (by simpa using h)

theorem Ctx.accRead_sound {cx : Ctx} {x y : Operand} {vi : BitVec 6} (h : Memory.wf cx.s.mem) : (cx.accRead x y vi).sound := by
  unfold Ctx.accRead
  exact .ite h (blockOn_sound (fun _ h => withAcc_sound (fun _ cx h => .ite h (by simpa using h)) h) h)

theorem Ctx.accWrite_sound {cx : Ctx} {x y : Operand} {vi : BitVec 6} (h : Memory.wf cx.s.mem) : (cx.accWrite x y vi).sound :=
  blockOn_sound (fun _ h => withAcc_sound (fun _ _ h => .ite h (by simpa using h)) h) h

theorem Ctx.setParked_sound {cx : Ctx} {d : Operand} {park : Bool} (h : Memory.wf cx.s.mem) : (cx.setParked d park).sound :=
  blockOn_sound (fun cx h => by simpa [State.setParked_mem] using h) h

theorem Ctx.refuse_sound {cx : Ctx} (h : Memory.wf cx.s.mem) : cx.refuse.sound := by
  simpa [Ctx.refuse] using h

theorem Ctx.saveTeam_sound {cx : Ctx} {w : Nat} (h : Memory.wf cx.s.mem) : (cx.saveTeam w).sound := by
  unfold Ctx.saveTeam
  dsimp only
  split
  · exact refuse_sound h
  · refine .ite (refuse_sound h) (.ite (writeArea_sound (fun t ht => ?_) h) h)
    simpa using State.drainCore_wf (s := t.removeTeam _ _) (by simpa using ht)

theorem Ctx.savePart_sound {cx : Ctx} {w : Nat} (h : Memory.wf cx.s.mem) : (cx.savePart w).sound := by
  have hs (p : Nat) : Memory.wf (cx.s.preempt p cx.agent).mem := by simpa using h
  unfold Ctx.savePart
  refine .ite (refuse_sound h) (.ite (writeArea_sound (fun t ht => ?_) (hs _)) (hs _))
  simpa using State.removePart_wf ht

theorem Ctx.refuseLoad_sound {cx : Ctx} {n : Nat} (h : Memory.wf cx.s.mem) : (cx.refuseLoad n).sound :=
  refuse_sound h

theorem Ctx.finishLoad_sound {cx : Ctx} {n : Nat} {o : Option State} (ho : ∀ t, o = some t → Memory.wf t.mem)
    (h : Memory.wf cx.s.mem) : (cx.finishLoad n o).sound := by
  unfold Ctx.finishLoad
  split
  · next t => simpa using ho t rfl
  · dsimp only
    rw [Did.sound_wait]
    split <;> exact h

theorem Ctx.loadTeam_sound {cx : Ctx} {w : Nat} (h : Memory.wf cx.s.mem) : (cx.loadTeam w).sound := by
  unfold Ctx.loadTeam
  refine readArea_sound (fun bs => .ite (refuseLoad_sound h) (readArea_sound (fun bs => ?_) h)) h
  split
  · exact refuseLoad_sound h
  · next a _ =>
    have ha (c : Nat) : Memory.wf (cx.s.walkArea c a).mem := by simpa using h
    refine .ite (refuse_sound (ha _)) (.ite (refuseLoad_sound (ha _)) ?_)
    split
    · exact refuseLoad_sound (ha _)
    · exact finishLoad_sound (fun t ht => State.placeArea_wf ht (ha _)) (ha _)

theorem Ctx.loadPart_sound {cx : Ctx} {w : Nat} (h : Memory.wf cx.s.mem) : (cx.loadPart w).sound := by
  unfold Ctx.loadPart
  refine .ite (refuse_sound h) (readArea_sound (fun bs => .ite (refuseLoad_sound h) (readArea_sound (fun bs => ?_) h)) h)
  split
  · exact refuseLoad_sound h
  split
  · exact refuseLoad_sound h
  · have ha (as : List Area) : Memory.wf (as.foldl (fun s a => s.walkArea a.core a) cx.s).mem :=
      sound_of_mem (foldl_mem (fun _ _ => State.walkArea_mem _ _ _) _ _) h
    exact .ite (refuseLoad_sound (ha _)) (finishLoad_sound (fun t ht => State.placePart_wf ht (ha _)) (ha _))

theorem Ctx.arm_sound {cx : Ctx} {s : State} {w : BitVec 32} {pair : Bool} (h : Memory.wf s.mem) : (cx.arm s w pair).sound := by
  simpa [Ctx.arm] using h

theorem Ctx.armEntries_sound {cx : Ctx} {pair : Bool} (es : List (BitVec 10 × Bool)) {next : Option (BitVec 32)}
    (h : Memory.wf cx.s.mem) : (cx.armEntries pair next es).sound := by
  induction es generalizing next with
  | nil =>
    unfold Ctx.armEntries
    split
    · exact h
    · exact arm_sound h
  | cons e es ih =>
    unfold Ctx.armEntries
    split
    · exact .ite (ih) h
    · exact State.fetchFails_wf h
end Sys2Proof.Machine

end

section

namespace Sys2Proof.Machine
open Sys2Proof

/-! Items, counters, the heap of deadlines, labels, allocation and barriers. -/

theorem Ctx.enqueueLanes_mem {cx : Ctx} {waits : Bool} {s : State} (ls : List Nat) : (cx.enqueueLanes waits s ls).1.mem = s.mem := by
  induction ls generalizing s with
  | nil => rfl
  | cons l ls ih =>
    unfold Ctx.enqueueLanes
    dsimp only
    split
    · exact ih.trans (State.enqueue_mem _ _ _)
    · rfl

theorem Ctx.offerItems_sound {cx : Ctx} {x y : Operand} {waits : Bool} (h : Memory.wf cx.s.mem) : (cx.offerItems x y waits).sound := by
  refine behind_sound (fun cx h => blockOn_sound (fun cx h => .ite h (awaitAccess_sound (fun cx h =>
    soundReads_sound (fun _ => rfl) (fun cx h => .ite h ?_) h) h)) h) h
  have hs : Memory.wf (cx.enqueueLanes waits cx.s (lanesOf cx.act)).1.mem := sound_of_mem (enqueueLanes_mem _) h
  exact .ite hs (by simpa using hs)

theorem Ctx.count_sound {cx : Ctx} {x y : Operand} {f : Counter → Nat → Counter} (h : Memory.wf cx.s.mem) :
    (cx.count_ x y f).sound :=
  behind_sound (fun _ h => blockOn_sound (fun _ h => .ite h (sound_of_mem (foldl_mem (fun _ _ => State.setCounter_mem _ _ _) _ _) h)) h) h

theorem State.heapInsert_mem {s t : State} {p label : Nat} {v : W64} (h : s.heapInsert p label v = some t) : t.mem = s.mem := by
  unfold State.heapInsert at h
  dsimp only at h
  split at h
  · cases h
    rfl
  split at h <;> cases h
  rfl

theorem State.heapRemove_mem {s t : State} {p label : Nat} (h : s.heapRemove p label = some t) : t.mem = s.mem := by
  unfold State.heapRemove at h
  split at h <;> cases h
  rfl

theorem eachLane_mem {f : State → Nat → Option State} (hf : ∀ s l t, f s l = some t → t.mem = s.mem) {s : State} (ls : List Nat) :
    (eachLane f s ls).1.mem = s.mem := by
  induction ls generalizing s with
  | nil => rfl
  | cons l ls ih =>
    unfold eachLane
    split
    · exact ih
    · next ht => exact ih.trans (hf _ _ _ ht)

theorem Ctx.heapOp_sound {cx : Ctx} {os : List Operand} {f : Ctx → State → Nat → Option State}
    (hf : ∀ cx s l t, f cx s l = some t → t.mem = s.mem) (h : Memory.wf cx.s.mem) : (cx.heapOp os f).sound :=
  behind_sound (fun _ h => blockOn_sound (fun cx h => by simpa [eachLane_mem (hf cx)] using h) h) h

theorem Ctx.storeWord_wf {cx : Ctx} {s : State} {l : Nat} {a : W64} {v : Nat} (h : Memory.wf s.mem) :
    Memory.wf (cx.storeWord s l a v).mem := by
  unfold Ctx.storeWord
  extract_lets n own q r
  have hr : Memory.wf r.s.mem := State.passAccess_wf (by simpa using h)
  clear_value r
  split
  · exact hr
  · simpa using hr

theorem Ctx.admitLane_wf {cx : Ctx} {a : W64} {room : Nat} {s : State} {l : Nat} (h : Memory.wf s.mem) :
    Memory.wf (cx.admitLane a room s l).mem := by
  unfold Ctx.admitLane
  exact storeWord_wf (foldl_wf (fun _ _ => storeWord_wf) h)

theorem Ctx.admitOnce_wf {cx : Ctx} {a : W64} {room : Nat} {s : State} {l : Nat} (h : Memory.wf s.mem) :
    Memory.wf (cx.admitOnce a room s l).mem := by
  unfold Ctx.admitOnce
  split
  · exact h
  · simpa using admitLane_wf h

theorem execAdmitHeap_wf {x y : Operand} {s t : State} (he : execAdmitHeap x y s = .next t) (h : Memory.wf s.mem) :
    Memory.wf t.mem := by
  refine perform_wf he h fun _ h => Ctx.behind_sound (fun cx h => Ctx.blockOn_sound (fun cx h => .ite h ?_) h) h
  refine Ctx.awaitAccess_sound (fun cx h => Ctx.soundReads_sound (fun _ => rfl) (fun cx h => ?_) h) h
  have hs (a : W64) (room : Nat) : Memory.wf ((lanesOf cx.act).foldl (cx.admitOnce a room) cx.s).mem :=
    foldl_wf (fun _ _ => Ctx.admitOnce_wf) h
  exact .ite (hs _ _) (hs _ _)

theorem State.relabel_mem {s t : State} {c k p label : Nat} {i : Item} {cls : Option Nat} (h : s.relabel c k p i label cls = some t) :
    t.mem = s.mem := by
  unfold State.relabel at h
  split at h
  · cases h
  obtain ⟨-, h⟩ := (ite_eq_iff.mp h).resolve_left (by simp)
  cases h
  simp [apply_ite State.mem]

theorem State.relabelAll_mem {s t : State} {c k p : Nat} {label : Item → Nat} {cls : Option Nat} (is : List Item)
    (h : s.relabelAll c k p label cls is = some t) : t.mem = s.mem := by
  induction is generalizing s with
  | nil =>
    cases h
    rfl
  | cons i is ih =>
    unfold State.relabelAll at h
    split at h
    · cases h
    · next hu => exact (ih h).trans (relabel_mem hu)

theorem Ctx.afterRelabel_sound {cx : Ctx} {s : State} (h : Memory.wf s.mem) : (cx.afterRelabel s).sound := by
  unfold Ctx.afterRelabel
  split
  · exact h
  · exact .ite h (.ite h h)

theorem execFlowSet_wf {a b : Operand} {s t : State} (he : execFlowSet a b s = .next t) (h : Memory.wf s.mem) : Memory.wf t.mem := by
  refine perform_wf he h fun _ h => .ite h (Ctx.behind_sound (fun _ h => Ctx.blockOn_sound (fun _ h => .ite h ?_) h) h)
  dsimp only
  split
  · exact h
  · next hs => exact Ctx.afterRelabel_sound (sound_of_mem (State.relabelAll_mem _ hs) h)

theorem State.allocNear_mem {s t : State} {p c pool n a : Nat} (h : s.allocNear p c pool n = some (a, t)) : t.mem = s.mem := by
  obtain ⟨-, h⟩ := (ite_eq_iff.mp h).resolve_left (by simp)
  obtain ⟨r, -, h⟩ := Option.map_eq_some_iff.mp h
  cases h
  rfl

/-- The search for room takes the cores in order (R81). The allocator is made a variable before the recursion is unfolded:
otherwise the kernel evaluates the quota's arithmetic when it checks the equation. -/
theorem State.allocAny_eq_findSome? (s : State) (p n : Nat) (cs : List Nat) :
    s.allocAny p n cs = cs.findSome? fun c => s.allocNear p c 1 n := by
  obtain ⟨near, hn⟩ : ∃ near, near = State.allocNear s := ⟨_, rfl⟩
  obtain ⟨F, hF⟩ : ∃ F, F = @State.allocAny._f := ⟨_, rfl⟩
  delta State.allocAny
  rw [← hF]
  delta State.allocAny._f at hF
  subst hF
  beta_reduce
  rw [← hn]
  clear hn
  induction cs with
  | nil => rfl
  | cons c cs ih =>
    rw [List.findSome?_cons, ← ih]
    change (match near p c 1 n with
      | some r => some r
      | none => _) = _
    cases near p c 1 n <;> rfl

theorem State.allocAny_mem {s t : State} {p n a : Nat} {cs : List Nat} (h : s.allocAny p n cs = some (a, t)) : t.mem = s.mem := by
  rw [allocAny_eq_findSome?] at h
  obtain ⟨c, -, hc⟩ := List.exists_of_findSome?_eq_some h
  exact allocNear_mem hc

theorem State.allocBulk_mem {s t : State} {p n a : Nat} (h : s.allocBulk p n = some (a, t)) : t.mem = s.mem := by
  obtain ⟨r, -, h⟩ := Option.map_eq_some_iff.mp h
  cases h
  rfl

@[simp] theorem State.allocOne_mem (s : State) (p c pool z : Nat) : (s.allocOne p c pool z).2.mem = s.mem := by
  unfold State.allocOne
  dsimp only
  generalize (if pool = 2 then 0x80000000 else 0x1000000) = limit
  split
  · rfl
  split
  · rfl
  next ha =>
  split at ha
  · exact allocNear_mem ha
  split at ha
  · exact allocAny_mem ha
  · exact allocBulk_mem ha

theorem State.allocLanes_wf {s : State} {w : Who} {zeroed : Bool} {pool : Nat} {size : Nat → Nat} (ls : List Nat) (h : Memory.wf s.mem) :
    Memory.wf (s.allocLanes w zeroed pool size ls).2.mem := by
  induction ls generalizing s with
  | nil => exact h
  | cons l ls ih =>
    have ha : Memory.wf (s.allocOne w.part w.core pool (size l)).2.mem := by simpa using h
    unfold State.allocLanes
    refine ih ?_
    split
    · exact ha
    split
    · exact zeroRange_wf ha
    · simpa using ha

theorem Ctx.allocate_sound {cx : Ctx} {zeroed : Bool} {d a b : Operand} (h : Memory.wf cx.s.mem) : (cx.allocate zeroed d a b).sound := by
  unfold Ctx.allocate
  refine .ite h (blockOn_sound (fun cx h => .ite (by simpa using h) ?_) h)
  simpa using State.allocLanes_wf _ h

@[simp] theorem State.freeOne_mem (s : State) (p : Nat) (a : W64) : (s.freeOne p a).1.mem = s.mem := by
  unfold State.freeOne
  split
  · rfl
  split <;> rfl

@[simp] theorem State.prefetch_mem (s : State) (w : Who) (t l v : Nat) : (s.prefetch w t l v).1.mem = s.mem := by
  unfold State.prefetch
  split <;> simp

theorem State.prefetchAll_wf {s : State} {w : Who} {t : Nat} {vs : List (Nat × Nat)} (h : Memory.wf s.mem) :
    Memory.wf (s.prefetchAll w t vs).mem := by
  refine consumeAll_wf (sound_of_mem (foldl_fst_mem (fun r v => ?_) _ _) h)
  exact prefetch_mem ..

@[simp] theorem State.initBar_mem (s : State) (lvl c i n : Nat) (force : Bool) (ls : List Nat) :
    (s.initBar lvl c i n force ls).1.mem = s.mem := by
  induction ls generalizing s with
  | nil => rfl
  | cons l ls ih =>
    unfold State.initBar
    dsimp only
    split
    · exact ih s
    · exact (ih _).trans (by simp)

theorem Ctx.barInit_sound {cx : Ctx} {x : Operand} {i : BitVec 6} {force : Bool} (h : Memory.wf cx.s.mem) : (cx.barInit x i force).sound :=
  blockOn_sound (fun _ h => .ite h (by simpa using h)) h
end Sys2Proof.Machine

end

section

namespace Sys2Proof.Machine
open Sys2Proof

/-! Instructions whose bodies are their own: memory and handles (R83, R225-R231, R285-R307, R336). -/

section
variable {s t : State}

theorem execPref_wf {a b : Operand} (he : execPref a b s = .next t) (h : Memory.wf s.mem) : Memory.wf t.mem := by
  refine perform_wf he h fun cx h => .ite h ?_
  have hc {tags : List Nat} : Memory.wf (cx.s.consumeAll cx.sys tags).mem := State.consumeAll_wf h
  exact .ite hc (State.prefetchAll_wf hc)

theorem execFreeMem_wf {a : Operand} (he : execFreeMem a s = .next t) (h : Memory.wf s.mem) : Memory.wf t.mem := by
  refine perform_wf he h fun cx h => Ctx.blockOn64_sound (fun cx h => ?_) h
  refine sound_of_mem (foldl_fst_mem (fun r l => ?_) _ _) h
  exact State.freeOne_mem ..

theorem execSpace_wf {d a : Operand} (he : execSpace d a s = .next t) (h : Memory.wf s.mem) : Memory.wf t.mem :=
  perform_wf he h fun _ h => .ite h (Ctx.blockOn64_sound (fun _ h => by simpa using h) h)

theorem execFence_wf {p q : BitVec 4} {scope : Scope} (he : execFence p q scope s = .next t) (h : Memory.wf s.mem) : Memory.wf t.mem := by
  refine perform_wf he h fun cx h => .ite h (.ite ?_ (.ite h (by simpa using h)))
  rw [Did.sound_done]
  split <;> simpa using h

theorem execCpStep_wf {x : Operand} (he : execCpStep x s = .next t) (h : Memory.wf s.mem) : Memory.wf t.mem := by
  refine perform_wf he h fun cx h => Ctx.behind_sound (fun cx h => .ite h (.ite h (Ctx.readOwn_sound (fun _ => rfl) (fun v cx h => ?_) h))) h
  refine .ite h (Ctx.readOwn_sound (Ctx.nextStage_mem _) (fun v cx h => ?_) h)
  exact Ctx.runCopy_sound (fun s => by simp) (Ctx.nextStage_mem _) h

theorem execHWait_wf {n : BitVec 6} (he : execHWait n s = .next t) (h : Memory.wf s.mem) : Memory.wf t.mem :=
  perform_wf he h fun _ h => Ctx.withHandle_sound (fun _ h => .ite h (by simpa using h)) h

theorem execHSet_wf {x y : Operand} {n : BitVec 6} (he : execHSet x y n s = .next t) (h : Memory.wf s.mem) : Memory.wf t.mem := by
  refine perform_wf he h fun _ h => Ctx.blockOn_sound (fun _ h => Ctx.withHandle_sound (fun _ h => ?_) h) h
  dsimp only
  split
  · exact h
  · exact .ite h (.ite h (by simpa using h))

theorem execHSetFree_wf {n : BitVec 6} (he : execHSetFree n s = .next t) (h : Memory.wf s.mem) : Memory.wf t.mem := by
  refine perform_wf he h fun _ h => Ctx.withHandle_sound (fun _ h => ?_) h
  dsimp only
  split
  · simpa using h
  · exact .ite h (.ite h (State.cancelPost_wf h))
  · exact h
  · exact h

theorem execHQ_wf {x : Operand} {n : BitVec 6} (he : execHQ x n s = .next t) (h : Memory.wf s.mem) : Memory.wf t.mem :=
  perform_wf he h fun _ h => Ctx.withHandle_sound (fun _ h => .ite h (by simpa using h)) h

theorem execPullReq_wf {x : Operand} {n : BitVec 6} (he : execPullReq x n s = .next t) (h : Memory.wf s.mem) : Memory.wf t.mem := by
  refine perform_wf he h fun _ h => Ctx.behind_sound (fun _ h => Ctx.blockOn_sound (fun _ h => Ctx.withHandle_sound (fun _ h =>
    .ite h (.ite h (.ite h (.ite (by simpa using h) ?_)))) h) h) h
  split
  · exact h
  · exact Ctx.startSend_wf h

theorem execGrantCfg_wf {x y : Operand} {n : BitVec 6} (he : execGrantCfg x y n s = .next t) (h : Memory.wf s.mem) : Memory.wf t.mem := by
  refine perform_wf he h fun _ h => Ctx.blockOn_sound (fun _ h => Ctx.withHandle_sound (fun _ h => .ite h ?_) h) h
  split
  · exact h
  · refine .ite h (.ite h (.ite (by simpa using h) ?_))
    split
    · exact h
    · simpa using h

theorem execXferQ_wf {x : Operand} {n : BitVec 6} (he : execXferQ x n s = .next t) (h : Memory.wf s.mem) : Memory.wf t.mem :=
  perform_wf he h fun _ h => Ctx.withHandle_sound (fun _ h => .ite h (by simpa using h)) h

theorem execSmp_wf {x y : Operand} {n : BitVec 6} (he : execSmp x y n s = .next t) (h : Memory.wf s.mem) : Memory.wf t.mem := by
  refine perform_wf he h fun _ h => Ctx.behind_sound (fun _ h => Ctx.blockOn_sound (fun _ h => Ctx.withHandle_sound (fun _ h =>
    .ite h (Ctx.withHandle_sound (fun cx h => ?_) h)) h) h) h
  have hl (r b : W64) (lh l1 l2 q : Nat) (f : Handle → Handle) (g : Sector → Sector) :
      Memory.wf ((((cx.s.fillHandle cx.c n.toNat r 1024 .core (some l1)).drainHandle cx.c lh l2 b).onHandle cx.c n.toNat f).onSector
        q g).mem := by
    simpa using h
  dsimp only
  split
  · exact Ctx.enterJob_sound h
  · refine .ite h (.ite h ?_)
    split
    · exact Ctx.enterJob_sound (hl ..)
    · exact h

theorem execSmpQ_wf {x : Operand} {n : BitVec 6} (he : execSmpQ x n s = .next t) (h : Memory.wf s.mem) : Memory.wf t.mem :=
  perform_wf he h fun _ h => Ctx.withHandle_sound (fun _ h => .ite h (by simpa using h)) h

/-! The tensor unit (R274-R281). -/

theorem execTclaim_wf {x y : Operand} (he : execTclaim x y s = .next t) (h : Memory.wf s.mem) : Memory.wf t.mem := by
  refine perform_wf he h fun _ h => Ctx.blockOn_sound (fun _ h => .ite h ?_) h
  split
  · exact h
  · simpa using h

theorem execTrel_wf {x : Operand} (he : execTrel x s = .next t) (h : Memory.wf s.mem) : Memory.wf t.mem := by
  refine perform_wf he h fun _ h => .ite (.ite h (by simpa using h)) (.ite h ?_)
  dsimp only
  split <;> simpa using h

theorem execTload_wf {x : Operand} {n : BitVec 6} (he : execTload x n s = .next t) (h : Memory.wf s.mem) : Memory.wf t.mem := by
  refine perform_wf he h fun _ h => Ctx.behind_sound (fun _ h => Ctx.withHandle_sound (fun _ h => .ite h ?_) h) h
  split
  · exact h
  · refine .ite h (.ite h (.ite h ?_))
    split
    · exact h
    · exact Ctx.accept_sound (by simpa using h)

theorem execMma_wf {x y : Operand} {zc nb na : Bool} {acc : BitVec 3} (he : execMma x y zc nb na acc s = .next t) (h : Memory.wf s.mem) :
    Memory.wf t.mem := by
  refine perform_wf he h fun _ h => Ctx.behind_sound (fun _ h => ?_) h
  split
  · exact .ite h (.ite h (Ctx.withAcc_sound (fun _ _ h => Ctx.accept_sound h) h))
  · exact h

theorem execAccZero_wf {x : Operand} (he : execAccZero x s = .next t) (h : Memory.wf s.mem) : Memory.wf t.mem :=
  perform_wf he h fun _ h => Ctx.behind_sound (fun _ h => .ite h (Ctx.withAcc_sound (fun _ _ h => Ctx.accept_sound h) h)) h

theorem execMfence_wf {x : Operand} (he : execMfence x s = .next t) (h : Memory.wf s.mem) : Memory.wf t.mem :=
  perform_wf he h fun _ h => .ite h (by simpa using h)

theorem execMwait_wf {x : Operand} (he : execMwait x s = .next t) (h : Memory.wf s.mem) : Memory.wf t.mem := by
  refine perform_wf he h fun _ h => Ctx.blockOn_sound (fun cx h => .ite h (.ite h ?_)) h
  have hc {f : Team → Team} {tags : List Nat} : Memory.wf ((cx.s.onTeam cx.c cx.t f).consumeAll cx.sys tags).mem :=
    State.consumeAll_wf (by simpa using h)
  exact .ite hc (.ite hc (Ctx.batchReturn_sound hc))

theorem execTinfo_wf {x y : Operand} (he : execTinfo x y s = .next t) (h : Memory.wf s.mem) : Memory.wf t.mem :=
  perform_wf he h fun _ h => .ite h (by simpa using h)

end
end Sys2Proof.Machine

end

section

namespace Sys2Proof.Machine
open Sys2Proof

section
variable {s t : State}

/-! Instructions whose bodies are their own: system mode, calls, items and barriers (R205, R231-R242, R371-R398). -/

theorem ctlWriteAs_wf {d : Operand} {r : Option Ctl} (he : ctlWriteAs d r s = .next t) (h : Memory.wf s.mem) : Memory.wf t.mem := by
  refine perform_wf he h fun _ h => Ctx.blockOn_sound (fun _ h => ?_) h
  split
  · exact h
  · exact State.ctlWrite_wf h

theorem execFaultPop_wf {d : Operand} {p : BitVec 3} (he : execFaultPop d p s = .next t) (h : Memory.wf s.mem) : Memory.wf t.mem :=
  perform_wf he h fun _ h => .ite (by simpa using h) (Ctx.takeRecord_sound h)

theorem execFaultPopW_wf {d : Operand} {p : BitVec 3} (he : execFaultPopW d p s = .next t) (h : Memory.wf s.mem) : Memory.wf t.mem :=
  perform_wf he h fun _ h => .ite h (Ctx.takeRecord_sound h)

theorem execFaultDone_wf {d : Operand} {ans : Bool} (he : execFaultDone d ans s = .next t) (h : Memory.wf s.mem) : Memory.wf t.mem :=
  perform_wf he h fun _ h => Ctx.blockOn_sound (fun _ h => .ite h (by simpa using State.answerFault_wf h)) h

theorem execCtxSave_wf {d : Operand} {k : Bool} (he : execCtxSave d k s = .next t) (h : Memory.wf s.mem) : Memory.wf t.mem :=
  perform_wf he h fun _ h => Ctx.blockOn_sound (fun _ h =>
    .ite (Ctx.refuse_sound h) (.ite (Ctx.savePart_sound h) (Ctx.saveTeam_sound h))) h

theorem execCtxLoad_wf {d : Operand} {k : Bool} (he : execCtxLoad d k s = .next t) (h : Memory.wf s.mem) : Memory.wf t.mem :=
  perform_wf he h fun _ h => Ctx.blockOn_sound (fun _ h =>
    .ite (Ctx.refuse_sound h) (.ite (Ctx.loadPart_sound h) (Ctx.loadTeam_sound h))) h

theorem execCall_wf {cond : Operand} {off : BitVec 18} (he : execCall cond off s = .next t) (h : Memory.wf s.mem) :
    Memory.wf t.mem := by
  refine perform_wf he h fun cx h => .ite h (Ctx.branch_sound ?_)
  split
  · exact h
  · simpa using h

theorem execFlowRel_wf (he : execFlowRel s = .next t) (h : Memory.wf s.mem) : Memory.wf t.mem := by
  refine perform_wf he h fun cx h => ?_
  dsimp only
  split <;> simpa [foldl_mem] using h

theorem execFlowQ_wf {d a : Operand} (he : execFlowQ d a s = .next t) (h : Memory.wf s.mem) : Memory.wf t.mem :=
  perform_wf he h fun _ h => .ite h (Ctx.blockOn_sound (fun _ h => by simpa using h) h)

theorem execCntQ_wf {x y : Operand} (he : execCntQ x y s = .next t) (h : Memory.wf s.mem) : Memory.wf t.mem :=
  perform_wf he h fun _ h => Ctx.behind_sound (fun _ h => .ite h (Ctx.blockOn_sound (fun _ h => .ite h (by simpa using h)) h)) h

theorem execBarArr_wf {x y : Operand} {i : BitVec 6} (he : execBarArr x y i s = .next t) (h : Memory.wf s.mem) : Memory.wf t.mem :=
  perform_wf he h fun _ h => Ctx.behind_sound (fun _ h => Ctx.blockOn_sound (fun _ h =>
    .ite h (.ite h (sound_of_mem (foldl_mem (fun _ _ => Ctx.arriveOnce_mem ..) _ _) h))) h) h

theorem execBarWait_wf {i : BitVec 6} (he : execBarWait i s = .next t) (h : Memory.wf s.mem) : Memory.wf t.mem := by
  refine perform_wf he h fun _ h => ?_
  split
  · simpa using h
  · refine .ite h ?_
    dsimp only
    split
    · exact .ite (by simpa using h) h
    · exact h

theorem execBarInv_wf {i : BitVec 6} (he : execBarInv i s = .next t) (h : Memory.wf s.mem) : Memory.wf t.mem :=
  perform_wf he h fun _ h => .ite h (sound_of_mem (foldl_mem (fun _ _ => by simp) _ _) h)

theorem execBarQ_wf {x : Operand} {i : BitVec 6} (he : execBarQ x i s = .next t) (h : Memory.wf s.mem) : Memory.wf t.mem :=
  perform_wf he h fun _ h => .ite h (.ite h (by simpa using h))

theorem execSput_wf {d a : Operand} (he : execSput d a s = .next t) (h : Memory.wf s.mem) : Memory.wf t.mem :=
  perform_wf he h fun _ h => .ite h (Ctx.use_sound (fun _ h => by simpa using h) h)

/-! Floats in blocks and lists, and the questions about symbols. -/

theorem execQblk_wf {d a b : Operand} (he : execQblk d a b s = .next t) (h : Memory.wf s.mem) : Memory.wf t.mem :=
  perform_wf he h fun _ h => .ite h (Ctx.blockOn_sound (fun _ h => by simpa using h) h)

theorem execQmx_wf {d a : Operand} {code : BitVec 8} (he : execQmx d a code s = .next t) (h : Memory.wf s.mem) : Memory.wf t.mem :=
  perform_wf he h fun _ h => .ite h (Ctx.blockOn_sound (fun _ h => by simpa using h) h)

theorem execTopkIns_wf {d a b : Operand} (he : execTopkIns d a b s = .next t) (h : Memory.wf s.mem) : Memory.wf t.mem :=
  perform_wf he h fun _ h => .ite h (Ctx.blockOn_sound (fun _ h => by simpa using h) h)

end
end Sys2Proof.Machine

end

section

namespace Sys2Proof.Machine
open Sys2Proof

/-! The device's own events and what arrives from outside. -/

/-- An event that keeps memory in canonical form. -/
def Event.Keeps (f : Event) : Prop := ∀ s t : State, f s = .next t → Memory.wf s.mem → Memory.wf t.mem

theorem Event.keeps_next {g : State → State} (hg : ∀ s, Memory.wf s.mem → Memory.wf (g s).mem) : Event.Keeps fun s => .next (g s) := by
  intro s t he h
  cases he
  exact hg s h

/-- The state of a choice is in canonical form when it is in both branches. -/
theorem wf_ite {p : Prop} [Decidable p] {a b : State} (ha : Memory.wf a.mem) (hb : Memory.wf b.mem) :
    Memory.wf (if p then a else b).mem := by
  split
  · exact ha
  · exact hb

theorem execCopyCompletion_keeps (n i : Nat) : Event.Keeps (execCopyCompletion n i) := by
  refine Event.keeps_next fun s h => ?_
  split
  · exact h
  · refine wf_ite h (wf_ite (State.runChain_wf h) ?_)
    split
    · exact State.copyTrouble_wf h
    · next ht => simpa using State.transfer_wf ht h

theorem execTensorOperationCompletion_keeps (c i : Nat) : Event.Keeps (execTensorOperationCompletion c i) := by
  refine Event.keeps_next fun s h => ?_
  dsimp only
  split
  · exact h
  · exact wf_ite h (by simpa using State.runOp_wf h)

theorem execSamplerJobStart_keeps (n : Nat) : Event.Keeps (execSamplerJobStart n) := by
  refine Event.keeps_next fun s h => ?_
  split
  · exact h
  · exact wf_ite h h

theorem execSamplerJobCompletion_keeps (n : Nat) : Event.Keeps (execSamplerJobCompletion n) := by
  refine Event.keeps_next fun s h => ?_
  split
  · exact h
  · exact wf_ite h (State.runJob_wf h)

theorem execPullAnnouncement_keeps (a : Announcement) : Event.Keeps (execPullAnnouncement a) := by
  refine Event.keeps_next fun s h => wf_ite h ?_
  split
  · exact State.announced_wf h
  · exact State.overUe_wf (fun _ _ => State.announced_wf) h

theorem execPullBeat_keeps (b : PullBeat) : Event.Keeps (execPullBeat b) := by
  refine Event.keeps_next fun s h => wf_ite h ?_
  split
  · exact h
  · exact State.overPath_wf (fun _ => State.beatArrives_wf) h

theorem execPullToken_keeps (k : PullToken) : Event.Keeps (execPullToken k) :=
  Event.keeps_next fun _ h => wf_ite h (State.overPath_wf (fun _ h => State.pumpAll_wf (by simpa using h)) h)

theorem execPullNotice_keeps (c n : Nat) (note : PullNote) : Event.Keeps (execPullNotice c n note) :=
  Event.keeps_next fun _ h => wf_ite h (State.overPath_wf (fun _ h => by simpa using h) h)

theorem arriveSelf_keeps : Event.Keeps State.arriveSelf := by
  intro s t he h
  unfold State.arriveSelf at he
  split at he
  · cases he
    exact h
  dsimp only at he
  split at he
  · exact execPullAnnouncement_keeps _ _ _ he h
  · exact execPullToken_keeps _ _ _ he h
  · exact execPullNotice_keeps _ _ _ _ _ he h
  · split at he
    · cases he
      exact h
    · exact execPullBeat_keeps _ _ _ he h
  · cases he
    exact h

theorem execCallerGrant_keeps (p : Nat) : Event.Keeps (execCallerGrant p) :=
  Event.keeps_next fun _ h => wf_ite h (by simpa using h)

theorem execTokenExpiry_keeps (p r i : Nat) : Event.Keeps (execTokenExpiry p r i) := by
  refine Event.keeps_next fun s h => ?_
  split
  · exact h
  · exact wf_ite (by simpa using h) h

theorem execOrphan_keeps (p r : Nat) : Event.Keeps (execOrphan p r) := by
  refine Event.keeps_next fun s h => ?_
  split
  · exact h
  · exact wf_ite (State.completePull_wf (by simpa using h)) h

theorem execCallerSave_keeps (p : Nat) : Event.Keeps (execCallerSave p) :=
  Event.keeps_next fun _ h => wf_ite h h

theorem execAbandon_keeps (c n : Nat) : Event.Keeps (execAbandon c n) :=
  Event.keeps_next fun _ h => wf_ite (by simpa using h) h

theorem execReadResponse_keeps (tag : Nat) (vals : List (Nat × BitVec 64)) : Event.Keeps (execReadResponse tag vals) := by
  refine Event.keeps_next fun s h => ?_
  split
  · exact h
  · exact wf_ite (State.answerTx_wf h) h

theorem execAck_keeps (tag : Nat) (olds : List (Nat × BitVec 64)) : Event.Keeps (execAck tag olds) := by
  refine Event.keeps_next fun s h => ?_
  split
  · exact h
  refine wf_ite h ?_
  split
  · exact State.finishMcasts_wf (by simpa using h)
  · exact wf_ite (State.lineAnswered_wf h) (wf_ite (State.answerTx_wf h) h)

theorem execNack_keeps (m : NackMsg) : Event.Keeps (execNack m) := by
  refine Event.keeps_next fun s h => ?_
  split
  · exact h
  refine wf_ite h ?_
  split
  · exact State.finishMcasts_wf (by simpa using h)
  · exact wf_ite (State.lineAnswered_wf h) (wf_ite h (wf_ite (by simpa using h) (State.peerAnswers_wf h)))

theorem execPeerTimeout_keeps (tag : Nat) : Event.Keeps (execPeerTimeout tag) := by
  refine Event.keeps_next fun s h => ?_
  split
  · exact h
  · exact wf_ite h (wf_ite (State.lineAnswered_wf h) (State.refuseTx_wf h))

theorem execMulticastAck_keeps (tag col : Nat) (bits : BitVec 512) : Event.Keeps (execMulticastAck tag col bits) :=
  Event.keeps_next fun _ h => wf_ite (State.finishMcasts_wf (by simpa using h)) h

theorem execMulticastTimeout_keeps (tag : Nat) : Event.Keeps (execMulticastTimeout tag) := by
  refine Event.keeps_next fun s h => ?_
  split
  · exact h
  refine wf_ite h ?_
  split
  · exact State.finishMcasts_wf (by simpa using h)
  · exact wf_ite (State.expireMcast_wf h) h

theorem execPeerRequest_keeps (m : PeerMsg) : Event.Keeps (execPeerRequest m) :=
  Event.keeps_next fun _ h => wf_ite (State.servePeer_wf h) h

theorem execMulticastWrite_keeps (m : McastMsg) : Event.Keeps (execMulticastWrite m) :=
  Event.keeps_next fun _ h => wf_ite (State.multicast_wf h) h

theorem execLinkControl_keeps (n : Nat) (note : LinkNote) : Event.Keeps (execLinkControl n note) := by
  refine Event.keeps_next fun s h => wf_ite h ?_
  exact wf_ite (by simpa using h) (wf_ite (by simpa using h) (wf_ite (by simpa using h) (by simpa using h)))

theorem execLinkDown_keeps (n : Nat) : Event.Keeps (execLinkDown n) :=
  Event.keeps_next fun _ h => wf_ite (State.dropLink_wf h) h

theorem execLinkTraining_keeps (m : LinkTraining) : Event.Keeps (execLinkTraining m) := by
  refine Event.keeps_next fun s h => ?_
  split
  · exact h
  · exact wf_ite (by simpa using h) h

theorem execTransitFlit_keeps (n : Nat) (f : Flit) : Event.Keeps (execTransitFlit n f) := by
  refine Event.keeps_next fun s h => wf_ite h (wf_ite (State.discardFlit_wf h) ?_)
  split
  · exact State.discardFlit_wf h
  · exact wf_ite (State.raise_wf (by simpa using h)) (State.passOn_wf (by simpa using h))

theorem execTrapEntry_keeps (c k : Nat) : Event.Keeps (execTrapEntry c k) := by
  refine Event.keeps_next fun s h => ?_
  split
  · exact h
  · exact wf_ite h (wf_ite (wf_ite (by simpa using h) h) (wf_ite (by simpa using h) h))

theorem execTeamFormation_keeps (c : Nat) : Event.Keeps (execTeamFormation c) :=
  Event.keeps_next fun _ h => wf_ite (State.form_wf h) h

theorem execOrderedRelease_keeps (p label : Nat) : Event.Keeps (execOrderedRelease p label) := by
  refine Event.keeps_next fun s h => ?_
  split
  · exact h
  · exact State.performRelease_wf h

theorem execCutIn_keeps (c : Nat) : Event.Keeps (execCutIn c) :=
  Event.keeps_next fun _ h => wf_ite h h

theorem execCutInAnswer_keeps (c : Nat) : Event.Keeps (execCutInAnswer c) := by
  refine Event.keeps_next fun s h => ?_
  split
  · exact h
  · exact wf_ite (foldl_wf (fun _ _ => State.form_wf) h) h

theorem execSymbolResolution_keeps (c n : Nat) : Event.Keeps (execSymbolResolution c n) :=
  Event.keeps_next fun _ h => State.resolveSym_wf h

theorem execFaultRecordRetry_keeps (c : Nat) : Event.Keeps (execFaultRecordRetry c) :=
  Event.keeps_next fun _ h => State.retryRecords_wf h

theorem execHeldLanesRetry_keeps (c k : Nat) : Event.Keeps (execHeldLanesRetry c k) :=
  Event.keeps_next fun _ h => by simpa using h

theorem execJoinFallback_keeps (c k : Nat) : Event.Keeps (execJoinFallback c k) :=
  Event.keeps_next fun _ h => by simpa using h

theorem execSplinterStarvation_keeps (c k : Nat) : Event.Keeps (execSplinterStarvation c k) :=
  Event.keeps_next fun _ h => by simpa using h

theorem execTeamStarvation_keeps (c q : Nat) : Event.Keeps (execTeamStarvation c q) :=
  Event.keeps_next fun _ h => by simpa using h

theorem execEnergyWindow_keeps (rail : List Nat) : Event.Keeps (execEnergyWindow rail) :=
  Event.keeps_next fun _ h => wf_ite (State.openWindows_wf h) h

theorem execUncorrectableError_keeps (site : ErrorSite) : Event.Keeps (execUncorrectableError site) := by
  refine Event.keeps_next fun s h => wf_ite h ?_
  split
  · refine wf_ite h (State.raise_wf ?_)
    rw [State.poisonLine_mem]
    exact wf_storeBytes _ _ h
  · split
    · exact h
    · exact wf_ite h (wf_ite (State.warmRestart_wf h) (State.terminate_wf h))

theorem execSoftError_keeps (c u : Nat) : Event.Keeps (execSoftError c u) :=
  Event.keeps_next fun _ h => wf_ite (State.raise_wf h) h

theorem execPowerOn_keeps : Event.Keeps execPowerOn :=
  Event.keeps_next fun _ h => wf_ite State.powerOnReset_wf h

theorem execResetPin_keeps : Event.Keeps execResetPin :=
  Event.keeps_next fun s _ => State.powerOnReset_wf (s := s)

theorem execPowerRemoved_keeps : Event.Keeps execPowerRemoved :=
  Event.keeps_next fun s _ => State.powerOnReset_wf (s := s)

theorem execRomVerify_keeps : Event.Keeps execRomVerify :=
  Event.keeps_next fun _ h => wf_ite h (wf_ite (State.startStageOne_wf h) (wf_ite (State.startStageOne_wf h) h))

theorem execFirmwareDownload_keeps (image : List Byte) : Event.Keeps (execFirmwareDownload image) :=
  Event.keeps_next fun _ h => wf_ite h (wf_ite (State.startFirmware_wf h) h)

theorem execDownloadRetry_keeps : Event.Keeps execDownloadRetry := by
  refine Event.keeps_next fun s h => ?_
  split
  · exact h
  · exact wf_ite h h

theorem execThermalWarning_keeps (n : Nat) : Event.Keeps (execThermalWarning n) :=
  Event.keeps_next fun _ h => wf_ite (State.raise_wf h) h

theorem execThermalTrip_keeps (n : Nat) : Event.Keeps (execThermalTrip n) :=
  Event.keeps_next fun s h => wf_ite (State.raise_wf (s := s) h) h

theorem execAttestationQuote_keeps (nonce : List Byte) : Event.Keeps (execAttestationQuote nonce) :=
  Event.keeps_next fun _ h => wf_ite h (by simpa using h)

theorem execManagementRead_keeps (what : MgmtItem) : Event.Keeps (execManagementRead what) :=
  Event.keeps_next fun _ h => wf_ite (by simpa using h) h
end Sys2Proof.Machine

end

section

namespace Sys2Proof.Machine
open Sys2Proof

/-! Every instruction and every event, then turns and steps. -/

theorem exec_keeps (i : Instr) : Event.Keeps (exec i) := by
  intro s t he h
  cases i with
  -- Arithmetic, moves, compares and predicates.
  | add | sub | addi => exact perform_wf he h fun _ => Ctx.linear_sound
  | addSatI | addSatN => exact perform_wf he h fun _ => Ctx.saturating_sound
  | mul => exact perform_wf he h fun _ => Ctx.product_sound
  | muli | shli => exact perform_wf he h fun _ => Ctx.scaled_sound
  | shl => exact perform_wf he h fun _ h => .ite (Ctx.scaled_sound h) (Ctx.compute_sound h)
  | mov => exact perform_wf he h fun _ h => .ite (Ctx.copyForm_sound h) (Ctx.writeKnown_sound h)
  | lea => exact perform_wf he h fun _ h => .ite h (Ctx.blockOn_sound (fun _ h => by simpa using h) h)
  | mulhiI | mulhiN | mad | divI | divN | remI | remN | andOp | orOp | xorOp | andn | shr | sar | rotl | clz | popc | brev | ffs | minI | maxI
  | minN | maxN | bfxI | bfxN | bfi | andi | ori | xori | shri | sari | movi | movk | cmov | p2v | v2p | cmpEq | cmpNe | cmpLtI | cmpLeI
  | cmpLtN | cmpLeN | tst | tstz | pand | por | pxor | pandn | pset | pclr | pfirst | pcnt | sq | voteAny | voteAll | ballot | voteEq
  | fcmpEq | fcmpLt | fcmpLe | fcmpUn => exact perform_wf he h fun _ => Ctx.compute_sound
  -- Floats, shuffles and lists.
  | fadd | fsub | fmul => exact perform_wf he h fun _ => Ctx.folding_sound
  | ffma => exact perform_wf he h fun _ h => .ite h (Ctx.blockOn_sound (fun _ h => by simpa using h) h)
  | fmin | fmax | fdiv | fcpsgn => exact perform_wf he h fun _ => Ctx.float2_sound
  | frcp | frsq | fsqrt | fexp2 | flog2 | fsin | fcos | ftanh => exact perform_wf he h fun _ => Ctx.float1_sound
  | cvtRn | cvtRz | cvtRd | cvtRu => exact perform_wf he h fun _ => Ctx.cvt_sound
  | qblk => exact execQblk_wf he h
  | dqblk => exact perform_wf he h fun _ h => .ite h (Ctx.blockOn64_sound (fun _ h => by simpa using h) h)
  | qmx => exact execQmx_wf he h
  | shfl | shflX | shflUp | shflDn => exact perform_wf he h fun _ => Ctx.shuffle_sound
  | redwAdd | redwFadd | redwFmax | redwFmin => exact perform_wf he h fun _ => Ctx.reduce_sound
  | topkIns => exact execTopkIns_wf he h
  | topkClr => exact perform_wf he h fun _ h => .ite h (by simpa using h)
  | symQ => exact perform_wf he h fun _ h => .ite h (by simpa using h)
  | symWait | symWall => exact perform_wf he h fun _ h => .ite h h
  -- Control flow.
  | br => exact perform_wf he h fun _ => Ctx.branch_sound
  | call => exact execCall_wf he h
  | brx | ret | callx => exact perform_wf he h fun _ => Ctx.jump_sound
  | joinSet | joinAdd | joinClr => exact perform_wf he h fun _ => Ctx.changeJoins_sound
  | joinRem | joinArr => exact perform_wf he h fun _ h => by simpa using h
  | exitLanes => exact perform_wf he h fun _ h => .ite (by simpa using h) (by simpa using h)
  | refill => exact perform_wf he h fun _ => State.refill_wf
  | yield => exact perform_wf he h fun _ h => by simpa using h
  | nop => exact perform_wf he h fun _ h => h
  -- Memory.
  | ldB | ldH | ldW | ldD | stB | stH | stW | stD | zeroLine | atomAdd | atomAddSatN | atomFadd | atomXchg | atomMinI | atomMaxI | atomMinN
  | atomMaxN | atomAnd | atomOr | atomXor | atomCas | rld | rst | ratom | mcst => exact perform_wf he h fun _ => Ctx.startAccess_sound
  | pref => exact execPref_wf he h
  | gaddr => exact perform_wf he h fun _ => Ctx.compute64_sound
  | space => exact execSpace_wf he h
  | alloc | allocZ => exact perform_wf he h fun _ => Ctx.allocate_sound
  | freeMem => exact execFreeMem_wf he h
  | fence => exact execFence_wf he h
  -- Barriers, shared registers and items.
  | barInit | barInitForce => exact perform_wf he h fun _ => Ctx.barInit_sound
  | barArr => exact execBarArr_wf he h
  | barWait => exact execBarWait_wf he h
  | barInv => exact execBarInv_wf he h
  | barQ => exact execBarQ_wf he h
  | sput => exact execSput_wf he h
  | sgetC | sget => exact perform_wf he h fun _ => Ctx.sharedGet_sound
  | flowRel => exact execFlowRel_wf he h
  | flowSet => exact execFlowSet_wf he h
  | flowQ => exact execFlowQ_wf he h
  | enq | enqW => exact perform_wf he h fun _ => Ctx.offerItems_sound
  | cntSet | cntAdd | cntDec => exact perform_wf he h fun _ => Ctx.count_sound
  | cntQ => exact execCntQ_wf he h
  | heapIns => exact perform_wf he h fun _ => Ctx.heapOp_sound fun _ _ _ _ => State.heapInsert_mem
  | heapRm => exact perform_wf he h fun _ => Ctx.heapOp_sound fun _ _ _ _ => State.heapRemove_mem
  | admitHeap => exact execAdmitHeap_wf he h
  -- The tensor unit.
  | tclaim => exact execTclaim_wf he h
  | trel => exact execTrel_wf he h
  | tload => exact execTload_wf he h
  | mma => exact execMma_wf he h
  | mfence => exact execMfence_wf he h
  | mwait => exact execMwait_wf he h
  | accZero => exact execAccZero_wf he h
  | accLd | accSt => exact perform_wf he h fun _ => Ctx.accMemory_sound
  | accMv => exact perform_wf he h fun _ h => .ite (Ctx.accWrite_sound h) (Ctx.accRead_sound h)
  | tinfo => exact execTinfo_wf he h
  -- Copies, handles, transfers and the sampler.
  | cp | cpSg => exact perform_wf he h fun _ => Ctx.copyAt_sound
  | cpStep => exact execCpStep_wf he h
  | hWait => exact execHWait_wf he h
  | hSet => exact execHSet_wf he h
  | hSetFree => exact execHSetFree_wf he h
  | hQ => exact execHQ_wf he h
  | pullReq => exact execPullReq_wf he h
  | grantCfg => exact execGrantCfg_wf he h
  | xferQ => exact execXferQ_wf he h
  | smp => exact execSmp_wf he h
  | smpQ => exact execSmpQ_wf he h
  -- System mode.
  | trapInstr => exact perform_wf he h fun _ h => h
  | sret => exact perform_wf he h fun _ h => by simpa using h
  | ctlR => exact perform_wf he h fun _ h => by simpa using h
  | ctlW | devid | fqhead | fqbase => exact ctlWriteAs_wf he h
  | tlbInv => exact perform_wf he h fun _ => Ctx.blockOn_sound fun _ h => .ite h h
  | faultPop => exact execFaultPop_wf he h
  | faultPopW => exact execFaultPopW_wf he h
  | faultDone => exact execFaultDone_wf he h
  | teamPark | teamWake => exact perform_wf he h fun _ => Ctx.setParked_sound
  | ctxSave => exact execCtxSave_wf he h
  | ctxLoad => exact execCtxLoad_wf he h
  | halt => exact perform_wf he h fun _ h => h
  | dictionaryWord => exact perform_wf he h fun _ h => .ite h (Ctx.armEntries_sound _ h)
  -- Events.
  | powerOn => exact execPowerOn_keeps _ _ he h
  | romVerify => exact execRomVerify_keeps _ _ he h
  | firmwareDownload => exact execFirmwareDownload_keeps _ _ _ he h
  | downloadRetry => exact execDownloadRetry_keeps _ _ he h
  | resetPin => exact execResetPin_keeps _ _ he h
  | powerRemoved => exact execPowerRemoved_keeps _ _ he h
  | thermalWarning => exact execThermalWarning_keeps _ _ _ he h
  | thermalTrip => exact execThermalTrip_keeps _ _ _ he h
  | attestationQuote => exact execAttestationQuote_keeps _ _ _ he h
  | managementRead => exact execManagementRead_keeps _ _ _ he h
  | energyWindow rail => exact execEnergyWindow_keeps rail _ _ he h
  | teamFormation => exact execTeamFormation_keeps _ _ _ he h
  | orderedRelease => exact execOrderedRelease_keeps _ _ _ _ he h
  | cutIn => exact execCutIn_keeps _ _ _ he h
  | cutInAnswer => exact execCutInAnswer_keeps _ _ _ he h
  | teamStarvation => exact execTeamStarvation_keeps _ _ _ _ he h
  | splinterStarvation => exact execSplinterStarvation_keeps _ _ _ _ he h
  | heldLanesRetry => exact execHeldLanesRetry_keeps _ _ _ _ he h
  | joinFallback => exact execJoinFallback_keeps _ _ _ _ he h
  | symbolResolution => exact execSymbolResolution_keeps _ _ _ _ he h
  | faultRecordRetry => exact execFaultRecordRetry_keeps _ _ _ he h
  | trapEntry => exact execTrapEntry_keeps _ _ _ _ he h
  | uncorrectableError => exact execUncorrectableError_keeps _ _ _ he h
  | softError => exact execSoftError_keeps _ _ _ _ he h
  | copyCompletion => exact execCopyCompletion_keeps _ _ _ _ he h
  | tensorOperationCompletion => exact execTensorOperationCompletion_keeps _ _ _ _ he h
  | pullAnnouncement => exact execPullAnnouncement_keeps _ _ _ he h
  | callerGrant => exact execCallerGrant_keeps _ _ _ he h
  | pullToken => exact execPullToken_keeps _ _ _ he h
  | pullBeat => exact execPullBeat_keeps _ _ _ he h
  | pullNotice => exact execPullNotice_keeps _ _ _ _ _ he h
  | tokenExpiry => exact execTokenExpiry_keeps _ _ _ _ _ he h
  | orphan => exact execOrphan_keeps _ _ _ _ he h
  | abandon => exact execAbandon_keeps _ _ _ _ he h
  | callerSave => exact execCallerSave_keeps _ _ _ he h
  | samplerJobStart => exact execSamplerJobStart_keeps _ _ _ he h
  | samplerJobCompletion => exact execSamplerJobCompletion_keeps _ _ _ he h
  | peerRequest => exact execPeerRequest_keeps _ _ _ he h
  | readResponse => exact execReadResponse_keeps _ _ _ _ he h
  | ack => exact execAck_keeps _ _ _ _ he h
  | nack => exact execNack_keeps _ _ _ he h
  | peerTimeout => exact execPeerTimeout_keeps _ _ _ he h
  | multicastWrite => exact execMulticastWrite_keeps _ _ _ he h
  | multicastAck => exact execMulticastAck_keeps _ _ _ _ _ he h
  | multicastTimeout => exact execMulticastTimeout_keeps _ _ _ he h
  | linkControl => exact execLinkControl_keeps _ _ _ _ he h
  | linkDown => exact execLinkDown_keeps _ _ _ he h
  | linkTraining => exact execLinkTraining_keeps _ _ _ he h
  | transitFlit => exact execTransitFlit_keeps _ _ _ _ he h
end Sys2Proof.Machine

end

section

namespace Sys2Proof.Machine
open Sys2Proof

/-! Turns and steps (R140). -/

/-- The state that a candidate's try leaves, whether it runs its instruction or stops before it. -/
def Try.state : Try → State
  | .run _ s | .stop s => s

theorem State.try_wf {s : State} {c q k n : Nat} (h : Memory.wf s.mem) : Memory.wf (s.try_ c q k n).state.mem := by
  unfold State.try_
  split
  · exact h
  split
  · exact h
  dsimp only
  split
  · split
    · simpa [Try.state] using h
    · exact h
  split
  · simpa [Try.state] using h
  · exact trapOn_wf (by simpa using h)
  · exact fetchFails_wf (by simpa using h)

theorem tryCandidates_keeps (c q : Nat) (cs : List Candidate) {waited : Option Nat} :
    Event.Keeps fun s => tryCandidates s c q waited cs := by
  induction cs generalizing waited with
  | nil =>
    intro s t he h
    cases he
    exact h
  | cons x cs ih =>
    intro s t he h
    cases x with
    | condition k =>
      cases he
      simpa using h
    | splinter k n =>
      have hs := State.try_wf (c := c) (q := q) (k := k) (n := n) h
      dsimp only [tryCandidates] at he
      split at he
      · exact ih s t he h
      split at he
      · next ht =>
        rw [ht] at hs
        cases he
        simpa [Try.state] using hs
      · next i u ht =>
        rw [ht] at hs
        split at he
        · next v hv =>
          have hw : Memory.wf v.mem := exec_keeps i _ _ hv hs
          split at he
          · exact ih _ t he (by simpa using hw)
          · cases he
            simpa using hw
        · next hn => exact absurd he (hn t)

@[simp] theorem State.noteAble_mem (s : State) : s.noteAble.mem = s.mem := rfl

theorem State.inCycle_wf {s : State} {c q : Nat} (h : Memory.wf s.mem) : Memory.wf (s.inCycle c q).mem :=
  wf_ite (pass_wf (s := s.noteAble) h) h

/-- An event that happens only where it may keeps memory in canonical form when the event itself does. -/
theorem Event.Keeps.ite {p : State → Prop} [DecidablePred p] {f : Event} (hf : Event.Keeps f) :
    Event.Keeps fun s => if p s then f s else .next s := by
  intro s t he h
  dsimp only at he
  split at he
  · exact hf s t he h
  · cases he
    exact h

theorem turn_keeps (x : Turn) : Event.Keeps fun s => turn s x := by
  intro s t he h
  cases x with
  | issue c q =>
    dsimp only [turn] at he
    split at he
    · exact tryCandidates_keeps c q _ _ t he (State.inCycle_wf h)
    · cases he
      exact h
  | event i => exact (exec_keeps i).ite (p := fun s => s.mayHappen i) s t he h
  | arrive => exact arriveSelf_keeps s t he h
  | tick n =>
    cases he
    exact State.pass_wf (s := s.noteAble) h

theorem ownCutIn_keeps (c : Nat) : Event.Keeps (ownCutIn c) := (exec_keeps _).ite

theorem events_keep_ite {p : Prop} [Decidable p] {l l' : List Event} (h : ∀ f ∈ l, Event.Keeps f) (h' : ∀ f ∈ l', Event.Keeps f) :
    ∀ f ∈ if p then l else l', Event.Keeps f := by
  split
  · exact h
  · exact h'

theorem Core.events_keep {k : Core} {c : Nat} : ∀ f ∈ k.events c, Event.Keeps f := by
  simp only [Core.events, List.forall_mem_append, List.forall_mem_map]
  refine ⟨⟨⟨⟨⟨⟨⟨⟨?_, ?_⟩, ?_⟩, ?_⟩, ?_⟩, ?_⟩, ?_⟩, ?_⟩, ?_⟩
  · exact fun e _ => execTrapEntry_keeps c e.1
  · exact fun e _ => execSymbolResolution_keeps c e.1
  · exact fun i _ => execTensorOperationCompletion_keeps c i
  · exact fun e _ => execHeldLanesRetry_keeps c e.1
  · exact fun e _ => execJoinFallback_keeps c e.1
  · exact events_keep_ite (List.forall_mem_singleton.mpr (execCutInAnswer_keeps c)) (List.forall_mem_nil _)
  · exact events_keep_ite (List.forall_mem_nil _) (List.forall_mem_singleton.mpr (execFaultRecordRetry_keeps c))
  · exact fun e _ => execAbandon_keeps c e.1
  · exact events_keep_ite (List.forall_mem_nil _) (List.forall_mem_singleton.mpr (execTeamFormation_keeps c))

theorem Sector.events_keep {q : Sector} {n : Nat} : ∀ f ∈ q.events n, Event.Keeps f := by
  simp only [Sector.events, List.forall_mem_append, List.forall_mem_map]
  refine ⟨fun i _ => execCopyCompletion_keeps n i, events_keep_ite (List.forall_mem_nil _) ?_⟩
  exact List.forall_mem_cons.mpr ⟨execSamplerJobStart_keeps n, List.forall_mem_singleton.mpr (execSamplerJobCompletion_keeps n)⟩

theorem Partition.events_keep {q : Partition} {p : Nat} : ∀ f ∈ q.events p, Event.Keeps f := by
  simp only [Partition.events, List.forall_mem_append, List.forall_mem_cons, List.forall_mem_flatMap, List.forall_mem_map]
  have request (r : PullEntry) : (∀ i ∈ List.range 4, Event.Keeps (execTokenExpiry p r.id i)) ∧ Event.Keeps (execOrphan p r.id) ∧
      ∀ f ∈ ([] : List Event), Event.Keeps f :=
    ⟨fun i _ => execTokenExpiry_keeps p r.id i, execOrphan_keeps p r.id, List.forall_mem_nil _⟩
  refine ⟨⟨fun r _ => request r, fun r _ => request r⟩, execCallerSave_keeps p, ?_⟩
  exact events_keep_ite (List.forall_mem_singleton.mpr (execCallerGrant_keeps p)) (List.forall_mem_nil _)

theorem State.ownEvents_keep {s : State} : ∀ f ∈ s.ownEvents, Event.Keeps f := by
  simp only [State.ownEvents, List.forall_mem_append, List.forall_mem_flatMap, List.forall_mem_map]
  refine ⟨⟨⟨⟨⟨⟨⟨⟨?_, ?_⟩, ?_⟩, ?_⟩, ?_⟩, ?_⟩, ?_⟩, ?_⟩, ?_⟩
  · exact events_keep_ite (List.forall_mem_nil _) (List.forall_mem_singleton.mpr arriveSelf_keeps)
  · exact events_keep_ite (List.forall_mem_singleton.mpr execRomVerify_keeps) (List.forall_mem_nil _)
  · exact events_keep_ite (List.forall_mem_singleton.mpr execDownloadRetry_keeps) (List.forall_mem_nil _)
  · exact fun e _ => Core.events_keep
  · exact fun f _ => execOrderedRelease_keeps f.part f.label
  · exact fun e _ => Sector.events_keep
  · exact fun e _ => Partition.events_keep
  · intro x _
    split
    · exact execPeerTimeout_keeps x.tag
    · exact execMulticastTimeout_keeps x.tag
  · exact fun c _ => ownCutIn_keeps c

theorem State.changedBy_wf {s t : State} {f : Event} (hf : Event.Keeps f) (hc : s.changedBy f = some t) (h : Memory.wf s.mem) :
    Memory.wf t.mem := by
  unfold State.changedBy at hc
  split at hc
  · next u hu =>
    split at hc
    · cases hc
    · cases hc
      exact hf s t hu h
  · cases hc

theorem nextTurn_keeps : Event.Keeps State.nextTurn := by
  intro s t he h
  unfold State.nextTurn at he
  split at he
  · split at he
    · next u hu =>
      obtain ⟨f, hf, hc⟩ := List.exists_of_findSome?_eq_some hu
      cases he
      exact State.changedBy_wf (State.ownEvents_keep f hf) hc h
    · split at he
      · cases he
        exact State.pass_wf (s := s.noteAble) h
      · exact turn_keeps _ _ t he h
  · exact turn_keeps _ _ t he h

theorem step_keeps : Event.Keeps step := by
  intro s t he h
  unfold step at he
  cases hn : s.nextTurn with
  | next u =>
    rw [hn] at he
    cases he
    exact State.repay_wf (nextTurn_keeps s u hn h)
  | _ => rw [hn] at he; cases he

/-- Settles O6: memory is written through `storeBytes` alone, which keeps it canonical, so each instruction, each event and
the repayment of refused writes keep it so, and with them every turn. -/
theorem stepsKeepMemoryCanonical : Obligations.StepsKeepMemoryCanonical := by
  unfold Obligations.StepsKeepMemoryCanonical
  exact fun s t h he => step_keeps s t he h

end Sys2Proof.Machine

end

section

namespace Sys2Proof.Machine
open Sys2Proof

/-! Instructions that nothing holds up, by what becomes of them. -/

/-- An instruction whose checks pass has the effect of its body (R186). -/
theorem exec_ready {i : Instr} {r : Rules} {body : Ctx → Did} {s : State} {cx : Ctx} {d : Did} (hr : rulesOf i = some r)
    (he : exec i = perform r body) (h : s.ready? i = some cx) (hb : body cx = d) : exec i s = .next (cx.settle (cx.passesOf i) d) := by
  rw [he, perform_ready hr h, hb]

/-- An instruction that places its splinters itself leaves the state that its body names. -/
theorem exec_moved {i : Instr} {r : Rules} {body : Ctx → Did} {s t : State} {cx : Ctx} (hr : rulesOf i = some r)
    (he : exec i = perform r body) (h : s.ready? i = some cx) (hb : body cx = .moved t) : exec i s = .next t :=
  exec_ready hr he h hb

/-- An instruction that ends its team leaves the state that its body names. -/
theorem exec_gone {i : Instr} {r : Rules} {body : Ctx → Did} {s t : State} {cx : Ctx} (hr : rulesOf i = some r)
    (he : exec i = perform r body) (h : s.ready? i = some cx) (hb : body cx = .gone t) : exec i s = .next t :=
  exec_ready hr he h hb

/-- An instruction that is done goes on, with its flags. -/
theorem exec_done {i : Instr} {r : Rules} {body : Ctx → Did} {s t : State} {cx : Ctx} {g : Nat → FlagSet} (hr : rulesOf i = some r)
    (he : exec i = perform r body) (h : s.ready? i = some cx) (hb : body cx = .done t g) : exec i s = .next (cx.finish i t g) :=
  exec_ready hr he h hb

/-! Splinters placed by their instruction (R183, R205-R211, R238, R370). -/

theorem exec_br {s : State} {cx : Ctx} {cond : Operand} {off : BitVec 18} (h : s.ready? (.br cond off) = some cx) :
    exec (.br cond off) s = .next (cx.branched cx.s cond off) :=
  exec_moved rfl rfl h rfl

/-- A jump that waits for nothing and meets no misaligned target goes where the table says (R206). -/
theorem jump_moved {cx : Ctx} {passes : Nat} {d a : Operand} {t : State} (h : cx.jumped passes d a = some t) :
    cx.jump passes d a = .moved t := by
  simp only [Ctx.jumped, need_some, Bool.and_eq_true, Bool.not_eq_true', beq_iff_eq, Bool.or_eq_true, Option.some.injEq] at h
  obtain ⟨⟨⟨hd, ha⟩, hal⟩, hw, rfl⟩ := h
  simp only [Ctx.jump, hd, Bool.false_eq_true, if_false, blockOn64_clear ha, hal, bne_self_eq_false]
  refine if_neg fun hwait => ?_
  obtain ⟨hpart, hlate⟩ := Bool.and_eq_true_iff.mp hwait
  rcases hw with hw | hw
  · exact bne_iff_ne.mp hpart hw
  · exact Bool.false_ne_true (hw.symm.trans hlate)

theorem afterRelabel_moved {cx : Ctx} {s : State} {x : Team} (hs : cx.sys = false) (hx : s.team? cx.c cx.t = some x)
    (hw : (x.items.filter fun i => !i.ended && i.wtok && i.mask &&& cx.act != 0) ≠ []) :
    cx.afterRelabel s = .moved (s.setTeam cx.c cx.t ((x.idleOthers cx.n cx.wordPasses).divideTokens cx.n
      { cx.p with idle := 0, due := false } cx.onward
      ((x.items.filter fun i => !i.ended && i.wtok && i.mask &&& cx.act != 0).map fun i => i.mask &&& cx.act))) := by
  have hm : ((x.items.filter fun i => !i.ended && i.wtok && i.mask &&& cx.act != 0).map fun i => i.mask &&& cx.act) ≠ [] := by
    simpa only [ne_eq, List.map_eq_nil_iff] using hw
  simp only [Ctx.afterRelabel, hx, hm, if_false, hs, Bool.false_eq_true]
  rfl

/-- The word of a dictionary entry, where it is one that a dictionary word may name (R183). -/
def Ctx.namedWord (cx : Ctx) (i : BitVec 10) (hi : Bool) : Option (BitVec 32) :=
  match (cx.dictEntry i).2 with
  | .word w => need (entryWordOk w hi) <| some w
  | _ => none

theorem namedWord_some {cx : Ctx} {i : BitVec 10} {hi : Bool} {w : BitVec 32} (h : cx.namedWord i hi = some w) :
    (cx.dictEntry i).2 = .word w ∧ entryWordOk w hi = true := by
  unfold Ctx.namedWord at h
  split at h
  · next v hv =>
    obtain ⟨hok, hw⟩ := need_some.mp h
    cases hw
    exact ⟨hv, hok⟩
  · cases h

/-- Where an entry of a dictionary word is one that it may name, the entries behind it are looked at; with the half bit set the last of them issues
next, else the first (R184). -/
theorem armEntries_word {cx : Ctx} {pair hi : Bool} {next : Option (BitVec 32)} {i : BitVec 10} {w : BitVec 32}
    {rest : List (BitVec 10 × Bool)} (h : cx.namedWord i hi = some w) :
    cx.armEntries pair next ((i, hi) :: rest) = cx.armEntries pair (if cx.p.half then some w else next.or (some w)) rest := by
  obtain ⟨hw, hok⟩ := namedWord_some h
  obtain ⟨a, ha⟩ : ∃ a, cx.dictEntry i = (a, .word w) := ⟨_, Prod.ext rfl hw⟩
  simp only [Ctx.armEntries, ha, hok, if_true]

theorem placingInstruction_moves {i : Instr} {s t : State} {cx : Ctx} (h : s.ready? i = some cx) (hm : movedBy cx i = some t) :
    exec i s = .next t := by
  cases i with
  | br cond off =>
    cases hm
    exact exec_br h
  | call cond off =>
    simp only [movedBy, need_some, Option.some.injEq, Bool.or_eq_true, beq_iff_eq, Bool.not_eq_true'] at hm
    obtain ⟨hw, rfl⟩ := hm
    refine exec_moved rfl rfl h ?_
    refine if_neg fun hwait => ?_
    obtain ⟨hsome, hlate⟩ := Bool.and_eq_true_iff.mp hwait
    rcases hw with hw | hw
    · exact bne_iff_ne.mp hsome hw
    · exact Bool.false_ne_true (hw.symm.trans hlate)
  | brx a => exact exec_moved rfl rfl h (jump_moved hm)
  | ret a => exact exec_moved rfl rfl h (jump_moved hm)
  | callx d a => exact exec_moved rfl rfl h (jump_moved hm)
  | joinSet d a =>
    cases hm
    exact exec_moved rfl rfl h rfl
  | joinAdd d a =>
    cases hm
    exact exec_moved rfl rfl h rfl
  | joinClr d =>
    cases hm
    exact exec_moved rfl rfl h rfl
  | joinRem d a =>
    cases hm
    exact exec_moved rfl rfl h rfl
  | joinArr cond off =>
    cases hm
    exact exec_moved rfl rfl h rfl
  | exitLanes =>
    simp only [movedBy] at hm
    split at hm
    · next hs =>
      cases hm
      exact exec_gone rfl rfl h (if_pos hs)
    · next hs =>
      cases hm
      exact exec_moved rfl rfl h (if_neg hs)
  | flowSet a b =>
    simp only [movedBy, need_some, Option.bind_eq_some_iff, Bool.and_eq_true, Bool.not_eq_true', bne_iff_ne, ne_eq, Bool.or_eq_true,
      beq_iff_eq, decide_eq_true_eq, List.isEmpty_eq_false_iff, Option.some.injEq] at hm
    obtain ⟨⟨⟨⟨⟨hs, hst⟩, hu⟩, hp⟩, hk⟩, u, hr, x, hx, hw, rfl⟩ := hm
    refine exec_moved rfl rfl h ?_
    have hk' : (b != .zero && decide (3 ≤ ((cx.read b).at_ 0).toNat)) = false := by
      rcases hk with rfl | hk
      · rfl
      · simp only [Ctx.val] at hk
        simp [hk]
    simp only [hst, if_false, behind_unmarked hu, blockOn_clear hp, hk', Bool.false_eq_true]
    simp only [Ctx.relabelled, Ctx.val] at hr
    simp only [hr]
    exact afterRelabel_moved hs hx hw
  | sret =>
    cases hm
    exact exec_moved rfl rfl h rfl
  | dictionaryWord hi lo =>
    simp only [movedBy, need_some, Bool.and_eq_true, Bool.not_eq_true', Option.bind_eq_some_iff] at hm
    obtain ⟨⟨hd, hb⟩, w, hw, hm⟩ := hm
    change cx.namedWord hi _ = some w at hw
    refine exec_moved rfl rfl h ?_
    have hbar : (decide (cx.x.entry.dict = 0) || (cx.p.half && !(lo != 1023))) = false := by
      rw [hb, Bool.or_false, decide_eq_false_iff_not]
      exact bne_iff_ne.mp hd
    simp only [hbar, Bool.false_eq_true, if_false, armEntries_word hw]
    split at hm
    · next hpair =>
      simp only [Option.bind_eq_some_iff, Option.some.injEq] at hm
      obtain ⟨v, hv, rfl⟩ := hm
      change cx.namedWord lo false = some v at hv
      simp only [hpair, if_true, armEntries_word hv]
      cases cx.p.half <;> rfl
    · next hpair =>
      cases hm
      simp only [hpair]
      cases cx.p.half <;> rfl
  | _ => cases hm

/-- Settles O19: instruction by instruction, the body of each waits for nothing and places the splinters that the table names. -/
theorem placingInstructionsComplete : Obligations.PlacingInstructionsComplete := by
  unfold Obligations.PlacingInstructionsComplete
  exact fun _ _ _ _ => placingInstruction_moves

end Sys2Proof.Machine

end

section

namespace Sys2Proof.Machine
open Sys2Proof

/-! Splinters that a branch leaves (R47, R205). -/

@[simp] theorem length_splinters_idleOthers (x : Team) (n k : Nat) : (x.idleOthers n k).splinters.length = x.splinters.length := by
  simp [Team.idleOthers, Team.numbered]

/-- The passes counted against the other splinters leave their number and which of them count. -/
theorem roomFor_idleOthers (x : Team) (n k m : Nat) : (x.idleOthers n k).roomFor m = x.roomFor m := by
  have hn : (x.idleOthers n k).numbered = x.numbered.map fun e =>
      (e.1, if e.1 = n then { e.2 with idle := 0, due := false } else { e.2 with idle := min 1024 (e.2.idle + k) }) := by
    refine List.ext_getElem (by simp [Team.numbered]) fun i _ _ => ?_
    simp [Team.numbered, Team.idleOthers]
  unfold Team.roomFor
  rw [hn, List.filter_map, List.length_map]
  congr 3
  funext e
  simp only [Function.comp_apply]
  split <;> rfl

/-- The splinters that the parts with lanes become. -/
def partsWithLanes (parts : List (Mask × Splinter)) : List Splinter :=
  (parts.filter fun e => e.1 != 0).map fun e => { e.2 with mask := e.1 }

/-- A part without lanes is none. -/
theorem partsWithLanes_cons_none {m : Mask} (q : Splinter) (parts : List (Mask × Splinter)) (h : m = 0) :
    partsWithLanes ((m, q) :: parts) = partsWithLanes parts :=
  congrArg (List.map _) (List.filter_cons_of_neg (p := fun e : Mask × Splinter => e.1 != 0) (a := (m, q)) (by simpa using h))

theorem partsWithLanes_cons {m : Mask} (q : Splinter) (parts : List (Mask × Splinter)) (h : m ≠ 0) :
    partsWithLanes ((m, q) :: parts) = { q with mask := m } :: partsWithLanes parts :=
  congrArg (List.map _) (List.filter_cons_of_pos (p := fun e : Mask × Splinter => e.1 != 0) (a := (m, q)) (bne_iff_ne.mpr h))

/-- Where every part finds a place, the first takes the splinter's place and the others come last: no lane is held (R47). -/
theorem splinters_splitAt {x : Team} {n : Nat} {parts : List (Mask × Splinter)} (p : Splinter)
    (h : (partsWithLanes parts).length ≤ x.roomFor n) :
    (x.splitAt n p parts).splinters =
      x.splinters.take n ++ (partsWithLanes parts).take 1 ++ x.splinters.drop (n + 1) ++ (partsWithLanes parts).drop 1 := by
  have hlen : (parts.filter fun e => e.1 != 0).length ≤ x.roomFor n := by simpa only [partsWithLanes, List.length_map] using h
  simp only [Team.splitAt, List.drop_eq_nil_of_le hlen, List.take_of_length_le hlen, List.foldl_nil, beq_self_eq_true, if_true,
    List.append_nil, partsWithLanes]

/-- One part with lanes, and a place for it: the splinter goes on whole. -/
theorem splitAt_whole {x : Team} {n : Nat} {q : Splinter} {parts : List (Mask × Splinter)} (p : Splinter)
    (h : partsWithLanes parts = [q]) (hn : n < x.splinters.length) (hroom : 1 ≤ x.roomFor n) :
    (x.splitAt n p parts).splinters[n]? = some q := by
  rw [splinters_splitAt p (by rw [h]; exact hroom), h]
  simp [Nat.le_of_lt hn]

/-- Two parts with lanes, and two places: the first takes the splinter's place, the other comes last. -/
theorem splitAt_divided {x : Team} {n : Nat} {q r : Splinter} {parts : List (Mask × Splinter)} (p : Splinter)
    (h : partsWithLanes parts = [q, r]) (hroom : 2 ≤ x.roomFor n) :
    (x.splitAt n p parts).splinters = x.splinters.take n ++ [q] ++ x.splinters.drop (n + 1) ++ [r] := by
  rw [splinters_splitAt p (by rw [h]; exact hroom), h]
  rfl

/-- The team of a divided splinter, outside system mode. -/
theorem team?_divide {cx : Ctx} {s : State} {x : Team} (passes : Nat) (parts : List (Mask × Splinter))
    (hx : s.team? cx.c cx.t = some x) (hs : x.sys = none) :
    (cx.divide s passes parts).team? cx.c cx.t = some ((x.idleOthers cx.n (passes + cx.expansions s)).splitAt cx.n
      { cx.p with idle := 0, due := false, st := .able } parts) := by
  simp only [Ctx.divide, State.team?_onTeam_self, hx, Option.map_some, hs]

/-- The active lanes are lanes of the splinter that have not had the instruction's effect yet (R180). -/
theorem ctx_act {s : State} {cx : Ctx} (h : s.ctx? = some cx) : cx.act = cx.p.mask &&& ~~~cx.p.did := by
  unfold State.ctx? at h
  dsimp only at h
  split at h
  · cases h
  · split at h
    · cases h
    · split at h
      · cases h
      · cases h
        rfl

theorem guarded_and_act (cx : Ctx) : cx.guarded &&& cx.act = cx.guarded := by
  unfold Ctx.guarded
  split
  · exact BitVec.and_self
  · dsimp only
    split <;> ext l <;> simp <;> tauto

/-- A splinter at issue with an active lane has lanes. -/
theorem ready_mask {i : Instr} {s : State} {cx : Ctx} (h : s.ready? i = some cx) : cx.p.mask ≠ 0 := by
  obtain ⟨-, -, -, -, hact⟩ := ready_team h
  obtain ⟨cy, -, hc, -, -, rfl⟩ := ready_ctx h
  intro hmask
  refine hact ?_
  change cy.p.mask = 0 at hmask
  change cy.guarded = 0
  rw [← guarded_and_act, ctx_act hc, hmask]
  simp

theorem and_not_of_zero {w : Nat} (m : BitVec w) {k : BitVec w} (h : k = 0) : m &&& ~~~k = m := by
  rw [h, BitVec.ofNat_eq_ofNat, BitVec.not_zero, BitVec.and_allOnes]

theorem length_of_splinterAt {x : Team} {n : Nat} {p : Splinter} (hs : x.sys = none) (h : x.splinterAt n = some p) :
    n < x.splinters.length := by
  simp only [Team.splinterAt, hs] at h
  exact (List.getElem?_eq_some_iff.mp h).1

theorem sys_none_of_inSys {x : Team} (h : x.inSys = false) : x.sys = none := by
  simpa [Team.inSys] using h

/-- Settles O44: the branch's two parts are the taken lanes and the others; where one of them has no lane, the splinter goes on whole
as the other, and with two places both go on. -/
theorem branchesDivideSplinters : Obligations.BranchesDivideSplinters := by
  unfold Obligations.BranchesDivideSplinters
  intro s cx cond off h hsys hroom taken
  obtain ⟨hs, hx, hp, hin, -⟩ := ready_team h
  have hmask : cx.p.mask ≠ 0 := ready_mask h
  have hnone : cx.x.sys = none := sys_none_of_inSys (hin.symm.trans hsys)
  have hlen : cx.n < cx.x.splinters.length := length_of_splinterAt hnone hp
  subst hs
  refine ⟨_, _, exec_br h, team?_divide _ _ hx hnone, fun ht => ?_, fun ht => ?_, fun ht hr h2 => ?_⟩
  · change cx.holds cond = cx.p.mask at ht
    refine ⟨_, splitAt_whole _ (q := { cx.at_ (cx.target off) with mask := cx.p.mask }) ?_ (by simpa using hlen)
      (by rwa [roomFor_idleOthers]), rfl, rfl, rfl⟩
    rw [ht, partsWithLanes_cons _ _ hmask, partsWithLanes_cons_none _ _ (BitVec.and_not_self _)]
    rfl
  · change cx.holds cond = 0 at ht
    refine ⟨_, splitAt_whole _ (q := { cx.onward with mask := cx.p.mask }) ?_ (by simpa using hlen)
      (by rwa [roomFor_idleOthers]), rfl, rfl, rfl⟩
    rw [partsWithLanes_cons_none _ _ ht, and_not_of_zero cx.p.mask ht, partsWithLanes_cons _ _ hmask]
    rfl
  · rw [splitAt_divided _ (q := { cx.at_ (cx.target off) with mask := taken })
      (r := { cx.onward with mask := cx.p.mask &&& ~~~taken }) ?_ (by rwa [roomFor_idleOthers])]
    · refine ⟨?_, ⟨{ cx.at_ (cx.target off) with mask := taken }, by simp, rfl, rfl, rfl⟩,
        ⟨{ cx.onward with mask := cx.p.mask &&& ~~~taken }, by simp, rfl, rfl, rfl⟩⟩
      simp only [List.length_append, List.length_take, List.length_drop, List.length_singleton, length_splinters_idleOthers]
      omega
    · rw [partsWithLanes_cons _ _ ht, partsWithLanes_cons _ _ hr]
      rfl

end Sys2Proof.Machine

end

section

namespace Sys2Proof.Machine
open Sys2Proof

/-! Flow records (R31-R34, R239). -/

@[simp] theorem FlowRecord.settle_of (f : FlowRecord) (p label : Nat) : f.settle.of p label = f.of p label := by
  unfold FlowRecord.settle
  split <;> rfl

/-- The home core of a flow is a byte of the product (R31). -/
theorem homeOf_toNat (label : BitVec 32) : homeOf label.toNat = ((label * 0x9E3779B9#32).extractLsb' 24 8).toNat := by
  have hlt : label.toNat * 0x9E3779B9 % 2 ^ 32 / 2 ^ 24 < 2 ^ 8 := by omega
  have hc : (0x9E3779B9#32).toNat = 0x9E3779B9 := by decide
  rw [BitVec.extractLsb'_toNat, BitVec.toNat_mul, hc, Nat.shiftRight_eq_div_pow, Nat.mod_eq_of_lt hlt, homeOf]

theorem FlowRecord.of_other {f : FlowRecord} {p label q b : Nat} (h : f.of p label = true) (hne : (p, label) ≠ (q, b)) : f.of q b = false := by
  simp only [FlowRecord.of, Bool.and_eq_true, beq_iff_eq] at h
  obtain ⟨rfl, rfl⟩ := h
  rw [← Bool.not_eq_true]
  simpa [FlowRecord.of] using hne

/-- A record with its place left out (SPL, R34). -/
def FlowRecord.unplaced (f : FlowRecord) : FlowRecord := { f with spl := false }

/-- The records without those of one flow are the same for a search for another. -/
theorem find?_without (fs : List FlowRecord) {p label q b : Nat} (hne : (p, label) ≠ (q, b)) :
    ((fs.filter fun g => !g.of p label).find? fun g => g.of q b) = fs.find? fun g => g.of q b := by
  rw [List.find?_filter]
  congr 1
  funext g
  cases hg : g.of p label with
  | false => simp
  | true => simp [FlowRecord.of_other hg hne]

/-- A record as it is written: NEXTR settled, at its home, and the last one used (R33, R34). -/
def State.asWritten (s : State) (f : FlowRecord) : FlowRecord := { f.settle with spl := false, used := s.flowClock + 1 }

/-- A record after that of a flow has been spilled (R34). -/
def FlowRecord.afterSpill (p label : Nat) (g : FlowRecord) : FlowRecord := if g.of p label then { g with spl := true } else g

theorem FlowRecord.afterSpill_of (p label q b : Nat) (g : FlowRecord) : (g.afterSpill p label).of q b = g.of q b := by
  unfold FlowRecord.afterSpill
  split <;> rfl

theorem FlowRecord.afterSpill_unplaced (p label : Nat) (g : FlowRecord) : (g.afterSpill p label).unplaced = g.unplaced := by
  unfold FlowRecord.afterSpill
  split <;> rfl

theorem asWritten_of (s : State) {f : FlowRecord} {q b : Nat} (hne : (f.part, f.label) ≠ (q, b)) : (s.asWritten f).of q b = false :=
  (FlowRecord.settle_of f q b).trans (FlowRecord.of_other (by simp [FlowRecord.of]) hne)

/-- A write of a flow's record: it is freed when idle, else it stands first, and one record may be spilled (R34). -/
theorem flows_setFlow (s : State) (f : FlowRecord) :
    let rest := s.flows.filter fun g => !g.of f.part f.label
    (s.setFlow f).flows = rest ∨ (s.setFlow f).flows = s.asWritten f :: rest ∨
      ∃ v : FlowRecord, (s.setFlow f).flows = (s.asWritten f :: rest).map (FlowRecord.afterSpill v.part v.label) := by
  intro rest
  by_cases hidle : (s.asWritten f).idle = true
  · exact .inl (congrArg State.flows (if_pos hidle))
  · refine .inr ?_
    rw [show s.setFlow f = _ from if_neg hidle]
    split
    · exact .inl rfl
    · next v _ => exact .inr ⟨v, rfl⟩

theorem find?_spilled (fs : List FlowRecord) (p label q b : Nat) :
    ((fs.map (FlowRecord.afterSpill p label)).find? fun g => g.of q b).map FlowRecord.unplaced =
      (fs.find? fun g => g.of q b).map FlowRecord.unplaced := by
  have hof : (fun g : FlowRecord => g.of q b) ∘ FlowRecord.afterSpill p label = fun g => g.of q b := funext (FlowRecord.afterSpill_of p label q b)
  have hplace : FlowRecord.unplaced ∘ FlowRecord.afterSpill p label = FlowRecord.unplaced := funext (FlowRecord.afterSpill_unplaced p label)
  rw [List.find?_map, hof, Option.map_map, hplace]

/-- What a search for another flow finds after a record is written. -/
theorem find?_setFlow (s : State) {f : FlowRecord} {q b : Nat} (hne : (f.part, f.label) ≠ (q, b)) :
    ((s.setFlow f).flows.find? fun g => g.of q b).map FlowRecord.unplaced = (s.flows.find? fun g => g.of q b).map FlowRecord.unplaced := by
  have hrest := find?_without s.flows hne
  have hkept : ((s.asWritten f :: s.flows.filter fun g => !g.of f.part f.label).find? fun g => g.of q b) =
      s.flows.find? fun g => g.of q b := by
    rw [List.find?_cons, asWritten_of s hne, hrest]
  obtain hfreed | hwritten | ⟨v, hspilled⟩ := flows_setFlow s f
  · rw [hfreed, hrest]
  · rw [hwritten, hkept]
  · rw [hspilled, find?_spilled, hkept]

theorem unplaced_flow (s : State) (q b : Nat) :
    (s.flow q b).unplaced = ((s.flows.find? fun g => g.of q b).map FlowRecord.unplaced).getD { part := q, label := b } := by
  unfold State.flow
  cases s.flows.find? fun g => g.of q b <;> rfl

/-- Settles O50: the home is a byte of the product, and a write of one flow's record, with the spill that it may bring, changes no other
record but for its place. -/
theorem flowsHaveHomesAndRecordsOfTheirOwn : Obligations.FlowsHaveHomesAndRecordsOfTheirOwn := by
  unfold Obligations.FlowsHaveHomesAndRecordsOfTheirOwn
  refine ⟨homeOf_toNat, by decide, fun s f q b hne => ?_⟩
  change ((s.setFlow f).flow q b).unplaced = (s.flow q b).unplaced
  rw [unplaced_flow, unplaced_flow, find?_setFlow s hne]

/-- A flow without a record reads the reset values (R33, R34). -/
theorem flow_idle {s : State} {p label : Nat} (h : ∀ g ∈ s.flows, ¬ (g.part = p ∧ g.label = label)) :
    s.flow p label = { part := p, label := label } := by
  have hnone : (s.flows.find? fun g => g.of p label) = none :=
    List.find?_eq_none.mpr fun g hg => by simpa [FlowRecord.of] using h g hg
  rw [State.flow, hnone, Option.getD_none]

/-- Settles O51: with its operand known and its destination free, `flow.q` waits for nothing, and writes what the record holds. -/
theorem flowQueryReadsTheFlow : Obligations.FlowQueryReadsTheFlow := by
  unfold Obligations.FlowQueryReadsTheFlow
  intro s cx d a h hp hd label f
  obtain ⟨hs, -⟩ := ready_team h
  refine ⟨exec_done rfl rfl h ?_, fun hidle => ?_⟩
  · subst hs
    simp only [hd, Bool.false_eq_true, if_false, blockOn_clear hp]
    rfl
  · have hf : f = { part := cx.part, label := label } := flow_idle hidle
    rw [hf]
    exact ⟨rfl, rfl, rfl⟩

end Sys2Proof.Machine

end

section

namespace Sys2Proof.Machine
open Sys2Proof

/-! Events whose conditions hold (log entry 11). -/

/-- An event that happens where its condition holds. -/
theorem next_of_need {b : Bool} {u s t : State} (h : need b (some u) = some t) :
    (.next (if b then u else s) : Host.Outcome State Fault Refusal) = .next t := by
  obtain ⟨hb, hu⟩ := need_some.mp h
  cases hu
  rw [if_pos hb]

/-- An event that does nothing where something bars it. -/
theorem next_of_need_not {b : Bool} {u s t : State} (h : need (!b) (some u) = some t) :
    (.next (if b then s else u) : Host.Outcome State Fault Refusal) = .next t := by
  obtain ⟨hb, hu⟩ := need_some.mp h
  cases hu
  rw [if_neg (by simpa using hb)]

/-! Events of boot, power, temperature and management (R399-R403, R408, R409). -/

theorem bootEvent_happens {i : Instr} {s t : State} (h : bootEvent s i = some t) : exec i s = .next t := by
  cases i with
  | powerOn =>
    obtain ⟨hp, hu⟩ := need_some.mp h
    cases hu
    exact congrArg _ (if_pos (beq_iff_eq.mp hp))
  | romVerify =>
    obtain ⟨hp, hu⟩ := need_some.mp h
    obtain rfl := Option.some.inj hu
    change execRomVerify s = _
    have hrom : (s.power != .rom) = false := by simpa using hp
    simp only [execRomVerify, hrom, Bool.false_eq_true, if_false, romImage]
    cases flashImageOk 0 with
    | true => rfl
    | false => cases flashImageOk 0x800000 <;> rfl
  | firmwareDownload image =>
    obtain ⟨hp, hu⟩ := need_some.mp h
    cases hu
    simp only [Bool.and_eq_true, beq_iff_eq, Option.isNone_iff_eq_none] at hp
    obtain ⟨⟨⟨hstage, hretry⟩, hport⟩, hok⟩ := hp
    change execFirmwareDownload image s = _
    simp [execFirmwareDownload, hstage, hretry, hport, hok]
  | downloadRetry =>
    obtain ⟨u, hu, h⟩ := Option.bind_eq_some_iff.mp h
    obtain ⟨hp, ht⟩ := need_some.mp h
    cases ht
    change execDownloadRetry s = _
    simp only [Bool.and_eq_true, beq_iff_eq] at hp
    simp [execDownloadRetry, hu, hp]
  | resetPin =>
    cases h
    rfl
  | powerRemoved =>
    cases h
    rfl
  | thermalWarning n => exact next_of_need h
  | thermalTrip n => exact next_of_need h
  | attestationQuote nonce =>
    refine next_of_need_not (b := !s.manages || nonce.length != 64) ?_
    rwa [Bool.not_or, Bool.not_not, bne, Bool.not_not]
  | managementRead what => exact next_of_need h
  | _ => cases h

/-! Events of the scheduler, and errors (R38, R47, R48, R68, R88, R138, R140, R145, R355, R378, R380, R405). -/

/-- A trap entry that waited for memory is completed, or a pending condition is taken (R354, R355). -/
theorem trapEvent_happens {s t : State} {c n : Nat} (h : s.trapEvent c n = some t) : execTrapEntry c n s = .next t := by
  obtain ⟨x, hx, h⟩ := Option.bind_eq_some_iff.mp h
  obtain ⟨hsys, h⟩ := need_some.mp h
  simp only [Bool.not_eq_true'] at hsys
  simp only [execTrapEntry, hx, hsys, Bool.false_eq_true, if_false]
  split at h
  · next htrap =>
    rw [if_pos htrap]
    exact next_of_need h
  · next htrap =>
    rw [if_neg htrap]
    exact next_of_need h

theorem uncorrectableError_happens {s t : State} {site : ErrorSite} (h : coreEvent s (.uncorrectableError site) = some t) :
    execUncorrectableError site s = .next t := by
  cases site with
  | line pa =>
    obtain ⟨hp, hu⟩ := need_some.mp h
    obtain rfl := Option.some.inj hu
    obtain ⟨hup, hpa⟩ := Bool.and_eq_true_iff.mp hp
    simp only [execUncorrectableError, hup, hpa, Bool.not_true, Bool.false_eq_true, if_false]
    rfl
  | team c n =>
    obtain ⟨hp, hu⟩ := need_some.mp h
    obtain ⟨x, hx, rfl⟩ := Option.map_eq_some_iff.mp hu
    obtain ⟨hup, hlive⟩ := Bool.and_eq_true_iff.mp hp
    have hlive' : (s.power == .halted) = false := by simpa using hlive
    simp only [execUncorrectableError, hup, hx, hlive', Bool.not_true, Bool.false_eq_true, if_false]

theorem coreEvent_happens {i : Instr} {s t : State} (h : coreEvent s i = some t) : exec i s = .next t := by
  cases i with
  | energyWindow measured => exact next_of_need h
  | teamFormation c => exact next_of_need h
  | orderedRelease p label =>
    obtain ⟨q, hq, rfl⟩ := Option.map_eq_some_iff.mp h
    change execOrderedRelease p label s = _
    simp only [execOrderedRelease, hq]
  | cutIn c =>
    refine next_of_need_not (b := !s.runs || !s.idleCore c) ?_
    rwa [Bool.not_or, Bool.not_not, Bool.not_not]
  | cutInAnswer c =>
    obtain ⟨a, ha, rfl⟩ := Option.map_eq_some_iff.mp h
    change execCutInAnswer c s = _
    simp only [execCutInAnswer, ha]
  | teamStarvation c q =>
    cases h
    rfl
  | splinterStarvation c n =>
    cases h
    rfl
  | heldLanesRetry c n =>
    obtain ⟨x, hx, h⟩ := Option.bind_eq_some_iff.mp h
    obtain ⟨k, hk, rfl⟩ := Option.map_eq_some_iff.mp h
    change execHeldLanesRetry c n s = _
    simp only [execHeldLanesRetry, State.onTeam_of_some _ hx, hk]
  | joinFallback c n =>
    obtain ⟨x, hx, h⟩ := Option.bind_eq_some_iff.mp h
    obtain ⟨j, hj, rfl⟩ := Option.map_eq_some_iff.mp h
    change execJoinFallback c n s = _
    simp only [execJoinFallback, State.onTeam_of_some _ hx, hj]
  | symbolResolution c n =>
    obtain ⟨y, -, h⟩ := Option.bind_eq_some_iff.mp h
    obtain ⟨-, hu⟩ := need_some.mp h
    cases hu
    rfl
  | faultRecordRetry c =>
    cases h
    rfl
  | trapEntry c n => exact trapEvent_happens h
  | uncorrectableError site => exact uncorrectableError_happens h
  | softError c n => exact next_of_need h
  | _ => cases h

/-! Messages of the pull protocol taken in (R12, R323). -/

/-- A message over Ultra Ethernet that is taken in matches an entry, and goes on with it. -/
theorem overUe_taken {s u : State} {p : Nat} {from_ : UeFrom} {o : Option Nat} (h : s.taken p (some from_) = some (u, o)) :
    ∃ i, o = some i ∧ ∀ c k, s.overUe c p from_ k = k u i := by
  simp only [State.taken, Option.bind_eq_some_iff, need_some, Option.some.injEq, Prod.mk.injEq] at h
  obtain ⟨i, hi, hup, rfl, rfl⟩ := h
  refine ⟨i, rfl, fun c k => ?_⟩
  unfold State.overUe
  extract_lets
  split
  · next j hj =>
    obtain rfl := Option.some.inj (hi.symm.trans hj)
    exact if_pos hup
  · next hn => cases hi.symm.trans hn

/-- A message that is taken in by the path of its transfer goes on. -/
theorem overPath_taken {s u : State} {p : Nat} {ue : Bool} {from_ : Option UeFrom} (c : Nat) (k : State → State)
    (h : s.takenBy p ue from_ = some u) : s.overPath c p ue from_ k = k u := by
  obtain ⟨⟨v, o⟩, hv, h⟩ := Option.bind_eq_some_iff.mp h
  obtain ⟨hpath, hu⟩ := need_some.mp h
  obtain rfl := Option.some.inj hu
  cases from_ with
  | none =>
    cases hv
    obtain rfl := beq_iff_eq.mp hpath
    rfl
  | some from_ =>
    obtain ⟨i, rfl, hk⟩ := overUe_taken hv
    obtain rfl := beq_iff_eq.mp hpath
    rw [State.overPath, hk]
    rfl

/-! Events of the engines (R271, R289-R291, R298-R308, R333, R337). -/

/-- A sender that is under way is neither free nor done (R306). -/
theorem underWay_iff {x : Handle} : x.underWay = true ↔ (x.st != .draining) = false ∧ (x.sst != 1) = false := by
  simp [Handle.underWay]

theorem copyCompletion_happens {s t : State} {n i : Nat} (h : engineEvent s (.copyCompletion n i) = some t) :
    execCopyCompletion n i s = .next t := by
  obtain ⟨x, hx, h⟩ := Option.bind_eq_some_iff.mp h
  obtain ⟨hp, hu⟩ := need_some.mp h
  obtain rfl := Option.some.inj hu
  obtain ⟨hw, hi⟩ := Bool.and_eq_true_iff.mp hp
  have hbar : ¬ (x.stall.waiting || decide (6 ≤ i)) = true := by
    simp only [Bool.not_eq_true', decide_eq_true_eq] at hw hi
    simp [hw, hi]
  simp only [execCopyCompletion, hx, if_neg hbar]
  rfl

theorem pullAnnouncement_happens {s t : State} {a : Announcement} (h : engineEvent s (.pullAnnouncement a) = some t) :
    execPullAnnouncement a s = .next t := by
  obtain ⟨hin, h⟩ := need_some.mp h
  obtain ⟨⟨u, o⟩, hu, h⟩ := Option.bind_eq_some_iff.mp h
  obtain ⟨hacc, hv⟩ := need_some.mp h
  obtain rfl := Option.some.inj hv
  simp only [execPullAnnouncement, hin, Bool.not_true, Bool.false_eq_true, if_false]
  cases hue : a.ue with
  | none =>
    rw [hue] at hu
    cases hu
    exact congrArg _ (if_pos hacc)
  | some from_ =>
    rw [hue] at hu
    obtain ⟨i, rfl, hk⟩ := overUe_taken hu
    simp only [hk]
    exact congrArg _ (if_pos hacc)

theorem pullToken_happens {s t : State} {k : PullToken} (h : engineEvent s (.pullToken k) = some t) : execPullToken k s = .next t := by
  obtain ⟨hp, h⟩ := need_some.mp h
  obtain ⟨u, hu, rfl⟩ := Option.map_eq_some_iff.mp h
  simp only [Bool.and_eq_true, decide_eq_true_eq] at hp
  obtain ⟨⟨hin, hway⟩, hlen⟩ := hp
  obtain ⟨hst, hsst⟩ := underWay_iff.mp hway
  have hlen' : ¬ (s.handle k.core k.handle).len.toNat < k.off + k.len := Nat.not_lt.mpr hlen
  simp only [execPullToken, hin, hst, hsst, hlen', Bool.not_true, Bool.or_self, decide_false, Bool.false_eq_true, if_false]
  rw [overPath_taken _ _ hu]

theorem pullBeat_happens {s t : State} {b : PullBeat} (h : engineEvent s (.pullBeat b) = some t) : execPullBeat b s = .next t := by
  obtain ⟨r, hr, h⟩ := Option.bind_eq_some_iff.mp h
  obtain ⟨hin, h⟩ := need_some.mp h
  obtain ⟨u, hu, rfl⟩ := Option.map_eq_some_iff.mp h
  simp only [execPullBeat, hin, hr, Bool.not_true, Bool.false_eq_true, if_false]
  rw [overPath_taken _ _ hu]

theorem pullNotice_happens {s t : State} {c k : Nat} {n : PullNote} (h : engineEvent s (.pullNotice c k n) = some t) :
    execPullNotice c k n s = .next t := by
  obtain ⟨hp, h⟩ := need_some.mp h
  obtain ⟨u, hu, rfl⟩ := Option.map_eq_some_iff.mp h
  obtain ⟨hin, hway⟩ := Bool.and_eq_true_iff.mp hp
  obtain ⟨hst, hsst⟩ := underWay_iff.mp hway
  simp only [execPullNotice, hin, hst, hsst, Bool.not_true, Bool.or_self, Bool.false_eq_true, if_false]
  rw [overPath_taken _ _ hu]

theorem engineEvent_happens {i : Instr} {s t : State} (h : engineEvent s i = some t) : exec i s = .next t := by
  cases i with
  | copyCompletion n i => exact copyCompletion_happens h
  | tensorOperationCompletion c i =>
    obtain ⟨o, ho, h⟩ := Option.bind_eq_some_iff.mp h
    change execTensorOperationCompletion c i s = _
    simp only [execTensorOperationCompletion, ho]
    refine next_of_need_not ?_
    rwa [Bool.not_or]
  | pullAnnouncement a => exact pullAnnouncement_happens h
  | callerGrant p =>
    refine next_of_need_not (b := !s.intakes || (s.part p).preempted) ?_
    rwa [Bool.not_or, Bool.not_not]
  | pullToken k => exact pullToken_happens h
  | pullBeat b => exact pullBeat_happens h
  | pullNotice c k n => exact pullNotice_happens h
  | tokenExpiry p q slot =>
    obtain ⟨r, hr, h⟩ := Option.bind_eq_some_iff.mp h
    change execTokenExpiry p q slot s = _
    simp only [execTokenExpiry, hr]
    exact next_of_need h
  | orphan p q =>
    obtain ⟨r, hr, h⟩ := Option.bind_eq_some_iff.mp h
    change execOrphan p q s = _
    simp only [execOrphan, hr]
    exact next_of_need h
  | abandon c k => exact next_of_need h
  | callerSave p => exact next_of_need h
  | samplerJobStart n =>
    obtain ⟨x, hx, h⟩ := Option.bind_eq_some_iff.mp h
    obtain ⟨r, hr⟩ := List.head?_eq_some_iff.mp hx
    change execSamplerJobStart n s = _
    simp only [execSamplerJobStart, hr]
    simp only [hr, List.tail_cons] at h
    exact next_of_need_not h
  | samplerJobCompletion n =>
    obtain ⟨x, hx, h⟩ := Option.bind_eq_some_iff.mp h
    obtain ⟨r, hr⟩ := List.head?_eq_some_iff.mp hx
    change execSamplerJobCompletion n s = _
    simp only [execSamplerJobCompletion, hr]
    refine next_of_need_not ?_
    rwa [Bool.not_or, Bool.not_not]
  | _ => cases h

/-! Events of the fabric (R313-R321, R327-R332). -/

theorem ack_happens {s t : State} {tag : Nat} {olds : List (Nat × BitVec 64)} (h : fabricEvent s (.ack tag olds) = some t) :
    execAck tag olds s = .next t := by
  obtain ⟨x, hx, h⟩ := Option.bind_eq_some_iff.mp h
  obtain ⟨hin, h⟩ := need_some.mp h
  simp only [execAck, hx, hin, Bool.not_true, Bool.false_eq_true, if_false]
  cases hrelay : x.relay with
  | some key =>
    simp only [hrelay] at h
    cases h
    rfl
  | none =>
    simp only [hrelay] at h
    split at h
    · next hrel =>
      cases h
      exact congrArg _ (if_pos hrel)
    · next hrel =>
      rw [if_neg hrel]
      exact next_of_need h

theorem nack_happens {s t : State} {m : NackMsg} (h : fabricEvent s (.nack m) = some t) : execNack m s = .next t := by
  obtain ⟨x, hx, h⟩ := Option.bind_eq_some_iff.mp h
  obtain ⟨hin, h⟩ := need_some.mp h
  simp only [execNack, hx, hin, Bool.not_true, Bool.false_eq_true, if_false]
  cases hrelay : x.relay with
  | some key =>
    simp only [hrelay] at h
    cases h
    rfl
  | none =>
    simp only [hrelay] at h
    split at h
    · next hrel =>
      cases h
      exact congrArg _ (if_pos hrel)
    · next hrel =>
      rw [if_neg hrel]
      refine next_of_need_not ?_
      rwa [Bool.not_not]

theorem multicastTimeout_happens {s t : State} {tag : Nat} (h : fabricEvent s (.multicastTimeout tag) = some t) :
    execMulticastTimeout tag s = .next t := by
  obtain ⟨x, hx, h⟩ := Option.bind_eq_some_iff.mp h
  obtain ⟨hlate, h⟩ := need_some.mp h
  simp only [execMulticastTimeout, hx, hlate, Bool.not_true, Bool.false_eq_true, if_false]
  cases hrelay : x.relay with
  | some key =>
    simp only [hrelay] at h
    cases h
    rfl
  | none =>
    simp only [hrelay] at h
    exact next_of_need h

theorem linkControl_happens {s t : State} {n : Nat} {m : LinkNote} (h : fabricEvent s (.linkControl n m) = some t) :
    execLinkControl n m s = .next t := by
  obtain ⟨hp, h⟩ := need_some.mp h
  obtain ⟨hin, hup⟩ := Bool.and_eq_true_iff.mp hp
  simp only [execLinkControl, hin, hup, Bool.not_true, Bool.or_self, Bool.false_eq_true, if_false]
  dsimp only at h
  split at h
  · next hreplay =>
    rw [if_pos hreplay]
    exact congrArg _ (Option.some.inj h)
  · next hreplay =>
    rw [if_neg hreplay]
    split at h
    · next hack =>
      rw [if_pos hack]
      exact congrArg _ (Option.some.inj h)
    · next hack =>
      rw [if_neg hack]
      exact next_of_need h

theorem transitFlit_happens {s t : State} {n : Nat} {f : Flit} (h : fabricEvent s (.transitFlit n f) = some t) :
    execTransitFlit n f s = .next t := by
  obtain ⟨plain, hplain, h⟩ := Option.bind_eq_some_iff.mp h
  obtain ⟨hp, hopen⟩ := need_some.mp hplain
  simp only [Bool.and_eq_true, beq_iff_eq] at hp
  obtain ⟨⟨hin, hup⟩, hturn⟩ := hp
  have hturn' : (f.counter != (s.link n).rx) = false := by simp [hturn]
  simp only [execTransitFlit, hin, hup, hturn', hopen, Bool.not_true, Bool.or_self, Bool.false_eq_true, if_false]
  exact next_of_need_not h

theorem fabricEvent_happens {i : Instr} {s t : State} (h : fabricEvent s i = some t) : exec i s = .next t := by
  cases i with
  | peerRequest m => exact next_of_need h
  | readResponse tag vals =>
    obtain ⟨x, hx, h⟩ := Option.bind_eq_some_iff.mp h
    change execReadResponse tag vals s = _
    simp only [execReadResponse, hx]
    exact next_of_need h
  | ack tag olds => exact ack_happens h
  | nack m => exact nack_happens h
  | peerTimeout tag =>
    obtain ⟨x, hx, h⟩ := Option.bind_eq_some_iff.mp h
    change execPeerTimeout tag s = _
    simp only [execPeerTimeout, hx]
    refine next_of_need_not ?_
    rwa [Bool.not_not]
  | multicastWrite m => exact next_of_need h
  | multicastAck tag col b => exact next_of_need h
  | multicastTimeout tag => exact multicastTimeout_happens h
  | linkControl n m => exact linkControl_happens h
  | linkDown n => exact next_of_need h
  | linkTraining x =>
    obtain ⟨port, hport, h⟩ := Option.bind_eq_some_iff.mp h
    change execLinkTraining x s = _
    simp only [execLinkTraining, hport]
    exact next_of_need h
  | transitFlit n f => exact transitFlit_happens h
  | _ => cases h

/-- Settles O20: family by family, each event whose conditions hold leaves what the table says. -/
theorem eventsHappen : Obligations.EventsHappen := by
  unfold Obligations.EventsHappen
  intro i s t h
  simp only [eventOf, Option.or_eq_some_iff] at h
  obtain (hboot | ⟨-, hcore⟩) | ⟨-, hengine | ⟨-, hfabric⟩⟩ := h
  · exact bootEvent_happens hboot
  · exact coreEvent_happens hcore
  · exact engineEvent_happens hengine
  · exact fabricEvent_happens hfabric

end Sys2Proof.Machine

end


section

/-! The lanes of a mask, and tables over them (R7, R57). -/

namespace Sys2Proof.Machine
open Sys2Proof

theorem mem_lanesFrom (f k m l : Nat) : l ∈ lanesFrom f k m ↔ k ≤ l ∧ l < k + f ∧ m.testBit (l - k) = true := by
  induction f generalizing k m with
  | zero => simp [lanesFrom]; omega
  | succ f ih =>
    have hhead : l = k → l - k = 0 := by omega
    have htail : k < l → m.testBit (l - k) = (m / 2).testBit (l - (k + 1)) := fun h => by
      rw [show l - k = l - (k + 1) + 1 by omega, Nat.testBit_succ]
    have hlow : m.testBit 0 = decide (m % 2 = 1) := Nat.testBit_zero m
    unfold lanesFrom
    rcases Nat.lt_trichotomy l k with h | h | h
    · split_ifs <;> simp [ih] <;> omega
    · subst h
      by_cases h0 : m = 0
      · simp [h0]
      · by_cases h1 : m % 2 = 1 <;> simp [ih, h0, h1]
    · rw [htail h]
      by_cases h0 : m = 0
      · simp [h0]
      · have hin : k ≤ l ∧ l < k + (f + 1) ↔ k + 1 ≤ l ∧ l < k + 1 + f := by omega
        by_cases h1 : m % 2 = 1 <;> simp [ih, h0, h1, ← and_assoc, hin, show ¬ l = k by omega]

theorem mem_lanesOf {m : Mask} {l : Nat} : l ∈ lanesOf m ↔ m.getLsbD l = true := by
  unfold lanesOf
  rw [mem_lanesFrom, BitVec.getLsbD]
  constructor
  · rintro ⟨-, -, h⟩; simpa using h
  · intro h
    have hl : l < 1024 := by
      by_contra hge
      simp [BitVec.testBit_toNat, BitVec.getLsbD_of_ge m l (by omega)] at h
    exact ⟨by omega, by omega, by simpa using h⟩

theorem lanesFrom_sorted (f k m : Nat) : (lanesFrom f k m).Pairwise (· < ·) := by
  induction f generalizing k m with
  | zero => exact .nil
  | succ f ih =>
    unfold lanesFrom
    split_ifs
    · exact .nil
    · refine List.pairwise_cons.2 ⟨fun l h => ?_, ih _ _⟩
      have := ((mem_lanesFrom _ _ _ _).1 h).1
      omega
    · exact ih _ _

theorem lanesOf_sorted (m : Mask) : (lanesOf m).Pairwise (· < ·) := lanesFrom_sorted _ _ _

theorem lanesOf_eq_nil {m : Mask} : lanesOf m = [] ↔ m = 0 := by
  rw [List.eq_nil_iff_forall_not_mem]
  constructor
  · intro h
    refine BitVec.eq_of_getLsbD_eq fun l _ => ?_
    simpa [mem_lanesOf] using h l
  · rintro rfl l h
    simp [mem_lanesOf] at h

theorem getLsbD_lowLane {m : Mask} (h : m ≠ 0) : m.getLsbD (lowLane m) = true := by
  rw [← mem_lanesOf]
  have hne : lanesOf m ≠ [] := fun e => h (lanesOf_eq_nil.1 e)
  unfold lowLane
  cases hl : lanesOf m with
  | nil => exact absurd hl hne
  | cons a r => simp

/-- Reading a table that lists, in the order of its lanes, what a function gives for some of them. -/
theorem at?_filterMap {α : Type} (g : Nat → Option α) (ls : List Nat) (hs : ls.Pairwise (· < ·)) (l : Nat) :
    SMap.at? (ls.filterMap fun k => (g k).map fun v => (k, v)) l = if l ∈ ls then g l else none := by
  induction ls with
  | nil => rfl
  | cons k r ih =>
    obtain ⟨hk, hr⟩ := List.pairwise_cons.1 hs
    have hkr : k ∉ r := fun h => absurd (hk k h) (Nat.lt_irrefl k)
    cases hg : g k with
    | none =>
      rw [List.filterMap_cons_none (by simp [hg]), ih hr]
      by_cases hl : l = k
      · subst hl; simp [hkr, hg]
      · simp [hl]
    | some v =>
      rw [List.filterMap_cons_some (b := (k, v)) (by simp [hg]), SMap.at?]
      by_cases hl : l = k
      · subst hl; simp [hg]
      · simp [Ne.symm hl, hl, ih hr]

@[simp] theorem at?_originTable (m : Mask) (o : Nat → Option Origin) (l : Nat) :
    SMap.at? (originTable m o) l = if m.getLsbD l then o l else none := by
  unfold originTable
  rw [at?_filterMap o _ (lanesOf_sorted m)]
  simp only [mem_lanesOf]

@[simp] theorem atD_laneTable (m : Mask) (f : Nat → W32) (l : Nat) :
    SMap.atD (laneTable m f) l 0#32 = if m.getLsbD l then f l else 0#32 := by
  have hf : laneTable m f = (lanesOf m).filterMap fun k => (if f k = 0 then none else some (f k)).map fun v => (k, v) := by
    unfold laneTable
    congr 1; funext k
    split_ifs <;> rfl
  unfold SMap.atD
  rw [hf, at?_filterMap _ _ (lanesOf_sorted m)]
  simp only [mem_lanesOf]
  split_ifs <;> simp_all

theorem atD_overlay (old : SMap W32) (m : Mask) (f : Nat → W32) (l : Nat) :
    SMap.atD (overlay old m f) l 0#32 = if m.getLsbD l then f l else SMap.atD old l 0#32 := by
  have hfold (ls : List Nat) : ∀ t : SMap W32, SMap.atD (ls.foldl (fun t l => SMap.store 0#32 t l (f l)) t) l 0#32 =
      if l ∈ ls then f l else SMap.atD t l 0#32 := by
    induction ls with
    | nil => simp
    | cons k r ih =>
      intro t
      rw [List.foldl_cons, ih, SMap.atD_store]
      by_cases hl : l = k <;> by_cases hr : l ∈ r <;> simp_all
  have h := hfold (lanesOf m) old
  simp only [mem_lanesOf] at h
  exact h

theorem at?_overlayOrigins (old : SMap Origin) (m : Mask) (o : Nat → Option Origin) (l : Nat) :
    SMap.at? (overlayOrigins old m o) l = if m.getLsbD l then o l else SMap.at? old l := by
  have hstep (t : SMap Origin) (k : Nat) :
      SMap.at? (match o k with | none => SMap.del t k | some v => SMap.put t k v) l = if l = k then o l else SMap.at? t l := by
    by_cases hl : l = k
    · subst hl; cases h : o l <;> simp
    · cases h : o k <;> simp [hl]
  have hfold (ls : List Nat) : ∀ t : SMap Origin,
      SMap.at? (ls.foldl (fun t l => match o l with | none => SMap.del t l | some v => SMap.put t l v) t) l =
      if l ∈ ls then o l else SMap.at? t l := by
    induction ls with
    | nil => simp
    | cons k r ih =>
      intro t
      rw [List.foldl_cons, ih, hstep]
      by_cases hl : l = k <;> by_cases hr : l ∈ r <;> simp_all
  have h := hfold (lanesOf m) old
  simp only [mem_lanesOf] at h
  exact h

end Sys2Proof.Machine

end


section

/-! Registers after a write (R57-R62). -/

namespace Sys2Proof.Machine
open Sys2Proof

/-- A team with a register of its own written; a shared one stands in the group. -/
def Team.withVreg (x : Team) (n : Nat) (r : VReg) : Team :=
  if x.entry.shared n then x else { x with vregs := SMap.store {} x.vregs n r }

@[simp] theorem Team.withVreg_entry (x : Team) (n : Nat) (r : VReg) : (x.withVreg n r).entry = x.entry := by
  unfold withVreg; split <;> rfl
@[simp] theorem Team.withVreg_live (x : Team) (n : Nat) (r : VReg) : (x.withVreg n r).live = x.live := by
  unfold withVreg; split <;> rfl
@[simp] theorem Team.withVreg_width (x : Team) (n : Nat) (r : VReg) : (x.withVreg n r).width = x.width := by
  unfold withVreg; split <;> rfl
@[simp] theorem Team.withVreg_uregs (x : Team) (n : Nat) (r : VReg) : (x.withVreg n r).uregs = x.uregs := by
  unfold withVreg; split <;> rfl
@[simp] theorem Team.withVreg_preds (x : Team) (n : Nat) (r : VReg) : (x.withVreg n r).preds = x.preds := by
  unfold withVreg; split <;> rfl
@[simp] theorem Team.withVreg_sys (x : Team) (n : Nat) (r : VReg) : (x.withVreg n r).sys = x.sys := by
  unfold withVreg; split <;> rfl
@[simp] theorem Team.withVreg_fullWrite (x : Team) (n m : Nat) (r : VReg) (act : Mask) :
    (x.withVreg n r).fullWrite m act = x.fullWrite m act := by simp [fullWrite]

@[simp] theorem ShareGroup.keep_regs (g : ShareGroup) (clock : W64) (t n : Nat) : (g.keep clock t n).regs = g.regs := by
  unfold keep; split
  · split <;> rfl
  · rfl

/-- What a group keeps for the other teams of this cycle is what it kept before a write (R61). -/
theorem ShareGroup.prior_keep_others (g : ShareGroup) (clock : W64) (t n m : Nat) :
    (((g.keep clock t n).prior.at? m).filter fun p => p.clock == clock && p.slot != t) =
      (g.prior.at? m).filter fun p => p.clock == clock && p.slot != t := by
  unfold keep
  by_cases hm : m = n
  · subst hm
    cases h : g.prior.at? m with
    | none => simp
    | some p => by_cases hp : p.clock = clock <;> simp [hp, h, Option.filter]
  · split
    · split <;> simp [hm]
    · simp [hm]

namespace State

theorem team?_onCore_of_teams (s : State) (c d t : Nat) {f : Core → Core} (hf : ∀ k, (f k).teams = k.teams) :
    (s.onCore c f).team? d t = s.team? d t := by
  by_cases h : d = c
  · subst h; simp [team?, hf]
  · simp [team?, h]

theorem team?_setVreg_self {s : State} {c t : Nat} {x : Team} (n : Nat) (r : VReg) (h : s.team? c t = some x) :
    (s.setVreg c t n r).team? c t = some (x.withVreg n r) := by
  simp only [setVreg, h, Team.withVreg]
  split
  · rw [← h]; exact team?_onCore_of_teams s c c t fun _ => rfl
  · simp

@[simp] theorem core_setTeam_self (s : State) (c t : Nat) (x : Team) :
    (s.setTeam c t x).core c = { s.core c with teams := (s.core c).teams.put t x } := by simp [setTeam]

theorem vreg_setVreg_self {s : State} {c t : Nat} {x : Team} (n : Nat) (r : VReg) (h : s.team? c t = some x) :
    (s.setVreg c t n r).vreg c (x.withVreg n r) n = r := by
  cases hs : x.entry.shared n <;> simp [vreg, setVreg, h, hs, Team.withVreg]

theorem vreg_setVreg_ne {s : State} {c t : Nat} {x : Team} {n m : Nat} (r : VReg) (h : s.team? c t = some x) (hm : m ≠ n) :
    (s.setVreg c t n r).vreg c (x.withVreg n r) m = s.vreg c x m := by
  cases hs : x.entry.shared n <;> cases hq : x.entry.shared m <;> simp [vreg, setVreg, h, hs, hq, Team.withVreg, hm]

/-- What a team writes to a shared register is not kept from the team itself (R61). -/
theorem prior?_setVreg {s : State} {c t : Nat} {x : Team} (n m : Nat) (r : VReg) (h : s.team? c t = some x) :
    (s.setVreg c t n r).prior? c t (x.withVreg n r) m = s.prior? c t x m := by
  cases hs : x.entry.shared n with
  | false => simp [prior?, setVreg, h, hs, Team.withVreg]
  | true =>
    cases hq : x.entry.shared m with
    | false => simp [prior?, hq]
    | true =>
      simp only [prior?, Team.withVreg_entry, hq, setVreg, h, hs, if_true, core_onCore_self, SMap.atD_put_self, Bool.not_true,
        Bool.false_eq_true, if_false, onCore_clock]
      exact ShareGroup.prior_keep_others _ _ _ _ _

theorem writeV_of_some {s : State} {c t : Nat} {x : Team} (n : Nat) (act : Mask) (f : Nat → W32) (o : Nat → Option Origin)
    (h : s.team? c t = some x) :
    s.writeV c t n act f o = s.setVreg c t n ((s.vreg c x n).written x.width (x.fullWrite n act) act f o) := by
  simp only [writeV, h]

end State

/-! The value and the tag of a register that some lanes have written (R57, R58). -/

theorem VReg.written_full_uniform {act : Mask} {f : Nat → W32} (r : VReg) (w : Nat) (o : Nat → Option Origin)
    (h : ∀ l ∈ lanesOf act, f l = f (lowLane act)) :
    r.written w true act f o = { uni := f (lowLane act), pois := originTable act o } := by
  have ha : ((lanesOf act).all fun l => f l == f (lowLane act)) = true := by simpa using h
  simp only [written, if_true, ha]

theorem VReg.written_full_mixed {act : Mask} {f : Nat → W32} (r : VReg) (w : Nat) (o : Nat → Option Origin)
    (h : ¬ ∀ l ∈ lanesOf act, f l = f (lowLane act)) :
    r.written w true act f o = { st := .perLane, lanes := laneTable act f, pois := originTable act o } := by
  have ha : ((lanesOf act).all fun l => f l == f (lowLane act)) = false := by simpa using h
  simp only [written, if_true, ha, Bool.false_eq_true, if_false]

theorem VReg.written_part (r : VReg) (w : Nat) (act : Mask) (f : Nat → W32) (o : Nat → Option Origin) :
    r.written w false act f o =
      { st := .perLane, lanes := overlay (r.expanded w) act f, pois := overlayOrigins r.pois act o } := rfl

theorem VReg.written_st_ne_symbolic (r : VReg) (w : Nat) (full : Bool) (act : Mask) (f : Nat → W32) (o : Nat → Option Origin) :
    (r.written w full act f o).st ≠ .symbolic := by
  dsimp only [written]
  split_ifs <;> simp

/-- An active lane reads what was written. -/
theorem VReg.at_written_active {act : Mask} {l : Nat} (r : VReg) (w : Nat) (full : Bool) (f : Nat → W32) (o : Nat → Option Origin)
    (hl : act.getLsbD l = true) : (r.written w full act f o).at l = f l := by
  cases full with
  | false => simp [written_part, VReg.at, atD_overlay, hl]
  | true =>
    by_cases h : ∀ k ∈ lanesOf act, f k = f (lowLane act)
    · rw [written_full_uniform r w o h]; exact (h l (mem_lanesOf.2 hl)).symm
    · rw [written_full_mixed r w o h]; simp [VReg.at, hl]

/-- Of a partial write, another lane keeps its value. -/
theorem VReg.at_written_other {act : Mask} {l w : Nat} (r : VReg) (f : Nat → W32) (o : Nat → Option Origin)
    (hl : act.getLsbD l = false) (hw : (laneRange 0 w).getLsbD l = true) : (r.written w false act f o).at l = r.at l := by
  cases h : r.st <;> simp [written_part, VReg.at, atD_overlay, hl, VReg.expanded, h, hw]

theorem VReg.pois_written_active {act : Mask} {l : Nat} (r : VReg) (w : Nat) (full : Bool) (f : Nat → W32) (o : Nat → Option Origin)
    (hl : act.getLsbD l = true) : SMap.at? (r.written w full act f o).pois l = o l := by
  dsimp only [written]
  split_ifs <;> simp [at?_overlayOrigins, hl]

theorem VReg.pois_written_other {act : Mask} {l w : Nat} (r : VReg) (f : Nat → W32) (o : Nat → Option Origin)
    (hl : act.getLsbD l = false) : SMap.at? (r.written w false act f o).pois l = SMap.at? r.pois l := by
  simp [written_part, at?_overlayOrigins, hl]

end Sys2Proof.Machine

end


section

/-! A register read back after a write, and its tag (R52, R53, R57, R58). -/

namespace Sys2Proof.Machine
open Sys2Proof

theorem getLsbD_laneRange_zero {w l : Nat} : (laneRange 0 w).getLsbD l = true ↔ l < 1024 ∧ l < w := by
  simp [laneRange, BitVec.getLsbD_ofNat, Nat.testBit_two_pow_sub_one]

theorem Team.ureg_setUreg_self (x : Team) (n : Nat) (r : UReg) : (x.setUreg n r).ureg n = r := by
  unfold setUreg
  cases x.sys <;> simp [ureg]

theorem Team.pred_setPred_self {x : Team} (n : Nat) (m : Mask) (hs : x.sys = none) : (x.setPred n m).pred n = m := by
  simp [setPred, pred, hs]

theorem getLsbD_laneBit (k l : Nat) : (laneBit k).getLsbD l = (decide (l < 1024) && decide (l = k)) := by
  unfold laneBit
  rw [BitVec.getLsbD_shiftLeft, BitVec.getLsbD_one, Bool.eq_iff_iff]
  simp
  omega

theorem getLsbD_maskOf (ls : List Nat) (l : Nat) : (maskOf ls).getLsbD l = (decide (l < 1024) && decide (l ∈ ls)) := by
  have hfold : ∀ m : Mask, (ls.foldl (fun m l => m ||| laneBit l) m).getLsbD l =
      (m.getLsbD l || (decide (l < 1024) && decide (l ∈ ls))) := by
    induction ls with
    | nil => simp
    | cons k r ih =>
      intro m
      rw [List.foldl_cons, ih, BitVec.getLsbD_or, getLsbD_laneBit]
      simp [Bool.or_assoc, Bool.and_or_distrib_left]
  exact (hfold 0#1024).trans (by rw [BitVec.getLsbD_zero, Bool.false_or])

theorem getLsbD_maskWhere (m : Mask) (p : Nat → Bool) (l : Nat) : (maskWhere m p).getLsbD l = (m.getLsbD l && p l) := by
  rw [maskWhere, getLsbD_maskOf, Bool.eq_iff_iff]
  simp only [List.mem_filter, mem_lanesOf, Bool.and_eq_true, decide_eq_true_eq, and_iff_right_iff_imp, and_imp]
  intro h _
  exact BitVec.lt_of_getLsbD h

theorem Team.fullWrite_lane {x : Team} {n l : Nat} {act : Mask} (h : x.fullWrite n act = true) (hl : x.live.getLsbD l = true)
    (hw : l < x.width) : act.getLsbD l = true := by
  unfold fullWrite at h
  split at h
  · rw [eq_of_beq h]; exact getLsbD_laneRange_zero.2 ⟨BitVec.lt_of_getLsbD hl, hw⟩
  · rw [eq_of_beq h]; exact hl

/-- What a present lane reads of a register that some lanes have written (R57, R58). -/
theorem Team.at_written {x : Team} {n l : Nat} {act : Mask} (r : VReg) (f : Nat → W32) (o : Nat → Option Origin)
    (hl : x.live.getLsbD l = true) (hw : l < x.width) :
    (r.written x.width (x.fullWrite n act) act f o).at l = (if act.getLsbD l then f l else r.at l) ∧
      SMap.at? (r.written x.width (x.fullWrite n act) act f o).pois l = if act.getLsbD l then o l else SMap.at? r.pois l := by
  cases ha : act.getLsbD l with
  | true => exact ⟨r.at_written_active x.width _ f o ha, r.pois_written_active x.width _ f o ha⟩
  | false =>
    have hf : x.fullWrite n act = false := by
      cases hf : x.fullWrite n act with
      | false => rfl
      | true => simp [fullWrite_lane hf hl hw] at ha
    rw [hf]
    exact ⟨r.at_written_other f o ha (getLsbD_laneRange_zero.2 ⟨BitVec.lt_of_getLsbD hl, hw⟩), r.pois_written_other f o ha⟩

theorem Ctx.prior?_none {cx : Ctx} {n : Fin 128} (h : cx.destWaits (.v n) = false) : cx.s.prior? cx.c cx.t cx.x n = none := by
  simp only [destWaits, lostTo, Bool.or_eq_false_iff] at h
  simpa using h.2

/-- The context of the team after a vector register of it was written. -/
theorem Ctx.after_setVreg {cx : Ctx} (n : Nat) (r : VReg) (h : cx.s.team? cx.c cx.t = some cx.x) :
    cx.after (cx.s.setVreg cx.c cx.t n r) = { cx with s := cx.s.setVreg cx.c cx.t n r, x := cx.x.withVreg n r } := by
  simp [after, State.team?_setVreg_self n r h]

theorem Ctx.vreg_of_prior {cx : Ctx} {n : Nat} (h : cx.s.prior? cx.c cx.t cx.x n = none) : cx.vreg n = cx.s.vreg cx.c cx.x n := by
  simp only [vreg, h]

/-- A vector register that nothing keeps waiting reads as the team has just written it. -/
theorem Ctx.vreg_after_self {cx : Ctx} {n : Nat} (r : VReg) (h : cx.s.team? cx.c cx.t = some cx.x)
    (hp : cx.s.prior? cx.c cx.t cx.x n = none) : (cx.after (cx.s.setVreg cx.c cx.t n r)).vreg n = r := by
  rw [after_setVreg _ _ h, vreg_of_prior]
  · exact State.vreg_setVreg_self _ _ h
  · exact (State.prior?_setVreg _ _ _ h).trans hp

theorem Ctx.vreg_after_ne {cx : Ctx} {n m : Nat} (r : VReg) (h : cx.s.team? cx.c cx.t = some cx.x) (hm : m ≠ n) :
    (cx.after (cx.s.setVreg cx.c cx.t n r)).vreg m = cx.vreg m := by
  rw [after_setVreg _ _ h]
  simp only [vreg, State.prior?_setVreg _ _ _ h, State.vreg_setVreg_ne _ h hm]

theorem Ctx.write_v {cx : Ctx} (n : Fin 128) (f : Nat → W64) (o : Nat → Option Origin) (h : cx.s.team? cx.c cx.t = some cx.x) :
    cx.write cx.s (.v n) f o = cx.s.setVreg cx.c cx.t n
      ((cx.s.vreg cx.c cx.x n).written cx.x.width (cx.x.fullWrite n cx.act) cx.act (fun l => (f l).setWidth 32) o) :=
  State.writeV_of_some _ _ _ _ h

theorem Ctx.val_v (cx : Ctx) (n : Fin 128) (l : Nat) : cx.val (.v n) l = ((cx.vreg n).at l).setWidth 64 := rfl
theorem Ctx.low_v (cx : Ctx) (n : Fin 128) (l : Nat) : cx.low (.v n) l = (cx.vreg n).at l := by simp [low, read]
theorem Ctx.pois_v (cx : Ctx) (n : Fin 128) (l : Nat) : (cx.read (.v n)).pois l = SMap.at? (cx.vreg n).pois l := rfl

theorem Ctx.write_v_reads {cx : Ctx} {n : Fin 128} {l : Nat} (f : Nat → W64) (h : cx.s.team? cx.c cx.t = some cx.x)
    (hd : cx.destWaits (.v n) = false) (hl : cx.x.live.getLsbD l = true) (hw : l < cx.x.width) :
    (cx.after (cx.write cx.s (.v n) f noOrigin)).val (.v n) l =
        (if cx.act.getLsbD l then ((f l).setWidth 32).setWidth 64 else cx.val (.v n) l) ∧
      ((cx.after (cx.write cx.s (.v n) f noOrigin)).read (.v n)).pois l =
        if cx.act.getLsbD l then none else (cx.read (.v n)).pois l := by
  rw [write_v _ _ _ h, val_v, val_v, pois_v, pois_v, vreg_after_self _ h (prior?_none hd), vreg_of_prior (prior?_none hd)]
  obtain ⟨hv, hp⟩ := Team.at_written (act := cx.act) (n := n) (cx.s.vreg cx.c cx.x n) (fun l => (f l).setWidth 32) noOrigin hl hw
  refine ⟨?_, hp⟩
  rw [hv]; split_ifs <;> rfl

theorem Ctx.write_w_reads {cx : Ctx} (n : Fin 64) (f : Nat → W64) (h : cx.s.team? cx.c cx.t = some cx.x) (l : Nat) :
    (cx.after (cx.write cx.s (.w n) f noOrigin)).val (.w n) l = f (lowLane cx.act) ∧
      ((cx.after (cx.write cx.s (.w n) f noOrigin)).read (.w n)).pois l = none := by
  simp [write, State.writeU, after, val, read, h, Team.ureg_setUreg_self, noOrigin]

theorem Ctx.write_p_reads {cx : Ctx} (n : Fin 16) (f : Nat → W64) (h : cx.s.team? cx.c cx.t = some cx.x) (hs : cx.x.sys = none)
    {l : Nat} (hl : l < 1024) :
    (cx.after (cx.write cx.s (.p n) f noOrigin)).val (.p n) l =
      if cx.act.getLsbD l then (if f l != 0 then 1 else 0) else cx.val (.p n) l := by
  simp only [write, State.writeP, after, val, read, State.team?_onTeam_self, h, Option.map_some, Option.getD_some,
    Team.pred_setPred_self n _ hs, BitVec.getLsbD_or, BitVec.getLsbD_and, BitVec.getLsbD_not, getLsbD_maskWhere, hl, decide_true,
    Bool.true_and]
  cases cx.act.getLsbD l <;> simp

theorem Ctx.team?_after {cx : Ctx} {s : State} (h : (s.team? cx.c cx.t).isSome) :
    (cx.after s).s.team? (cx.after s).c (cx.after s).t = some (cx.after s).x := by
  obtain ⟨y, hy⟩ := Option.isSome_iff_exists.1 h
  simp [after, hy]

theorem Ctx.after_after {cx : Ctx} {s t : State} (h : (t.team? cx.c cx.t).isSome) : (cx.after s).after t = cx.after t := by
  obtain ⟨y, hy⟩ := Option.isSome_iff_exists.1 h
  simp [after, hy]

theorem Ctx.team?_write_v {cx : Ctx} {s : State} (n : Fin 128) (f : Nat → W64) (o : Nat → Option Origin)
    (h : (s.team? cx.c cx.t).isSome) : ((cx.write s (.v n) f o).team? cx.c cx.t).isSome := by
  obtain ⟨y, hy⟩ := Option.isSome_iff_exists.1 h
  rw [show cx.write s (.v n) f o = s.writeV _ _ _ _ _ _ from rfl, State.writeV_of_some _ _ _ _ hy, State.team?_setVreg_self _ _ hy]
  rfl

/-- A vector register that nothing keeps waiting holds, after a write of it, what was written. -/
theorem Ctx.vreg_after_write {cx : Ctx} {n : Fin 128} (f : Nat → W64) (o : Nat → Option Origin) (h : cx.s.team? cx.c cx.t = some cx.x)
    (hp : cx.s.prior? cx.c cx.t cx.x n = none) : (cx.after (cx.write cx.s (.v n) f o)).vreg n =
      (cx.s.vreg cx.c cx.x n).written cx.x.width (cx.x.fullWrite n cx.act) cx.act (fun l => (f l).setWidth 32) o := by
  rw [write_v _ _ _ h, vreg_after_self _ h hp]

theorem Ctx.vreg_after_write_ne {cx : Ctx} {n : Fin 128} {m : Nat} (f : Nat → W64) (o : Nat → Option Origin)
    (h : cx.s.team? cx.c cx.t = some cx.x) (hm : m ≠ n) : (cx.after (cx.write cx.s (.v n) f o)).vreg m = cx.vreg m := by
  rw [write_v _ _ _ h, vreg_after_ne _ h hm]

theorem Ctx.prior?_after_write {cx : Ctx} (n : Fin 128) (m : Nat) (f : Nat → W64) (o : Nat → Option Origin)
    (h : cx.s.team? cx.c cx.t = some cx.x) :
    (cx.after (cx.write cx.s (.v n) f o)).s.prior? cx.c cx.t (cx.after (cx.write cx.s (.v n) f o)).x m = cx.s.prior? cx.c cx.t cx.x m := by
  rw [write_v _ _ _ h, after_setVreg _ _ h]
  exact State.prior?_setVreg _ _ _ h

theorem destWaits64_v {cx : Ctx} {n : Fin 128} (h : cx.destWaits64 (.v n) = false) :
    cx.destWaits (.v n) = false ∧ cx.destWaits (.v (n + 1)) = false := by
  simpa [Ctx.destWaits64, nextV] using h

/-- The odd register of a pair is another one than the even register (R53). -/
theorem even_ne_succ {n : Fin 128} (h : n.val % 2 = 0) : n.val ≠ (n + 1).val := by
  rw [Fin.val_add_one_of_lt' (by omega)]; omega

theorem Ctx.low_after_write {cx : Ctx} {n : Fin 128} {l : Nat} (f : Nat → W64) (h : cx.s.team? cx.c cx.t = some cx.x)
    (hp : cx.s.prior? cx.c cx.t cx.x n = none) (hl : cx.act.getLsbD l = true) :
    (cx.after (cx.write cx.s (.v n) f noOrigin)).low (.v n) l = (f l).setWidth 32 := by
  rw [low_v, vreg_after_write f noOrigin h hp, VReg.at_written_active _ _ _ _ _ hl]

/-- Writing a pair writes its registers one after the other (R53). -/
theorem Ctx.after_write64_v {cx : Ctx} (n : Fin 128) (f : Nat → W64) (o : Nat → Option Origin) (h : cx.s.team? cx.c cx.t = some cx.x) :
    cx.after (cx.write64 cx.s (.v n) f o) =
      (cx.after (cx.write cx.s (.v n) f o)).after
        ((cx.after (cx.write cx.s (.v n) f o)).write (cx.after (cx.write cx.s (.v n) f o)).s (.v (n + 1)) (fun l => f l >>> 32) o) :=
  have hsome := cx.team?_write_v n f o (by rw [h]; rfl)
  (after_after (cx.team?_write_v (n + 1) _ o hsome)).symm

theorem pair_of_halves (v : W64) : ((v >>> 32).setWidth 32).setWidth 64 <<< 32 ||| (v.setWidth 32).setWidth 64 = v := by
  ext l hl
  by_cases h : l < 32
  · simp [h, hl]
  · simp [h, hl, show 32 + (l - 32) = l by omega, show l - 32 < 32 by omega]

theorem Ctx.write64_v_reads {cx : Ctx} {n : Fin 128} {l : Nat} (f : Nat → W64) (h : cx.s.team? cx.c cx.t = some cx.x)
    (hn : n.val % 2 = 0) (hd : cx.destWaits64 (.v n) = false) (hl : cx.act.getLsbD l = true) :
    (cx.after (cx.write64 cx.s (.v n) f noOrigin)).low (.v n) l = (f l).setWidth 32 ∧
      (cx.after (cx.write64 cx.s (.v n) f noOrigin)).low (.v (n + 1)) l = (f l >>> 32).setWidth 32 := by
  obtain ⟨hlo, hhi⟩ := destWaits64_v hd
  have hx := team?_after (cx.team?_write_v n f noOrigin (by rw [h]; rfl))
  have hp := (prior?_after_write n (n + 1).val f noOrigin h).trans (prior?_none hhi)
  rw [after_write64_v n f noOrigin h]
  constructor
  · rw [low_v, vreg_after_write_ne _ _ hx (even_ne_succ hn), ← low_v, low_after_write f h (prior?_none hlo) hl]
  · exact low_after_write _ hx hp hl

/-- Settles O27: each class of destination is written by an operation of its own, and read back by the lemma about that one; nothing else
stands between, since a register that another team has written in this cycle keeps the instruction waiting. -/
theorem writesAreReadBack : Obligations.WritesAreReadBack := by
  unfold Obligations.WritesAreReadBack
  intro cx d f hx hs hact
  refine ⟨fun hd => ?_, ?_⟩
  · cases d with
    | v n => exact fun l hl hw => cx.write_v_reads f hx hd hl hw
    | w n => exact fun l => cx.write_w_reads n f hx l
    | p n =>
      intro _ h0 l hl
      exact cx.write_p_reads n f hx (sys_none_of_inSys (hs ▸ h0)) hl
    | _ => rfl
  · rintro n rfl hn hd cy l hl hw
    obtain ⟨hlo, hhi⟩ := cx.write64_v_reads f hx hn hd hl
    refine ⟨hlo.trans (BitVec.setWidth_eq_extractLsb' (by omega)), hhi.trans (by ext; simp [Nat.add_comm]), ?_⟩
    calc (cy.read64 (.v n)).at_ l
        = (cy.low (.v (n + 1)) l).setWidth 64 <<< 32 ||| (cy.low (.v n) l).setWidth 64 := by rw [Ctx.low_v, Ctx.low_v]; rfl
      _ = f l := by rw [hlo, hhi]; exact pair_of_halves (f l)

/-- Settles O28: the register that a write leaves is `VReg.written`, whose tag the lemmas about it give. -/
theorem writesSetTheTag : Obligations.WritesSetTheTag := by
  unfold Obligations.WritesSetTheTag
  intro s c t n x act f hx
  rw [State.writeV_of_some _ _ _ _ hx]
  refine ⟨_, State.team?_setVreg_self _ _ hx, ?_⟩
  rw [State.vreg_setVreg_self _ _ hx]
  dsimp only
  have hfull : x.fullWrite n act = decide (act = if x.entry.shared n then laneRange 0 x.width else x.live) := by
    unfold Team.fullWrite; split <;> rfl
  refine ⟨fun hact => ?_, fun hact => ?_⟩
  · rw [hfull, decide_eq_true hact]
    by_cases h : ∀ l ∈ lanesOf act, f l = f (lowLane act)
    · rw [VReg.written_full_uniform _ _ _ h]; simpa using h
    · rw [VReg.written_full_mixed _ _ _ h]; simpa using h
  · rw [hfull, decide_eq_false hact]; rfl

end Sys2Proof.Machine
end


section

/-! The checks of a group (R186). -/

namespace Sys2Proof.Machine
open Sys2Proof

/-- Settles O21: the frame of every instruction makes its checks in this order before it runs the instruction's body. -/
theorem checksTrapInOrder : Obligations.ChecksTrapInOrder := by
  unfold Obligations.ChecksTrapInOrder
  intro i r s cx hc hr
  obtain ⟨body, he⟩ := exec_performs hr
  have hp : r.passes cx.live = cx.live.passesOf i := by simp only [Ctx.passesOf, hr]
  obtain ⟨-, hs, -⟩ := ctx_some hc
  have ht (cause : Cause) : cx.live.settle (cx.live.passesOf i) (.trap s cause 0 none cx.act) = cx.live.trapped i cause 0 none cx.act := by
    rw [← hs]; rfl
  rw [he]
  refine ⟨fun hi => ?_, fun hi hpr hsys => ?_, fun hi hpr ho => ?_⟩
  · rw [perform_illegal hc hi, hp, ht]
  · rw [perform_priv hc hi hpr hsys, hp, ht]
  · have hpv : (r.priv && !cx.sys) = false := by
      cases h : r.priv with
      | false => rfl
      | true => simp [hpr h]
    rw [perform_opclass hc hi hpv ho, hp, ht]

end Sys2Proof.Machine

end


section

/-! Resolution (R67, R68). -/

namespace Sys2Proof.Machine
open Sys2Proof

/-- The upper half of an element where the form asks for it (R64). -/
def halfOf (half : Bool) (x : W64) : W64 := if half then x >>> 32 else x

theorem formValue_int (half : Bool) (scale off x : W64) : formValue false half scale off x = scale * halfOf half x + off := rfl

theorem formValue_float (half : Bool) (scale off x : W64) :
    formValue true half scale off x =
      (fpFma .rn (scale.setWidth 32) ((halfOf half x).setWidth 32) (off.setWidth 32)).1.setWidth 64 := rfl

/-- The element that a lane reads of a symbol, where it took part. -/
theorem Symbol.at_part {y : Symbol} {alone : Mask} {l : Nat} (h : (!alone.getLsbD l && (y.uni || y.lanes.getLsbD l)) = true) :
    ∃ o, y.at_ alone l = some (y.vals.atD (if y.uni then lowLane y.lanes else l) 0, o) := by
  obtain ⟨ha, hl⟩ : alone.getLsbD l = false ∧ (y.uni = true ∨ y.lanes.getLsbD l = true) := by simpa using h
  unfold at_
  cases hu : y.uni with
  | true => exact ⟨_, by simp only [ha, Bool.false_eq_true, if_false, if_true]; rfl⟩
  | false => exact ⟨_, by simp only [ha, hl.resolve_left (by simp [hu]), Bool.false_eq_true, if_false, if_true]; rfl⟩

theorem Symbol.at_none {y : Symbol} {alone : Mask} {l : Nat} (h : (!alone.getLsbD l && (y.uni || y.lanes.getLsbD l)) = false) :
    y.at_ alone l = none := by
  unfold at_
  cases ha : alone.getLsbD l with
  | true => rfl
  | false =>
    obtain ⟨hu, hl⟩ : y.uni = false ∧ y.lanes.getLsbD l = false := by simpa [ha] using h
    simp only [hu, hl, Bool.false_eq_true, if_false]

theorem VReg.resolve_other {r : VReg} {n : Nat} (w : Nat) (live : Mask) (y : Symbol) (h : r.st ≠ .symbolic ∨ r.sym ≠ n) :
    r.resolve n w live y = r := by
  have hc : (r.st != .symbolic || r.sym != n) = true := by simpa using h
  simp only [resolve, hc, if_true]

/-- A resolved register is known, and a live lane of it reads the value of the form there. -/
theorem VReg.resolve_known {r : VReg} {n w l : Nat} {live : Mask} (y : Symbol) (hs : r.st = .symbolic) (hn : r.sym = n)
    (hw : l < w) (hl : live.getLsbD l = true) :
    (r.resolve n w live y).st ≠ .symbolic ∧ (r.resolve n w live y).at l = (r.over y l).1 := by
  have hc : (r.st != .symbolic || r.sym != n) = false := by simp [hs, hn]
  simp only [resolve, hc, Bool.false_eq_true, if_false]
  split
  · exact ⟨written_st_ne_symbolic _ _ _ _ _ _, at_written_active _ _ _ _ _ hl⟩
  · have hr := getLsbD_laneRange_zero.2 ⟨BitVec.lt_of_getLsbD hl, hw⟩
    exact ⟨by simp, by simp [VReg.at, hr]⟩

theorem VReg.over_int {r : VReg} (y : Symbol) (l : Nat) (hf : r.flt = false) :
    (r.over y l).1 = if !r.alone.getLsbD l && (y.uni || y.lanes.getLsbD l) then
      r.scale * (halfOf r.half (y.vals.atD (if y.uni then lowLane y.lanes else l) 0)).setWidth 32 + r.at l else r.at l := by
  split
  next h =>
    obtain ⟨o, ho⟩ := Symbol.at_part h
    simp only [VReg.over, ho, hf, formOver, formValue_int]
    rw [BitVec.setWidth_add _ _ (by omega), BitVec.setWidth_mul _ _ (by omega)]
    simp
  next h =>
    rw [Bool.not_eq_true] at h
    simp [VReg.over, Symbol.at_none h, hf, formOver, formAlone]

theorem VReg.over_float {r : VReg} (y : Symbol) (l : Nat) (hf : r.flt = true) :
    (r.over y l).1 = if !r.alone.getLsbD l && (y.uni || y.lanes.getLsbD l) then
      (fpFma .rn r.scale ((halfOf r.half (y.vals.atD (if y.uni then lowLane y.lanes else l) 0)).setWidth 32) (r.at l)).1
    else if isNaN32 (r.at l) then CNAN else r.at l := by
  split
  next h =>
    obtain ⟨o, ho⟩ := Symbol.at_part h
    simp [VReg.over, ho, hf, formOver, formValue_float]
  next h =>
    rw [Bool.not_eq_true] at h
    simp only [VReg.over, Symbol.at_none h, hf, formOver, formAlone, Bool.true_and]
    split_ifs <;> simp_all

theorem UReg.resolve_self {u : UReg} {n : Nat} (y : Symbol) (h : u.sym = some n) :
    u.resolve n y = { val := formValue u.flt u.half u.scale u.val (y.vals.atD (lowLane y.lanes) 0), pois := poisonOver u.pois (some y.whole) } := by
  have hc : (u.sym != some n) = false := by simp [h]
  simp only [resolve, hc, Bool.false_eq_true, if_false]; rfl

/-- Settles O30: a resolved register reads `VReg.over` on every live lane, whichever way it is written back, and that value is the form's by
the lemmas on its two kinds. -/
theorem resolutionGivesTheFormsValue : Obligations.ResolutionGivesTheFormsValue := by
  unfold Obligations.ResolutionGivesTheFormsValue
  intro r u n w l live y hw _ hl X
  refine ⟨fun hs hn => ?_, VReg.resolve_other w live y, fun hu => ?_, fun hu => ?_⟩
  · obtain ⟨hk, hat⟩ := VReg.resolve_known y hs hn hw hl
    exact ⟨hk, fun hf => hat.trans (VReg.over_int y l hf), fun hf => hat.trans (VReg.over_float y l hf)⟩
  · rw [UReg.resolve_self y hu]
    refine ⟨rfl, ?_⟩
    cases hf : u.flt with
    | false => exact formValue_int _ _ _ _
    | true => exact formValue_float _ _ _ _
  · have hc : (u.sym != some n) = true := by simpa using hu
    simp only [UReg.resolve, hc, if_true]

end Sys2Proof.Machine

end


section

/-! Order, barrier and shared-register instructions (R231-R236). -/

namespace Sys2Proof.Machine
open Sys2Proof

/-- A use of values of which none is poisoned on an active lane. -/
theorem use_clear {cx : Ctx} {vs : List Val} {k : Ctx → Did} (h : (cx.origins vs).isEmpty = true) : cx.use vs k = k cx := by
  rw [Ctx.use, List.isEmpty_iff.1 h, usePoison_nil]

/-- The word that `bar.q` gives: EXP above ARR (R235). -/
theorem barWord_eq (exp arr : W32) :
    exp.setWidth 64 <<< 32 ||| arr.setWidth 64 = BitVec.ofNat 64 (exp.toNat * 2 ^ 32 + arr.toNat) := by
  have he := exp.isLt
  have ha := arr.isLt
  apply BitVec.eq_of_toNat_eq
  rw [BitVec.toNat_or, BitVec.toNat_shiftLeft, BitVec.toNat_setWidth, BitVec.toNat_setWidth, BitVec.toNat_ofNat,
    Nat.mod_eq_of_lt (by omega : exp.toNat < 2 ^ 64), Nat.mod_eq_of_lt (by omega : arr.toNat < 2 ^ 64), Nat.shiftLeft_eq,
    Nat.mod_eq_of_lt (by omega : exp.toNat * 2 ^ 32 < 2 ^ 64), Nat.mod_eq_of_lt (by omega : exp.toNat * 2 ^ 32 + arr.toNat < 2 ^ 64),
    Nat.mul_comm, ← Nat.two_pow_add_eq_or_of_lt ha]

theorem barInit_done {cx : Ctx} {x : Operand} {idx : BitVec 6} {force : Bool} {t : State} {g : Nat → FlagSet}
    (h : (need (cx.plain [x] && !cx.barBad cx.c idx && (cx.val x 0).toNat % 2 ^ 32 != 0) <|
      let r := cx.s.initBar (barLevel cx.mods) cx.c idx.toNat ((cx.val x 0).toNat % 2 ^ 32) force (lanesOf cx.act)
      gives (cx.writeP15 r.1 fun l => SMap.atD r.2 l false)) = some (t, g)) : cx.barInit x idx force = .done t g := by
  obtain ⟨hc, hg⟩ := need_some.1 h
  obtain ⟨rfl, rfl⟩ := gives_some.1 hg
  obtain ⟨⟨hp, hb⟩, hn⟩ : (cx.plain [x] = true ∧ cx.barBad cx.c idx = false) ∧ ((cx.read x).at_ 0).toNat % 2 ^ 32 ≠ 0 := by
    simpa [Ctx.val] using hc
  rw [Ctx.barInit, blockOn_clear hp]
  simp only [hb, decide_eq_false hn, Bool.or_self, Bool.false_eq_true, if_false]
  rfl

theorem sharedGet_done {cx : Ctx} {d a : Operand} {clear : Bool} (hd : cx.destWaits d = false) (hf : cx.full a = true)
    (hl : (clear && cx.lostTo a) = false) (hp : (cx.origins [cx.read a]).isEmpty = true) : cx.sharedGet d a clear =
      .done (if clear then cx.setFull (cx.write cx.s d (cx.val a) noOrigin) a false else cx.write cx.s d (cx.val a) noOrigin) 0 := by
  simp only [Ctx.sharedGet, hd, hf, hl, Bool.not_true, Bool.or_self, Bool.false_eq_true, if_false, use_clear hp]
  rfl

theorem syncEffect_barWait {cx : Ctx} (idx : BitVec 6) (h : ∀ last, cx.p.st ≠ .waiting (.barDone last)) :
    syncEffect cx (.barWait idx) = need (barLevel cx.mods == 0 && !cx.barBad cx.c idx)
      ((cx.x.barGen.at? idx.toNat).bind fun g => need (g != (cx.s.bar 0 cx.c idx.toNat).gen) <|
        gives (cx.writeP15 (cx.s.onTeam cx.c cx.t fun x => { x with barGen := SMap.del x.barGen idx.toNat })
          fun _ => (cx.s.bar 0 cx.c idx.toNat).last)) := by
  simp only [syncEffect]

/-- `bar.wait` goes on where its splinter was told of the generation, or sees that it has passed (R234). -/
theorem barWait_completes {s t : State} {cx : Ctx} {g : Nat → FlagSet} {idx : BitVec 6} (h : s.ready? (.barWait idx) = some cx)
    (he : syncEffect cx (.barWait idx) = some (t, g)) : exec (.barWait idx) s = .next (cx.finish (.barWait idx) t g) := by
  refine exec_done rfl rfl h ?_
  by_cases hd : ∃ last, cx.p.st = .waiting (.barDone last)
  · obtain ⟨last, hst⟩ := hd
    simp only [syncEffect, hst] at he
    obtain ⟨rfl, rfl⟩ := gives_some.1 he
    simp only [hst]
  · have hst (last : Bool) : cx.p.st ≠ .waiting (.barDone last) := fun e => hd ⟨last, e⟩
    rw [syncEffect_barWait idx hst] at he
    obtain ⟨hc, he⟩ := need_some.1 he
    obtain ⟨gen, hgen, he⟩ := Option.bind_eq_some_iff.1 he
    obtain ⟨hne, hg⟩ := need_some.1 he
    obtain ⟨rfl, rfl⟩ := gives_some.1 hg
    obtain ⟨hlvl, hbad⟩ : (barLevel cx.mods != 0) = false ∧ cx.barBad cx.c idx = false := by simpa using hc
    dsimp only
    split
    · exact absurd ‹_› (hst _)
    · simp only [hlvl, hbad, hgen, hne, Bool.or_self, Bool.false_eq_true, if_false, if_true]

theorem syncInstruction_completes {i : Instr} {s t : State} {cx : Ctx} {g : Nat → FlagSet} (h : s.ready? i = some cx)
    (he : syncEffect cx i = some (t, g)) : exec i s = .next (cx.finish i t g) := by
  cases i <;> simp only [syncEffect, reduceCtorEq] at he
  case fence pred succ scope =>
    refine exec_done rfl rfl h ?_
    split at he
    · obtain ⟨rfl, rfl⟩ := gives_some.1 he
      exact if_pos ‹_›
    · refine (if_neg ‹_›).trans ?_
      split at he
      · obtain ⟨rfl, rfl⟩ := gives_some.1 he
        exact if_pos ‹_›
      · refine (if_neg ‹_›).trans ?_
        obtain ⟨hq, hg⟩ := need_some.1 he
        obtain ⟨rfl, rfl⟩ := gives_some.1 hg
        exact if_neg (by simpa using hq)
  case barInit x idx => exact exec_done rfl rfl h (barInit_done he)
  case barInitForce x idx => exact exec_done rfl rfl h (barInit_done he)
  case barArr x y idx =>
    refine exec_done rfl rfl h ?_
    obtain ⟨hc, hg⟩ := need_some.1 he
    obtain ⟨rfl, rfl⟩ := gives_some.1 hg
    simp only [Bool.and_eq_true, Bool.not_eq_true', beq_iff_eq] at hc
    obtain ⟨⟨⟨⟨hm, hp⟩, hs⟩, hb⟩, hu⟩ := hc
    dsimp only
    rw [behind_unmarked hm, blockOn_clear hp]
    have hk : (sectorOf (cx.barCore y) != sectorOf cx.c || cx.barBad (cx.barCore y) idx) = false := by
      rw [Bool.or_eq_false_iff]; exact ⟨bne_eq_false_iff_eq.2 hs, hb⟩
    simp only [hk, hu, Bool.false_eq_true, if_false]
    rfl
  case barWait idx => exact barWait_completes h he
  case barInv idx =>
    refine exec_done rfl rfl h ?_
    obtain ⟨hc, hg⟩ := need_some.1 he
    obtain ⟨rfl, rfl⟩ := gives_some.1 hg
    exact if_neg (by simpa using hc)
  case barQ x idx =>
    refine exec_done rfl rfl h ?_
    obtain ⟨hc, hg⟩ := need_some.1 he
    obtain ⟨rfl, rfl⟩ := gives_some.1 hg
    obtain ⟨hb, hd⟩ : cx.barBad cx.c idx = false ∧ cx.destWaits x = false := by simpa using hc
    simp only [hb, hd, Bool.false_eq_true, if_false, barWord_eq]
  case sput d a =>
    refine exec_done rfl rfl h ?_
    obtain ⟨hc, hg⟩ := need_some.1 he
    obtain ⟨rfl, rfl⟩ := gives_some.1 hg
    simp only [Bool.and_eq_true, Bool.not_eq_true'] at hc
    obtain ⟨⟨⟨hs, hf⟩, hl⟩, hp⟩ := hc
    simp only [hs, hf, hl, Bool.or_self, Bool.false_eq_true, if_false, use_clear hp]
    rfl
  case sgetC d a =>
    refine exec_done rfl rfl h ?_
    obtain ⟨hc, hg⟩ := need_some.1 he
    obtain ⟨rfl, rfl⟩ := gives_some.1 hg
    simp only [Bool.and_eq_true, Bool.not_eq_true'] at hc
    obtain ⟨⟨⟨hd, hf⟩, hl⟩, hp⟩ := hc
    exact sharedGet_done hd hf (by rw [hl]; rfl) hp
  case sget d a =>
    refine exec_done rfl rfl h ?_
    obtain ⟨hc, hg⟩ := need_some.1 he
    obtain ⟨rfl, rfl⟩ := gives_some.1 hg
    simp only [Bool.and_eq_true, Bool.not_eq_true'] at hc
    obtain ⟨⟨hd, hf⟩, hp⟩ := hc
    exact sharedGet_done hd hf rfl hp

/-- Settles O14, instruction by instruction: what the table asks for is what the instruction's own checks ask for. -/
theorem orderAndBarrierInstructionsComplete : Obligations.OrderAndBarrierInstructionsComplete := by
  unfold Obligations.OrderAndBarrierInstructionsComplete
  exact fun _ _ _ _ _ => syncInstruction_completes

end Sys2Proof.Machine

end


section

/-! Memory instructions that can start (R69, R82, R83, R215-R230, R325-R330). -/

namespace Sys2Proof.Machine
open Sys2Proof

/-- The instructions that make an access start it in one way. -/
theorem exec_startAccess {i : Instr} {cx : Ctx} {r : Req} (h : memReq cx i = some r) :
    ∃ rules body, rulesOf i = some rules ∧ exec i = perform rules body ∧ body cx = cx.startAccess r := by
  cases i <;> cases h <;> exact ⟨_, _, rfl, rfl, rfl⟩

theorem launchAccess_done {cx : Ctx} {s t : State} {a : Access} (h : cx.launched s a = some t) :
    cx.launchAccess s a (cx.atIssue a) = .done t 0 ∧ (cx.atIssue a = true ∨ (cx.s.core cx.c).queued < 128) := by
  unfold Ctx.launched at h
  unfold Ctx.launchAccess
  cases hn : cx.atIssue a with
  | true =>
    simp only [hn, if_true, need_some, Option.some.injEq, beq_iff_eq] at h
    obtain ⟨hl, rfl⟩ := h
    simp only [Bool.not_true, Bool.false_eq_true, if_false, hl, if_true, true_or, and_true]
  | false =>
    simp only [hn, Bool.false_eq_true, if_false, need_some, Option.some.injEq, decide_eq_true_eq] at h
    obtain ⟨hq, rfl⟩ := h
    simp only [Bool.not_false, if_true, hq, or_true, and_true]

/-- An access that can start leaves what the table gives. -/
theorem startAccess_done {cx : Ctx} {r : Req} {t : State} {g : Nat → FlagSet} (h : cx.accessEffect r = some (t, g)) :
    cx.startAccess r = .done t g := by
  obtain ⟨hc, he⟩ := need_some.1 h
  simp only [Bool.and_eq_true, Bool.not_eq_true'] at hc
  obtain ⟨⟨hbusy, hclear⟩, hshared⟩ := hc
  obtain ⟨e, hb, hmap⟩ := Option.bind_eq_some_iff.1 he
  obtain ⟨v, hl, hv⟩ := Option.map_eq_some_iff.1 hmap
  obtain ⟨rfl, rfl⟩ := Prod.mk.inj hv
  obtain ⟨hdone, hroom⟩ := launchAccess_done hl
  have hstart : (!cx.atIssue e.2 && decide (128 ≤ (cx.s.core cx.c).queued)) = false := by
    rcases hroom with h | h
    · rw [h]; rfl
    · rw [decide_eq_false (Nat.not_le.2 h), Bool.and_false]
  unfold Ctx.startAccess
  simp only [hbusy, hshared, Bool.false_eq_true, if_false, checkAccess_clear hclear]
  dsimp only [Ctx.bound] at hb
  cases ht : takesSymbol (r.dest.getD .zero) with
  | false =>
    rw [ht, if_neg Bool.false_ne_true, Option.some.injEq] at hb
    subst hb
    exact (if_neg (Bool.eq_false_iff.1 hstart)).trans hdone
  | true =>
    rw [ht, if_pos rfl] at hb
    obtain ⟨y, ha, rfl⟩ := Option.map_eq_some_iff.1 hb
    simp only [ha, Bool.not_true, Bool.false_eq_true, if_false]
    exact (if_neg (Bool.eq_false_iff.1 hstart)).trans hdone

theorem exec_pref {s : State} {cx : Ctx} {a b : Operand} {t : State} {g : Nat → FlagSet} (h : s.ready? (.pref a b) = some cx)
    (he : memoryEffect cx (.pref a b) = some (t, g)) : exec (.pref a b) s = .next (cx.finish (.pref a b) t g) := by
  obtain ⟨hsym, he⟩ := need_some.1 he
  obtain ⟨hend, hg⟩ := need_some.1 he
  obtain ⟨rfl, rfl⟩ := gives_some.1 hg
  have hs : [a, b].any cx.symbolic = false := by simpa using hsym
  have hl (q : Access) : (lanesOf cx.act).filterMap (fun l => if (q.addrPois l).isSome then none else some (l, (q.addr l).toNat)) =
      ((lanesOf cx.act).filter fun l => (q.addrPois l).isNone).map fun l => (l, (q.addr l).toNat) := by
    rw [← List.filterMap_eq_map, List.filterMap_filter]
    congr 1; funext l
    cases q.addrPois l <;> rfl
  refine exec_done rfl rfl h ?_
  simp only [hs, Bool.false_eq_true, if_false]
  rw [hl]
  exact if_neg (Bool.eq_false_iff.1 ((Bool.not_eq_true' _).mp hend))

theorem allocate_done {cx : Ctx} {zeroed : Bool} {d a b : Operand} {t : State} {g : Nat → FlagSet}
    (he : cx.allocated zeroed d a b = some (t, g)) : cx.allocate zeroed d a b = .done t g := by
  obtain ⟨hc, he⟩ := need_some.1 he
  obtain ⟨hd, hp⟩ : cx.destWaits64 d = false ∧ cx.plain [a, b] = true := by simpa using hc
  simp only [Ctx.allocate, hd, Bool.false_eq_true, if_false, blockOn_clear hp]
  split at he
  next hpool =>
    cases he
    exact if_pos hpool
  next hpool =>
    obtain ⟨rfl, rfl⟩ := gives_some.1 he
    exact if_neg hpool

/-- Lanes freed in turn, with those of the errors gathered on the way (R83). -/
theorem foldl_freeOne (p : Nat) (f : Nat → W64) (ls : List Nat) : ∀ (s : State) (bad : List Nat),
    ls.foldl (fun (r : State × List Nat) l => ((r.1.freeOne p (f l)).1, if (r.1.freeOne p (f l)).2 then l :: r.2 else r.2)) (s, bad) =
      ((s.freeAll p f ls).1, (s.freeAll p f ls).2.reverse ++ bad) := by
  induction ls with
  | nil => intro s bad; rfl
  | cons l ls ih =>
    intro s bad
    rw [List.foldl_cons, ih]
    simp only [State.freeAll]
    split <;> simp

theorem flagAt_reverse (k : FlagSet) (ls : List Nat) : flagAt k (ls.reverse ++ []) = flagAt k ls := by
  funext l
  simp [flagAt]

theorem exec_freeMem {s : State} {cx : Ctx} {a : Operand} {t : State} {g : Nat → FlagSet} (h : s.ready? (.freeMem a) = some cx)
    (he : memoryEffect cx (.freeMem a) = some (t, g)) : exec (.freeMem a) s = .next (cx.finish (.freeMem a) t g) := by
  obtain ⟨hp, he⟩ := need_some.1 he
  cases he
  refine exec_done rfl rfl h ?_
  rw [blockOn64_clear hp]
  dsimp only
  rw [foldl_freeOne, flagAt_reverse]

/-- Settles O13: the instructions that make an access start it in one way, and prefetches, allocations and frees do what the table writes
down for them. -/
theorem memoryInstructionsComplete : Obligations.MemoryInstructionsComplete := by
  unfold Obligations.MemoryInstructionsComplete
  intro i s t cx g h he
  have haccess (hm : (memReq cx i).bind cx.accessEffect = some (t, g)) : exec i s = .next (cx.finish i t g) := by
    obtain ⟨r, hr, he⟩ := Option.bind_eq_some_iff.1 hm
    obtain ⟨rules, body, hrules, hexec, hbody⟩ := exec_startAccess hr
    exact exec_done hrules hexec h (hbody.trans (startAccess_done he))
  cases i
  case pref a b => exact exec_pref h he
  case alloc d a b => exact exec_done rfl rfl h (allocate_done he)
  case allocZ d a b => exact exec_done rfl rfl h (allocate_done he)
  case freeMem a => exact exec_freeMem h he
  all_goals exact haccess he

end Sys2Proof.Machine

end


section

/-! Forms over a symbol (R64, R67, R190, R249). -/

namespace Sys2Proof.Machine
open Sys2Proof

@[simp] theorem joinOrigin_none (p : Option Origin) : joinOrigin p none = p := by
  rcases p with _ | (_ | _) <;> rfl

theorem takesForm_destWaits {cx : Ctx} {d : Operand} (h : cx.takesForm d = true) : cx.destWaits d = false := by
  simp only [Ctx.takesForm, Bool.and_eq_true, Bool.not_eq_true'] at h
  exact h.1

theorem takesForm_v {cx : Ctx} {n : Fin 128} (h : cx.takesForm (.v n) = true) :
    cx.x.fullWrite n.val cx.act = true ∧ cx.x.entry.shared n.val = false := by
  simp only [Ctx.takesForm, Bool.and_eq_true, Bool.not_eq_true'] at h
  exact h.2

/-- A destination that takes a form holds it. -/
theorem writeForm_keeps {cx : Ctx} {d : Operand} (h : cx.takesForm d = true) (sym : Nat) (scale : W64) (alone : Mask) (v : Val) :
    cx.writeForm d sym scale alone v = .done (cx.putForm false d { sym, scale, alone, off := v.at_, pois := v.pois }) 0 := by
  have hd := takesForm_destWaits h
  cases d with
  | v n =>
    obtain ⟨hf, hs⟩ := takesForm_v h
    by_cases h0 : scale.setWidth 32 = 0#32 <;> simp [Ctx.writeForm, Ctx.putForm, hd, hf, hs, h0]
  | w n => by_cases h0 : scale = 0#64 <;> simp [Ctx.writeForm, Ctx.putForm, hd, h0]
  | _ => rfl

theorem integerForm_v {cx : Ctx} {n : Fin 128} {g : Linear} (h : cx.integerForm (.v n) = some g) :
    cx.symbolic (.v n) = true ∧ (cx.vreg n.val).flt = false ∧ cx.halfOfPair (cx.vreg n.val) = false ∧ g = cx.held (.v n) := by
  simp only [Ctx.integerForm, Option.ite_none_right_eq_some, Bool.and_eq_true, Bool.not_eq_true', Option.some.injEq] at h
  obtain ⟨⟨⟨hs, hf⟩, hh⟩, rfl⟩ := h
  exact ⟨hs, hf, hh, rfl⟩

theorem integerForm_w {cx : Ctx} {n : Fin 64} {g : Linear} (h : cx.integerForm (.w n) = some g) :
    cx.symbolic (.w n) = true ∧ (cx.x.ureg n.val).flt = false ∧ (cx.x.ureg n.val).half = false ∧ g = cx.held (.w n) := by
  simp only [Ctx.integerForm, Option.ite_none_right_eq_some, Bool.and_eq_true, Bool.not_eq_true', Option.some.injEq] at h
  obtain ⟨⟨⟨hs, hf⟩, hh⟩, rfl⟩ := h
  exact ⟨hs, hf, hh, rfl⟩

/-- What an integer form says of its operand. -/
theorem integerForm_some {cx : Ctx} {o : Operand} {g : Linear} (h : cx.integerForm o = some g) :
    cx.symbolic o = true ∧ g = cx.held o ∧ cx.opd o = .form g.sym g.scale g.alone (cx.read o) := by
  cases o with
  | v n =>
    obtain ⟨hs, hf, hh, rfl⟩ := integerForm_v h
    exact ⟨hs, rfl, by simp only [Ctx.opd, hs, hf, hh, Bool.or_self, Bool.false_eq_true, if_false, Bool.not_true]; rfl⟩
  | w n =>
    obtain ⟨hs, hf, hh, rfl⟩ := integerForm_w h
    exact ⟨hs, rfl, by simp only [Ctx.opd, hs, hf, hh, Bool.or_self, Bool.false_eq_true, if_false, Bool.not_true]; rfl⟩
  | _ => simp [Ctx.integerForm] at h

theorem held_off (cx : Ctx) (o : Operand) : (cx.held o).off = cx.val o := by cases o <;> rfl
theorem held_pois (cx : Ctx) (o : Operand) : (cx.held o).pois = (cx.read o).pois := by cases o <;> rfl

/-- A uniform operand has one value for every lane (R52). -/
theorem val_uniform (cx : Ctx) {o : Operand} (h : uniformOp o = true) (l k : Nat) : cx.val o l = cx.val o k := by
  cases o with
  | v _ | p _ | lane | flow | cls | seq | a _ | j _ | t _ => cases h
  | _ => rfl

theorem fixed_known {cx : Ctx} {o : Operand} (hu : uniformOp o = true) (hk : cx.symbolic o = false) : cx.fixed o = true := by
  simp [Ctx.fixed, hu, hk]

theorem fixed_symbolic {cx : Ctx} {o : Operand} (h : cx.symbolic o = true) : cx.fixed o = false := by simp [Ctx.fixed, h]

theorem mul_one_shiftLeft {w : Nat} (x : BitVec w) (n : Nat) : x * 1#w <<< n = x <<< n :=
  (BitVec.shiftLeft_eq_mul_twoPow x n).symm

theorem pois_of_form {cx : Ctx} {a : Operand} {g : Linear} (hg : cx.integerForm a = some g) : g.pois = (cx.read a).pois := by
  obtain ⟨-, rfl, -⟩ := integerForm_some hg
  exact held_pois cx a

/-! The rows of R64. -/

section Rows

variable {cx : Ctx} {d a b : Operand} {g : Linear} (ht : cx.takesForm d = true) (hg : cx.integerForm a = some g)
include ht hg

theorem linear_form_known (minus : Bool) (y : Val) : cx.linear d minus (cx.opd a) (.known y) = .done (cx.putForm false d
    { g with off := fun l => if minus then cx.val a l - y.at_ l else cx.val a l + y.at_ l
             pois := fun l => joinOrigin ((cx.read a).pois l) (y.pois l) }) 0 := by
  obtain ⟨-, -, ho⟩ := integerForm_some hg
  rw [ho]
  exact writeForm_keeps ht _ _ _ _

theorem linear_known_form (minus : Bool) (y : Val) : cx.linear d minus (.known y) (cx.opd a) = .done (cx.putForm false d
    { g with scale := if minus then -g.scale else g.scale
             off := fun l => if minus then y.at_ l - cx.val a l else y.at_ l + cx.val a l
             pois := fun l => joinOrigin (y.pois l) ((cx.read a).pois l) }) 0 := by
  obtain ⟨-, -, ho⟩ := integerForm_some hg
  rw [ho]
  exact writeForm_keeps ht _ _ _ _

theorem linear_form_form {h : Linear} (hh : cx.integerForm b = some h) (hs : h.sym = g.sym) (hl : h.alone = g.alone) (minus : Bool) :
    cx.linear d minus (cx.opd a) (cx.opd b) = .done (cx.putForm false d
      { g with scale := if minus then g.scale - h.scale else g.scale + h.scale
               off := fun l => if minus then cx.val a l - cx.val b l else cx.val a l + cx.val b l
               pois := fun l => joinOrigin ((cx.read a).pois l) ((cx.read b).pois l) }) 0 := by
  obtain ⟨-, -, ho⟩ := integerForm_some hg
  obtain ⟨-, -, hq⟩ := integerForm_some hh
  rw [ho, hq, hs, hl]
  simp only [Ctx.linear]
  exact writeForm_keeps ht _ _ _ _

theorem scaled_form (u : Val) : cx.scaled d (cx.opd a) u = .done (cx.putForm false d
    { g with scale := g.scale * u.at_ (lowLane cx.act), off := fun l => cx.val a l * u.at_ l
             pois := fun l => joinOrigin ((cx.read a).pois l) (u.pois l) }) 0 := by
  obtain ⟨-, -, ho⟩ := integerForm_some hg
  rw [ho]
  exact writeForm_keeps ht _ _ _ _

end Rows

theorem shiftFactor_at (wide : Bool) (v : Val) (l : Nat) : (shiftFactor wide v).at_ l = 1#64 <<< ((v.at_ l).toNat % widthOf wide) := rfl

section Instructions

variable {s : State} {cx : Ctx} {d a b : Operand} {g : Linear}

theorem mul_keeps_left (h : s.ready? (.mul d a b) = some cx) (ht : cx.takesForm d = true) (hg : cx.integerForm a = some g)
    (hk : cx.symbolic b = false) (hu : uniformOp b = true) : Keeps s (.mul d a b) cx false d
      { g with scale := g.scale * cx.val b (lowLane cx.act), off := fun l => cx.val a l * cx.val b l
               pois := fun l => joinOrigin ((cx.read a).pois l) ((cx.read b).pois l) } := by
  refine exec_done rfl rfl h ?_
  simp only [Ctx.product, fixed_known hu hk, if_true]
  exact scaled_form ht hg (cx.read b)

theorem mul_keeps_right (h : s.ready? (.mul d b a) = some cx) (ht : cx.takesForm d = true) (hg : cx.integerForm a = some g)
    (hk : cx.symbolic b = false) (hu : uniformOp b = true) : Keeps s (.mul d b a) cx false d
      { g with scale := g.scale * cx.val b (lowLane cx.act), off := fun l => cx.val a l * cx.val b l
               pois := fun l => joinOrigin ((cx.read a).pois l) ((cx.read b).pois l) } := by
  obtain ⟨hs, -, -⟩ := integerForm_some hg
  refine exec_done rfl rfl h ?_
  simp only [Ctx.product, fixed_known hu hk, fixed_symbolic hs, Bool.false_eq_true, if_false, if_true]
  exact scaled_form ht hg (cx.read b)

theorem shl_keeps (h : s.ready? (.shl d a b) = some cx) (ht : cx.takesForm d = true) (hg : cx.integerForm a = some g)
    (hk : cx.symbolic b = false) (hu : uniformOp b = true) : Keeps s (.shl d a b) cx false d
      { g with scale := g.scale <<< ((cx.val b (lowLane cx.act)).toNat % widthOf (wideOps [d, a, b]))
               off := fun l => cx.val a l <<< ((cx.val b (lowLane cx.act)).toNat % widthOf (wideOps [d, a, b]))
               pois := fun l => joinOrigin ((cx.read a).pois l) ((cx.read b).pois l) } := by
  refine exec_done rfl rfl h ?_
  simp only [fixed_known hu hk, if_true]
  rw [scaled_form ht hg]
  simp only [shiftFactor_at, mul_one_shiftLeft]
  have hb (l : Nat) : (cx.read b).at_ l = cx.val b (lowLane cx.act) := val_uniform cx hu _ _
  simp only [hb]
  rfl

theorem addi_keeps {k : BitVec 10} (h : s.ready? (.addi d a k) = some cx) (ht : cx.takesForm d = true)
    (hg : cx.integerForm a = some g) : Keeps s (.addi d a k) cx false d { g with off := fun l => cx.val a l + cx.immB k } := by
  refine exec_done rfl rfl h ?_
  rw [linear_form_known ht hg, pois_of_form hg]
  simp only [Val.const, joinOrigin_none, Bool.false_eq_true, if_false]

theorem muli_keeps {k : BitVec 10} (h : s.ready? (.muli d a k) = some cx) (ht : cx.takesForm d = true)
    (hg : cx.integerForm a = some g) :
    Keeps s (.muli d a k) cx false d { g with scale := g.scale * cx.immB k, off := fun l => cx.val a l * cx.immB k } := by
  refine exec_done rfl rfl h ?_
  rw [scaled_form ht hg, pois_of_form hg]
  simp only [Val.const, joinOrigin_none]

theorem shli_keeps {k : BitVec 6} (h : s.ready? (.shli d a k) = some cx) (ht : cx.takesForm d = true)
    (hg : cx.integerForm a = some g) : Keeps s (.shli d a k) cx false d
      { g with scale := g.scale <<< (k.toNat % widthOf (wideOps [d, a])), off := fun l => cx.val a l <<< (k.toNat % widthOf (wideOps [d, a])) } := by
  have hk : (k.setWidth 64).toNat = k.toNat := BitVec.toNat_setWidth_of_le (by omega)
  refine exec_done rfl rfl h ?_
  rw [scaled_form ht hg, pois_of_form hg]
  simp only [shiftFactor_at, mul_one_shiftLeft]
  simp only [shiftFactor, Val.map, Val.const, joinOrigin_none, hk]

theorem ready_ok {i : Instr} {r : Rules} (h : s.ready? i = some cx) (hr : rulesOf i = some r) :
    ∃ cy : Ctx, cx = cy.live ∧ r.ok cy = true := by
  obtain ⟨cy, r', -, hr', hp, rfl⟩ := ready_ctx h
  cases hr.symm.trans hr'
  simp only [Ctx.passes, Bool.and_eq_true] at hp
  exact ⟨cy, rfl, hp.1.1.2⟩

/-- `mov` of a symbolic uniform register leaves its form in the destination (R64). -/
theorem copyForm_uniform {m : Fin 64} (ht : cx.takesForm d = true) (hg : cx.integerForm (.w m) = some g) (hd : cx.dstVU d = true)
    (hx : cx.s.team? cx.c cx.t = some cx.x) (h0 : g.scale ≠ 0) : cx.copyForm d (.w m) = .done (cx.putForm false d g) 0 := by
  obtain ⟨hsym, hf, hh, rfl⟩ := integerForm_w hg
  cases d with
  | v n =>
    simp only [Ctx.copyForm, hf, Bool.not_false, if_true]
    exact writeForm_keeps ht _ _ _ _
  | w n =>
    have hreg : cx.x.ureg m.val = { val := (cx.x.ureg m.val).val, sym := some ((cx.x.ureg m.val).sym.getD 0)
                                    scale := (cx.x.ureg m.val).scale, pois := (cx.x.ureg m.val).pois } := by
      obtain ⟨k, hk⟩ := Option.isSome_iff_exists.1 hsym
      generalize cx.x.ureg m.val = r at hk hf hh
      cases r
      simp_all
    have h1 : ((cx.held (.w m)).scale == 0) = false := beq_eq_false_iff_ne.2 h0
    simp only [Ctx.copyForm, takesForm_destWaits ht, Bool.false_eq_true, if_false, Ctx.putForm, h1, Bool.and_false,
      State.onTeam_of_some _ hx]
    rw [hreg]; rfl
  | zero => rfl
  | _ => cases hd

theorem mov_uniform_keeps (h : s.ready? (.mov d a) = some cx) (ht : cx.takesForm d = true) (hg : cx.integerForm a = some g)
    (hu : uniformOp a = true) (h0 : g.scale ≠ 0) : Keeps s (.mov d a) cx false d g := by
  obtain ⟨hsym, -, -⟩ := integerForm_some hg
  obtain ⟨hcs, hx, -⟩ := ready_team h
  obtain ⟨cy, rfl, hok⟩ := ready_ok h rfl
  have hd : cy.dstVU d = true := by
    simp only [rules2, Bool.and_eq_true] at hok
    exact hok.1.1
  refine exec_done rfl rfl h ?_
  simp only [hsym, if_true]
  cases a with
  | w m => exact copyForm_uniform ht hg hd (hcs ▸ hx) h0
  | v m => cases hu
  | _ => cases hsym

/-- `mov` of a symbolic vector register copies it (R64; log entry 45). -/
theorem mov_vector {p q : Fin 128} (h : s.ready? (.mov (.v p) (.v q)) = some cx) (ht : cx.takesForm (.v p) = true)
    (hs : (cx.vreg q.val).st = .symbolic) :
    exec (.mov (.v p) (.v q)) s = .next (cx.finish (.mov (.v p) (.v q)) (cx.s.setVreg cx.c cx.t p.val
      { cx.vreg q.val with lanes := laneTable cx.act fun l => (cx.vreg q.val).at l, pois := originTable cx.act (cx.read (.v q)).pois }) 0) := by
  obtain ⟨hfull, hshared⟩ := takesForm_v ht
  have hsym : cx.symbolic (.v q) = true := by simp [Ctx.symbolic, hs]
  refine exec_done rfl rfl h ?_
  simp only [hsym, if_true, Ctx.copyForm, hfull, hshared, Bool.not_true, Bool.or_self, Bool.false_eq_true, if_false]
  rfl

end Instructions

/-! The folds (R67, R249). -/

/-- What a float form says of its operand: it is symbolic, and folds with that form. -/
theorem floatingForm_some {cx : Ctx} {o : Operand} {g : Linear} (h : cx.floatingForm o = some g) :
    cx.symbolic o = true ∧ g.pois = (cx.read o).pois ∧ cx.floatForm o =
      some { sym := g.sym, scale := g.scale.setWidth 32, off := { at_ := g.off, pois := g.pois }, alone := g.alone } := by
  cases o with
  | v n =>
    have hsc : ((cx.vreg n.val).scale.setWidth 64).setWidth 32 = (cx.vreg n.val).scale := by simp
    cases hown : (cx.vreg n.val).st == .symbolic && (cx.vreg n.val).flt with
    | true =>
      simp only [Ctx.floatingForm, hown, if_true, Option.some.injEq] at h
      subst h
      obtain ⟨hs, hf⟩ := Bool.and_eq_true_iff.1 hown
      refine ⟨hs, rfl, ?_⟩
      simp only [Ctx.floatForm, hf, if_true, Ctx.held, hsc]
      rfl
    | false =>
      simp only [Ctx.floatingForm, hown, Bool.false_eq_true, if_false, Option.bind_eq_some_iff, Option.ite_none_right_eq_some,
        Bool.and_eq_true, beq_iff_eq, Option.some.injEq] at h
      obtain ⟨g', hg', ⟨hone, hzero⟩, rfl⟩ := h
      obtain ⟨hs, hf, hh, rfl⟩ := integerForm_v hg'
      have h1 : (cx.vreg n.val).scale = 1 := by rw [← hsc]; exact congrArg (BitVec.setWidth 32) hone
      have h0 : ((lanesOf cx.x.live).all fun l => (cx.vreg n.val).at l == 0 || ((cx.vreg n.val).pois.at? l).isSome) = true :=
        List.all_eq_true.2 fun l hl => by rw [List.all_eq_true.1 hzero l hl, Bool.true_or]
      refine ⟨hs, rfl, ?_⟩
      simp only [Ctx.floatForm, hf, hh, h1, h0, Bool.false_eq_true, if_false, beq_self_eq_true, Bool.and_self, if_true]
      rfl
  | w n =>
    cases hown : (cx.x.ureg n.val).sym.isSome && (cx.x.ureg n.val).flt with
    | true =>
      simp only [Ctx.floatingForm, hown, if_true, Option.some.injEq] at h
      subst h
      obtain ⟨hs, hf⟩ := Bool.and_eq_true_iff.1 hown
      refine ⟨hs, rfl, ?_⟩
      simp only [Ctx.floatForm, hf, if_true, Ctx.held]
      rfl
    | false =>
      simp only [Ctx.floatingForm, hown, Bool.false_eq_true, if_false, Option.bind_eq_some_iff, Option.ite_none_right_eq_some,
        Bool.and_eq_true, beq_iff_eq, Option.some.injEq] at h
      obtain ⟨g', hg', ⟨hone, hzero⟩, rfl⟩ := h
      obtain ⟨hs, hf, hh, rfl⟩ := integerForm_w hg'
      have h1 : (cx.x.ureg n.val).scale = 1 := hone
      have h0 : (cx.x.ureg n.val).val = 0 := hzero
      refine ⟨hs, rfl, ?_⟩
      simp only [Ctx.floatForm, hf, h1, h0, Bool.false_eq_true, if_false, beq_self_eq_true, Bool.true_or, Bool.and_self, if_true]
      rfl
  | _ => simp [Ctx.floatingForm, Ctx.integerForm] at h

theorem writeFloatForm_keeps (cx : Ctx) (d : Operand) (f : FloatForm) (scale : W32) (off : Val) {sc : W64}
    (hs : sc.setWidth 32 = scale) : cx.writeFloatForm d f scale off =
      .done (cx.putForm true d { sym := f.sym, scale := sc, alone := f.alone, off := off.at_, pois := off.pois }) 0 := by
  subst hs
  cases d <;> rfl

theorem takesForm_foldsTo {cx : Ctx} {d : Operand} (h : cx.takesForm d = true) (hl : cx.allLanes = true) : cx.foldsTo d = true := by
  cases d with
  | v n =>
    obtain ⟨hf, hs⟩ := takesForm_v h
    simp [Ctx.foldsTo, hf, hs]
  | _ => exact hl

section Folds

variable {cx : Ctx} {d a b : Operand} {g : Linear} (ht : cx.takesForm d = true) (hg : cx.floatingForm a = some g)
  (hl : cx.allLanes = true) (hm : cx.mods.sym = true) (hr : cx.mods.rm = .rn) (hk : cx.symbolic b = false)
include ht hg hl hm hr hk

theorem folding_left (f : Fold) (hu : f = .mul → uniformOp b = true) : cx.folding f d a b =
    cx.foldWith f d { sym := g.sym, scale := g.scale.setWidth 32, off := { at_ := g.off, pois := g.pois }, alone := g.alone }
      (cx.read b) true := by
  obtain ⟨hs, -, hf⟩ := floatingForm_some hg
  have hmul : (f == .mul && !uniformOp b) = false := by
    cases f <;> simp_all
  have hto := takesForm_foldsTo ht hl
  unfold Ctx.folding
  simp only [hm, hr, hto, hs, hk, hf, hmul, Bool.not_true, bne_self_eq_false, Bool.or_self, Bool.false_eq_true, if_false, if_true,
    Bool.true_eq_false, beq_iff_eq, Bool.false_or]

theorem folding_right (f : Fold) (hu : f = .mul → uniformOp b = true) : cx.folding f d b a =
    cx.foldWith f d { sym := g.sym, scale := g.scale.setWidth 32, off := { at_ := g.off, pois := g.pois }, alone := g.alone }
      (cx.read b) false := by
  obtain ⟨hs, -, hf⟩ := floatingForm_some hg
  have hmul : (f == .mul && !uniformOp b) = false := by
    cases f <;> simp_all
  have hto := takesForm_foldsTo ht hl
  unfold Ctx.folding
  simp only [hm, hr, hto, hs, hk, hf, hmul, Bool.not_true, bne_self_eq_false, Bool.or_self, Bool.false_eq_true, if_false,
    beq_iff_eq, Bool.false_or]

end Folds

/-- Settles O29: each instruction reaches the row of R64 or the fold of R249 that the statement names, and the row writes its form to a
destination that takes it. -/
theorem linearFormsStaySymbolic : Obligations.LinearFormsStaySymbolic := by
  unfold Obligations.LinearFormsStaySymbolic
  intro s cx d a b g ht known pois n
  refine ⟨fun hg => ⟨?_, ?_, ?_, ?_, ?_, ?_, ?_, ?_, ?_, ?_, ?_, ?_⟩, ?_, fun hg hl hm hr hk => ?_⟩
  · exact fun h hk => exec_done rfl rfl h (by rw [opd_known hk]; exact linear_form_known ht hg false (cx.read b))
  · exact fun h hk => exec_done rfl rfl h (by rw [opd_known hk]; exact linear_known_form ht hg false (cx.read b))
  · exact fun h hk => exec_done rfl rfl h (by rw [opd_known hk]; exact linear_form_known ht hg true (cx.read b))
  · exact fun h hk => exec_done rfl rfl h (by rw [opd_known hk]; exact linear_known_form ht hg true (cx.read b))
  · exact fun k hb hs ha => ⟨fun h => exec_done rfl rfl h (linear_form_form ht hg hb hs ha false),
      fun h => exec_done rfl rfl h (linear_form_form ht hg hb hs ha true)⟩
  · exact fun h hk hu => mul_keeps_left h ht hg hk hu
  · exact fun h hk hu => mul_keeps_right h ht hg hk hu
  · exact fun h hk hu => shl_keeps h ht hg hk hu
  · exact fun k h => addi_keeps h ht hg
  · exact fun k h => muli_keeps h ht hg
  · exact fun k h => shli_keeps h ht hg
  · exact fun h hu h0 => mov_uniform_keeps h ht hg hu h0
  · rintro p q rfl rfl hs h
    exact mov_vector h ht hs
  · obtain ⟨-, hp, -⟩ := floatingForm_some hg
    have hab : pois a b = fun l => joinOrigin (g.pois l) ((cx.read b).pois l) := by rw [hp]
    have hba : pois b a = fun l => joinOrigin ((cx.read b).pois l) (g.pois l) := by rw [hp]
    have left := folding_left ht hg hl hm hr hk
    have right := folding_right ht hg hl hm hr hk
    refine ⟨fun h => ?_, fun h => ?_, fun h => ?_, fun h => ?_, ?_⟩
    · rw [hab]; exact exec_done rfl rfl h ((left .add nofun).trans (writeFloatForm_keeps _ _ _ _ _ rfl))
    · rw [hab]; exact exec_done rfl rfl h ((right .add nofun).trans (writeFloatForm_keeps _ _ _ _ _ rfl))
    · rw [hab]; exact exec_done rfl rfl h ((left .sub nofun).trans (writeFloatForm_keeps _ _ _ _ _ rfl))
    · rw [hba]; exact exec_done rfl rfl h ((right .sub nofun).trans (writeFloatForm_keeps _ _ _ _ _ (by simp)))
    · rw [hab]
      rintro hu e c (⟨rfl, rfl⟩ | ⟨rfl, rfl⟩) h
      · exact exec_done rfl rfl h ((left .mul fun _ => hu).trans (writeFloatForm_keeps _ _ _ _ _ (by simp; rfl)))
      · exact exec_done rfl rfl h ((right .mul fun _ => hu).trans (writeFloatForm_keeps _ _ _ _ _ (by simp; rfl)))

end Sys2Proof.Machine

end


section

/-! How a computing instruction ends: it waits, traps or is done (R65, R70, R188-R204, R225, R236, R248-R264). -/

namespace Sys2Proof.Machine
open Sys2Proof

/-- The registers that an instruction uses in a blocking way. -/
def Result.regs (r : Result) : List Operand := r.srcs.flatMap fun o => if r.wideSrc then halvesOf o else [o]

/-- Whether the destination can not be written yet. -/
def Result.destWaits (r : Result) (cx : Ctx) : Bool := if r.wide then cx.destWaits64 r.d else cx.destWaits r.d

theorem symbolic64_eq (cx : Ctx) (o : Operand) : cx.symbolic64 o = (halvesOf o).any cx.symbolic := by
  cases o <;> simp [Ctx.symbolic64, halvesOf]

theorem Result.any_symbolic (r : Result) (cx : Ctx) :
    (r.srcs.any fun o => if r.wideSrc then cx.symbolic64 o else cx.symbolic o) = r.regs.any cx.symbolic := by
  rw [regs, List.any_flatMap]
  congr 1; funext o
  split <;> simp [symbolic64_eq]

/-- How an instruction with a result ends: it waits for the symbols that it uses in a blocking way, where it does not fold; it traps on their
address poison; or it is done, with its result written. -/
structure Ctx.Computes (cx : Ctx) (i : Instr) (r : Result) (d : Did) : Prop where
  waits : r.regs.any cx.symbolic = true → cx.foldsAt i = false → d = .wait cx.s .issue
  traps : r.regs.any cx.symbolic = false → r.destWaits cx = false → tagsOf (cx.origins (r.regs.map cx.read)) = [] →
    addrLanes (cx.origins (r.regs.map cx.read)) ≠ 0 → d = .trap cx.s .poison 0 none (addrLanes (cx.origins (r.regs.map cx.read)))
  done : r.clear cx = true → ∀ n, cx.settle n d = cx.settle n (.done (r.put cx) r.flags)

theorem Result.clear_iff {r : Result} {cx : Ctx} : r.clear cx = true ↔
    r.destWaits cx = false ∧ cx.plain r.regs = true ∧ ∀ o ∈ r.known, cx.symbolic o = false := by
  have hp : (if r.wideSrc then cx.plain64 r.srcs else cx.plain r.srcs) = cx.plain r.regs := by
    unfold regs; split
    · rfl
    · rw [List.flatMap_singleton']
  simp only [clear, hp, Bool.and_eq_true, Bool.not_eq_true', List.all_eq_true, and_assoc]
  rfl

theorem blockOn_traps {cx : Ctx} {os : List Operand} {k : Ctx → Did} (hs : os.any cx.symbolic = false)
    (ht : tagsOf (cx.origins (os.map cx.read)) = []) (ha : addrLanes (cx.origins (os.map cx.read)) ≠ 0) :
    cx.blockOn os k = .trap cx.s .poison 0 none (addrLanes (cx.origins (os.map cx.read))) := by
  simp only [Ctx.blockOn, hs, Ctx.use, Ctx.usePoison, ht, ha, Bool.false_eq_true, if_false, if_true]

/-- An instruction whose result is computed from operands that it uses in a blocking way. -/
theorem computes_of_blockOn {cx : Ctx} {i : Instr} {r : Result} {k : Ctx → Did}
    (hk : ∀ n, cx.settle n (k cx) = cx.settle n (.done (r.put cx) r.flags)) :
    cx.Computes i r (if r.destWaits cx then .wait cx.s .issue else cx.blockOn r.regs k) where
  waits hs _ := by
    split
    · rfl
    · exact blockOn_waits hs
  traps hs hd ht ha := by
    rw [hd, if_neg Bool.false_ne_true]
    exact blockOn_traps hs ht ha
  done hc n := by
    obtain ⟨hd, hp, -⟩ := Result.clear_iff.1 hc
    rw [hd, if_neg Bool.false_ne_true, blockOn_clear hp, hk]

/-- An instruction that uses no operand in a blocking way. -/
theorem computes_of_known {cx : Ctx} {i : Instr} {r : Result} {d : Did} (hr : r.srcs = [])
    (hd : r.destWaits cx = false → (∀ o ∈ r.known, cx.symbolic o = false) → d = .done (r.put cx) r.flags) : cx.Computes i r d where
  waits hs _ := by simp [Result.regs, hr] at hs
  traps _ _ _ ha := by
    have ho : cx.origins [] = [] := by simp [Ctx.origins]
    exact absurd (by rw [Result.regs, hr]; exact congrArg addrLanes ho) ha
  done hc n := by
    obtain ⟨hw, -, hk⟩ := Result.clear_iff.1 hc
    rw [hd hw hk]

/-! The shared operations of the families. -/

theorem compute_computes (cx : Ctx) (i : Instr) (d : Operand) (srcs : List Operand) (f : Ctx → Nat → W64) :
    cx.Computes i { d := d, srcs := srcs, val := f cx } (cx.compute d srcs f) := by
  have hregs : ({ d := d, srcs := srcs, val := f cx } : Result).regs = srcs := List.flatMap_singleton' srcs
  have h := computes_of_blockOn (cx := cx) (i := i) (r := { d := d, srcs := srcs, val := f cx })
    (k := fun cx => .done (cx.write cx.s d (f cx) noOrigin) 0) fun _ => rfl
  rw [hregs] at h
  exact h

/-- The same, with the value of each lane in other words. -/
theorem compute_computes_of_eq {cx : Ctx} {i : Instr} {d : Operand} {srcs : List Operand} {f : Ctx → Nat → W64} {g : Nat → W64}
    (h : ∀ l, f cx l = g l) : cx.Computes i { d := d, srcs := srcs, val := g } (cx.compute d srcs f) := by
  rw [← funext h]; exact compute_computes cx i d srcs f

theorem binary_computes {cx : Ctx} {i : Instr} {f g : (w : Nat) → BitVec w → BitVec w → BitVec w} {d a b : Operand} {r : Result}
    (hr : cx.two g d a b = some r) (h : ∀ w x y, f w x y = g w x y) : cx.Computes i r (cx.binary f d a b) := by
  obtain rfl : f = g := funext fun w => funext fun x => funext fun y => h w x y
  cases hr
  exact compute_computes_of_eq fun _ => rfl

theorem unary_computes {cx : Ctx} {i : Instr} {f : (w : Nat) → BitVec w → BitVec w} {d a : Operand} {r : Result}
    (hr : cx.one f d a = some r) : cx.Computes i r (cx.unary f d a) := by
  cases hr
  exact compute_computes_of_eq fun _ => rfl

theorem immediate_computes {cx : Ctx} {i : Instr} {f g : (w : Nat) → BitVec w → BitVec w → BitVec w} {d a : Operand} {k k' : W64}
    {r : Result} (hr : cx.imm g d a k' = some r) (h : ∀ x, lift2 f (wideOps [d, a]) x k = lift2 g (wideOps [d, a]) x k') :
    cx.Computes i r (cx.immediate f d a k) := by
  cases hr
  exact compute_computes_of_eq fun l => h _

theorem test_computes {cx : Ctx} {i : Instr} {f : (w : Nat) → BitVec w → BitVec w → Bool} {d a b : Operand} {r : Result}
    (hr : cx.cmp f d a b = some r) : cx.Computes i r (cx.test f d a b) := by
  cases hr
  exact compute_computes_of_eq fun _ => rfl

theorem floatTest_computes {cx : Ctx} {i : Instr} {f : W32 → W32 → Bool} {d a b : Operand} {r : Result}
    (hr : cx.fpCmp f d a b = some r) : cx.Computes i r (cx.floatTest f d a b) := by
  cases hr
  exact compute_computes_of_eq fun _ => rfl

theorem saturating_computes {cx : Ctx} {i : Instr} {f : (w : Nat) → BitVec w → BitVec w → BitVec w × Bool} {d a b : Operand}
    {r : Result} (hr : cx.sat f d a b = some r) : cx.Computes i r (cx.saturating f d a b) := by
  cases hr
  exact computes_of_blockOn fun _ => rfl

theorem float2_computes {cx : Ctx} {i : Instr} {f : RMode → W32 → W32 → W32 × FlagSet} {d a b : Operand} {r : Result}
    (hr : cx.fp2 (f cx.mods.rm) d a b = some r) : cx.Computes i r (cx.float2 f d a b) := by
  cases hr
  exact computes_of_blockOn fun _ => rfl

theorem float1_computes {cx : Ctx} {i : Instr} {f : RMode → W32 → W32 × FlagSet} {d a : Operand} {r : Result}
    (hr : cx.fp1 (f cx.mods.rm) d a = some r) : cx.Computes i r (cx.float1 f d a) := by
  cases hr
  exact computes_of_blockOn fun _ => rfl

theorem cvt_computes {cx : Ctx} {i : Instr} {mode : RMode} {d a : Operand} {code : BitVec 8} {r : Result}
    (hr : cx.conv mode d a code = some r) : cx.Computes i r (cx.cvt mode d a code) := by
  unfold Ctx.conv at hr
  cases hc : cvtPair code with
  | none => simp [hc] at hr
  | some p =>
    obtain ⟨dt, st⟩ := p
    simp only [hc, Option.some.injEq] at hr
    subst hr
    have ht : typesOf code = (dt, st) := by simp [typesOf, hc]
    unfold Ctx.cvt
    rw [ht]
    dsimp only
    cases wideType st <;> exact computes_of_blockOn fun _ => rfl

theorem writeKnown_done {cx : Ctx} {d : Operand} (v : Val) (h : cx.destWaits d = false) :
    cx.writeKnown d v = .done (cx.write cx.s d v.at_ v.pois) 0 := by
  simp only [Ctx.writeKnown, h, Bool.false_eq_true, if_false]

theorem linear_computes {cx : Ctx} {i : Instr} {minus : Bool} {d a b : Operand} {r : Result}
    (hr : cx.passing (fun x y => if minus then x - y else x + y) d a b = some r) :
    cx.Computes i r (cx.linear d minus (cx.opd a) (cx.opd b)) := by
  cases hr
  refine computes_of_known rfl fun hd hk => ?_
  rw [opd_known (hk a (by simp)), opd_known (hk b (by simp))]
  exact writeKnown_done _ hd

/-- A known operand by a known uniform factor (R64, R70). -/
theorem scaled_computes {cx : Ctx} {i : Instr} {d a b : Operand} {f : W64 → W64 → W64} {u : Val} {r : Result}
    (hr : cx.passing f d a b = some r) (hv : ∀ x l, x * u.at_ l = f x (cx.val b l)) (hp : u.pois = (cx.read b).pois) :
    cx.Computes i r (cx.scaled d (cx.opd a) u) := by
  cases hr
  refine computes_of_known rfl fun hd hk => ?_
  rw [opd_known (hk a (by simp))]
  refine (writeKnown_done _ hd).trans ?_
  simp only [Val.zip, hv, hp]
  rfl

theorem scaledImm_computes {cx : Ctx} {i : Instr} {d a : Operand} {f : W64 → W64} {u : Val} {r : Result}
    (hr : cx.passingImm f d a = some r) (hv : ∀ x l, x * u.at_ l = f x) (hp : u.pois = fun _ => none) :
    cx.Computes i r (cx.scaled d (cx.opd a) u) := by
  cases hr
  refine computes_of_known rfl fun hd hk => ?_
  rw [opd_known (hk a (by simp))]
  refine (writeKnown_done _ hd).trans ?_
  simp only [Val.zip, hv, hp]
  rfl

end Sys2Proof.Machine

end


section

/-! The operations of the computing instructions in the words of the table (R191-R204, R255-R257, R261). -/

namespace Sys2Proof.Machine
open Sys2Proof

theorem rotL_eq (w : Nat) (x y : BitVec w) : rotL w x y = x.rotateLeft (y.toNat % w) := by
  unfold rotL amount BitVec.rotateLeft BitVec.rotateLeftAux
  rcases Nat.eq_zero_or_pos w with rfl | hw
  · exact Subsingleton.elim _ _
  · rw [Nat.mod_mod]
    rcases Nat.eq_zero_or_pos (y.toNat % w) with h0 | h0
    · simp [h0, BitVec.ushiftRight_eq_zero]
    · rw [Nat.mod_eq_of_lt (by omega : w - y.toNat % w < w)]

theorem minSigned_eq (w : Nat) (x y : BitVec w) : minSigned w x y = if x.sle y then x else y := by
  cases h : y.slt x <;> simp [minSigned, BitVec.sle_eq_not_slt, h]

theorem maxSigned_eq (w : Nat) (x y : BitVec w) : maxSigned w x y = if x.sle y then y else x := by
  simp only [maxSigned, BitVec.slt_eq_decide, BitVec.sle_eq_decide, decide_eq_true_eq]
  split_ifs with hlt hle hle
  · rfl
  · omega
  · exact BitVec.eq_of_toInt_eq (by omega)
  · rfl

theorem minUnsigned_eq (w : Nat) (x y : BitVec w) : minUnsigned w x y = if x.ule y then x else y := by
  cases h : y.ult x <;> simp [minUnsigned, BitVec.ule_eq_not_ult, h]

theorem maxUnsigned_eq (w : Nat) (x y : BitVec w) : maxUnsigned w x y = if x.ule y then y else x := by
  simp only [maxUnsigned, BitVec.ult_eq_decide, BitVec.ule_eq_decide, decide_eq_true_eq]
  split_ifs with hlt hle hle
  · rfl
  · omega
  · exact BitVec.eq_of_toNat_eq (by omega)
  · rfl

/-- A predicate operand reads 0 or 1 on a lane; 0xFF reads 0 (R203). -/
theorem val_isPz {a : Operand} (cx : Ctx) (h : isPz a = true) (l : Nat) : cx.val a l = 0 ∨ cx.val a l = 1 := by
  cases a with
  | p n => simp only [Ctx.val, Ctx.read]; split <;> simp
  | zero => exact .inl rfl
  | _ => cases h

theorem combine_computes {s : State} {cx : Ctx} {i : Instr} {f : W64 → W64 → W64} {g : Bool → Bool → Bool} {d a b : Operand} {r : Result}
    (h : s.ready? i = some cx) (hi : rulesOf i = some (predRules d a b)) (hr : cx.bit g d a b = some r)
    (hf : ∀ x y : W64, x = 0 ∨ x = 1 → y = 0 ∨ y = 1 → f x y = if g (x == 1) (y == 1) then 1 else 0) :
    cx.Computes i r (cx.combine f d a b) := by
  obtain ⟨cy, -, hok⟩ := ready_ok h hi
  simp only [predRules, Bool.and_eq_true] at hok
  cases hr
  exact compute_computes_of_eq fun l => hf _ _ (val_isPz cx hok.1.2 l) (val_isPz cx hok.2 l)

/-! Reductions of mask words (R261). -/

theorem mem_wordsOfMask {m : Mask} {l : Nat} (h : m.getLsbD l = true) : l / 32 ∈ wordsOfMask m := by
  have hl := BitVec.lt_of_getLsbD h
  simp only [wordsOfMask, List.mem_filter, List.mem_range, bne_iff_ne, ne_eq]
  refine ⟨by omega, fun h0 => ?_⟩
  have hb : (maskWord m (l / 32)).getLsbD (l % 32) = true := by
    rw [maskWord, BitVec.getLsbD_extractLsb', show 32 * (l / 32) + l % 32 = l from Nat.div_add_mod l 32, h]
    simp [Nat.mod_lt]
  rw [h0] at hb
  simp at hb

theorem wordsOfMask_sorted (m : Mask) : (wordsOfMask m).Pairwise (· < ·) := List.pairwise_lt_range.filter _

/-- What a reduction gives on an active lane is what it gives for the lane's mask word. -/
theorem atD_words {m : Mask} {l : Nat} (f : Nat → W32 × FlagSet) (h : m.getLsbD l = true) :
    SMap.atD ((wordsOfMask m).map fun w => (w, f w)) (l / 32) (0, 0) = f (l / 32) := by
  have hm : ((wordsOfMask m).map fun w => (w, f w)) = (wordsOfMask m).filterMap fun k => (some (f k)).map fun v => (k, v) := by
    simp
  rw [SMap.atD, hm, at?_filterMap (fun k => some (f k)) _ (wordsOfMask_sorted m), if_pos (mem_wordsOfMask h)]
  rfl

/-! What is written depends on the active lanes alone (R52, R57). -/

theorem foldl_lanes_congr {α : Type} {act : Mask} {f g : α → Nat → α} (h : ∀ a l, act.getLsbD l = true → f a l = g a l) (a : α) :
    (lanesOf act).foldl f a = (lanesOf act).foldl g a :=
  List.foldl_ext _ _ _ fun a l hl => h a l (mem_lanesOf.1 hl)

theorem laneTable_congr {act : Mask} {f g : Nat → W32} (h : ∀ l, act.getLsbD l = true → f l = g l) : laneTable act f = laneTable act g :=
  List.filterMap_congr fun l hl => by rw [h l (mem_lanesOf.1 hl)]

theorem VReg.written_congr {act : Mask} {f g : Nat → W32} (h : ∀ l, act.getLsbD l = true → f l = g l) (ha : act ≠ 0) (r : VReg) (w : Nat)
    (full : Bool) (o : Nat → Option Origin) : r.written w full act f o = r.written w full act g o := by
  have hlow : f (lowLane act) = g (lowLane act) := h _ (getLsbD_lowLane ha)
  have hall : ((lanesOf act).all fun l => f l == f (lowLane act)) = (lanesOf act).all fun l => g l == g (lowLane act) := by
    rw [hlow, Bool.eq_iff_iff, List.all_eq_true, List.all_eq_true]
    exact forall₂_congr fun l hl => by rw [h l (mem_lanesOf.1 hl)]
  have hover (t : SMap W32) : overlay t act f = overlay t act g := foldl_lanes_congr (fun t l hl => by rw [h l hl]) t
  dsimp only [written]
  rw [hall, hlow, laneTable_congr h, hover]

theorem maskWhere_congr {act : Mask} {p q : Nat → Bool} (h : ∀ l, act.getLsbD l = true → p l = q l) : maskWhere act p = maskWhere act q :=
  congrArg maskOf (List.filter_congr fun l hl => h l (mem_lanesOf.1 hl))

theorem flagsOf_congr {act : Mask} {f g : Nat → FlagSet} (h : ∀ l, act.getLsbD l = true → f l = g l) : flagsOf act f = flagsOf act g :=
  foldl_lanes_congr (fun s l hl => by rw [h l hl]) 0

theorem Ctx.write_congr {cx : Ctx} {f g : Nat → W64} (h : ∀ l, cx.act.getLsbD l = true → f l = g l) (ha : cx.act ≠ 0) (s : State)
    (d : Operand) (o : Nat → Option Origin) : cx.write s d f o = cx.write s d g o := by
  cases d with
  | v n =>
    have hw (r : VReg) (w : Nat) (full : Bool) :
        r.written w full cx.act (fun l => (f l).setWidth 32) o = r.written w full cx.act (fun l => (g l).setWidth 32) o :=
      VReg.written_congr (fun l hl => by rw [h l hl]) ha _ _ _ _
    simp only [write, State.writeV, hw]
  | w n => simp only [write, h _ (getLsbD_lowLane ha)]
  | p n =>
    have hm : maskWhere cx.act (fun l => f l != 0) = maskWhere cx.act fun l => g l != 0 := maskWhere_congr fun l hl => by rw [h l hl]
    simp only [write, State.writeP, hm]
  | _ => rfl

theorem Ctx.settle_done_congr {cx : Ctx} {f g : Nat → FlagSet} (h : ∀ l, cx.act.getLsbD l = true → f l = g l) (n : Nat) (s : State) :
    cx.settle n (.done s f) = cx.settle n (.done s g) := by
  have hm (on : FlagSet) : maskWhere cx.act (fun l => f l &&& on != 0) = maskWhere cx.act fun l => g l &&& on != 0 :=
    maskWhere_congr fun l hl => by rw [h l hl]
  simp only [settle, flagsOf_congr h, hm]

theorem reduce_computes {s : State} {cx : Ctx} {i : Instr} {f : Ctx → Nat → W32 × FlagSet} {d a : Operand} {r : Result}
    (h : s.ready? i = some cx) (hr : perWord (f cx) d a = some r) : cx.Computes i r (cx.reduce f d a) := by
  obtain ⟨-, -, -, -, ha⟩ := ready_team h
  cases hr
  refine computes_of_blockOn fun n => ?_
  have hw (l : Nat) (hl : cx.act.getLsbD l = true) :
      SMap.atD ((wordsOfMask cx.act).map fun w => (w, f cx (32 * w))) (l / 32) (0, 0) = f cx (l / 32 * 32) := by
    rw [atD_words (fun w => f cx (32 * w)) hl, Nat.mul_comm]
  refine (Ctx.settle_done_congr (fun l hl => by rw [hw l hl]) n _).trans ?_
  exact congrArg (fun t => cx.settle n (.done t _)) (Ctx.write_congr (fun l hl => by rw [hw l hl]) ha _ _ _)

end Sys2Proof.Machine

end


section

/-! Every computing instruction has one of those ends (R65, R70, R188-R204, R225, R236, R248-R264). -/

namespace Sys2Proof.Machine
open Sys2Proof

/-- An instruction that folds either computes as without SYM, or has a symbolic operand: it waits for that one where it has no float form. -/
theorem folding_cases (cx : Ctx) (f : Fold) (d a b : Operand) : cx.folding f d a b = cx.float2 f.eager d a b ∨
    [a, b].any cx.symbolic = true ∧ (cx.folds (f == .mul) d a b = false → cx.folding f d a b = .wait cx.s .issue) := by
  unfold Ctx.folding
  dsimp only
  split
  · exact .inl rfl
  next hc =>
    obtain ⟨⟨⟨hm, hr⟩, ht⟩, hs⟩ : ((cx.mods.sym = true ∧ cx.mods.rm = .rn) ∧ cx.foldsTo d = true) ∧ cx.symbolic a ≠ cx.symbolic b := by
      simpa using hc
    have hfolds : cx.folds (f == .mul) d a b =
        ((f != .mul || uniformOp (if cx.symbolic a then (a, b) else (b, a)).2) &&
          (cx.floatForm (if cx.symbolic a then (a, b) else (b, a)).1).isSome) := by
      simp only [Ctx.folds, hm, hr, ht, bne_iff_ne.2 hs, Bool.true_and, beq_self_eq_true]
      rfl
    rw [hfolds]
    generalize (if cx.symbolic a then (a, b) else (b, a)) = p
    split
    · exact .inl rfl
    next hu =>
      have hu' : (f != .mul || uniformOp p.2) = true := by
        cases h1 : (f == .mul) <;> cases h2 : uniformOp p.2 <;> simp_all
      refine .inr ⟨?_, fun hf => ?_⟩
      · cases ha : cx.symbolic a <;> cases hb : cx.symbolic b <;> simp_all
      · rw [hu', Bool.true_and, Option.isSome_eq_false_iff, Option.isNone_iff_eq_none] at hf
        simp only [hf]

theorem folding_computes {cx : Ctx} {i : Instr} {f : Fold} {d a b : Operand} {r : Result}
    (hr : cx.fp2 (f.eager cx.mods.rm) d a b = some r) (hi : cx.foldsAt i = cx.folds (f == .mul) d a b) :
    cx.Computes i r (cx.folding f d a b) := by
  rcases folding_cases cx f d a b with he | ⟨hs, hw⟩
  · rw [he]; exact float2_computes hr
  · cases hr
    exact {
      waits := fun _ hf => hw (hi ▸ hf)
      traps := fun hn => by cases hs.symm.trans hn
      done := fun hc => by
        obtain ⟨-, hp, -⟩ := Result.clear_iff.1 hc
        simp only [Ctx.plain, Bool.and_eq_true, Bool.not_eq_true'] at hp
        cases hs.symm.trans hp.1 }

theorem mul_computes {cx : Ctx} {d a b : Operand} {r : Result} (hr : integerResult cx (.mul d a b) = some r) :
    cx.Computes (.mul d a b) r (cx.product d a b) := by
  simp only [integerResult] at hr
  unfold Ctx.product
  split at hr
  · rw [if_pos ‹_›]
    exact scaled_computes hr (fun _ _ => rfl) rfl
  · rw [if_neg ‹_›]
    split at hr
    · rw [if_pos ‹_›]
      exact scaled_computes hr (fun _ _ => rfl) rfl
    · rw [if_neg ‹_›]
      exact binary_computes hr fun _ _ _ => rfl

theorem shl_computes {cx : Ctx} {d a b : Operand} {r : Result} (hr : integerResult cx (.shl d a b) = some r) :
    cx.Computes (.shl d a b) r
      (if cx.fixed b then cx.scaled d (cx.opd a) (shiftFactor (wideOps [d, a, b]) (cx.read b)) else cx.binary shiftL d a b) := by
  simp only [integerResult] at hr
  split at hr
  next hf =>
    rw [if_pos hf]
    refine scaled_computes hr (fun x l => ?_) rfl
    have hu : uniformOp b = true := (Bool.and_eq_true_iff.1 hf).1
    rw [shiftFactor_at, mul_one_shiftLeft, show (cx.read b).at_ l = (cx.read b).at_ 0 from val_uniform cx hu l 0]
    rfl
  next hf =>
    rw [if_neg hf]
    exact binary_computes hr fun _ _ _ => rfl

/-- A shift by an immediate amount (R199). -/
theorem amount_imm (n : BitVec 6) : amount 64 (n.setWidth 64) = n.toNat % 64 ∧ amount 32 ((n.setWidth 64).setWidth 32) = n.toNat % 32 := by
  have h := n.isLt
  simp only [amount, BitVec.toNat_setWidth]
  omega

theorem lift2_amount (f : (w : Nat) → BitVec w → Nat → BitVec w) (n : BitVec 6) {wide : Bool} (x : W64) :
    lift2 (fun w x y => f w x (amount w y)) wide x (n.setWidth 64) = lift2 (fun w x _ => f w x (n.toNat % w)) wide x 0 := by
  obtain ⟨h64, h32⟩ := amount_imm n
  cases wide with
  | true => simp only [lift2, if_true, h64]
  | false => simp only [lift2, Bool.false_eq_true, if_false, h32]

theorem shli_computes {cx : Ctx} {d a : Operand} {n : BitVec 6} {r : Result} (hr : integerResult cx (.shli d a n) = some r) :
    cx.Computes (.shli d a n) r (cx.scaled d (cx.opd a) (shiftFactor (wideOps [d, a]) (.const (n.setWidth 64)))) := by
  refine scaledImm_computes (f := fun x => x <<< (n.toNat % widthOf (wideOps [d, a]))) hr (fun x l => ?_) rfl
  rw [shiftFactor_at, mul_one_shiftLeft]
  exact congrArg (fun k => x <<< (k % widthOf (wideOps [d, a]))) (BitVec.toNat_setWidth_of_le (by omega))

theorem addi_computes {cx : Ctx} {d a : Operand} {k : BitVec 10} {r : Result} (hr : integerResult cx (.addi d a k) = some r) :
    cx.Computes (.addi d a k) r (cx.linear d false (cx.opd a) (.known (.const (cx.immB k)))) := by
  cases hr
  refine computes_of_known rfl fun hd hk => ?_
  rw [opd_known (hk a (by simp))]
  exact writeKnown_done _ hd

theorem mov_computes {cx : Ctx} {d a : Operand} {r : Result} (hr : integerResult cx (.mov d a) = some r) :
    cx.Computes (.mov d a) r (if cx.symbolic a then cx.copyForm d a else cx.writeKnown d (cx.read a)) := by
  cases hr
  refine computes_of_known rfl fun hd hk => ?_
  rw [hk a (by simp), if_neg Bool.false_ne_true]
  exact writeKnown_done _ hd

/-- An instruction performed by a body that ends in one of the ways of a result. -/
def Ends (i : Instr) (cx : Ctx) (r : Result) : Prop :=
  ∃ rules body, rulesOf i = some rules ∧ exec i = perform rules body ∧ cx.Computes i r (body cx)

theorem arithmetic_ends {i : Instr} {s : State} {cx : Ctx} {r : Result} (h : s.ready? i = some cx) (hr : integerResult cx i = some r) :
    Ends i cx r := by
  cases i
  case add d a b => exact ⟨_, _, rfl, rfl, linear_computes (minus := false) hr⟩
  case sub d a b => exact ⟨_, _, rfl, rfl, linear_computes (minus := true) hr⟩
  case mul d a b => exact ⟨_, _, rfl, rfl, mul_computes hr⟩
  case shl d a b => exact ⟨_, _, rfl, rfl, shl_computes hr⟩
  case mov d a => exact ⟨_, _, rfl, rfl, mov_computes hr⟩
  case addi d a k => exact ⟨_, _, rfl, rfl, addi_computes hr⟩
  case muli d a k => exact ⟨_, _, rfl, rfl, scaledImm_computes (f := fun x => x * cx.immB k) hr (fun _ _ => rfl) rfl⟩
  case shli d a n => exact ⟨_, _, rfl, rfl, shli_computes hr⟩
  case shri d a n => exact ⟨_, _, rfl, rfl, immediate_computes hr (lift2_amount (fun _ x k => x >>> k) n)⟩
  case sari d a n => exact ⟨_, _, rfl, rfl, immediate_computes hr (lift2_amount (fun _ x k => x.sshiftRight k) n)⟩
  case addSatI d a b | addSatN d a b => exact ⟨_, _, rfl, rfl, saturating_computes hr⟩
  case mulhiI d a b | mulhiN d a b | divI d a b | divN d a b | remI d a b | remN d a b | andOp d a b | orOp d a b | xorOp d a b |
      andn d a b | shr d a b | sar d a b => exact ⟨_, _, rfl, rfl, binary_computes hr fun _ _ _ => rfl⟩
  case rotl d a b => exact ⟨_, _, rfl, rfl, binary_computes hr rotL_eq⟩
  case minI d a b => exact ⟨_, _, rfl, rfl, binary_computes hr minSigned_eq⟩
  case maxI d a b => exact ⟨_, _, rfl, rfl, binary_computes hr maxSigned_eq⟩
  case minN d a b => exact ⟨_, _, rfl, rfl, binary_computes hr minUnsigned_eq⟩
  case maxN d a b => exact ⟨_, _, rfl, rfl, binary_computes hr maxUnsigned_eq⟩
  case clz d a | popc d a | brev d a | ffs d a => exact ⟨_, _, rfl, rfl, unary_computes hr⟩
  case andi d a k | ori d a k | xori d a k => exact ⟨_, _, rfl, rfl, immediate_computes hr fun _ => rfl⟩
  case cmpEq d a b | cmpNe d a b | cmpLtI d a b | cmpLeI d a b | cmpLtN d a b | cmpLeN d a b | tst d a b | tstz d a b =>
    exact ⟨_, _, rfl, rfl, test_computes hr⟩
  case pand d a b => exact ⟨_, _, rfl, rfl, combine_computes (g := fun x y => x && y) h rfl hr (by rintro x y (rfl | rfl) (rfl | rfl) <;> rfl)⟩
  case por d a b => exact ⟨_, _, rfl, rfl, combine_computes (g := fun x y => x || y) h rfl hr (by rintro x y (rfl | rfl) (rfl | rfl) <;> rfl)⟩
  case pxor d a b => exact ⟨_, _, rfl, rfl, combine_computes (g := fun x y => x != y) h rfl hr (by rintro x y (rfl | rfl) (rfl | rfl) <;> rfl)⟩
  case pandn d a b => exact ⟨_, _, rfl, rfl, combine_computes (g := fun x y => x && !y) h rfl hr (by rintro x y (rfl | rfl) (rfl | rfl) <;> rfl)⟩
  case mad d a b | bfxI d a b | bfxN d a b | bfi d a b | cmov d a b | movi d k | movk d sel k | p2v d a | v2p d a | pset d | pclr d |
      pfirst d a | pcnt d a => cases hr; exact ⟨_, _, rfl, rfl, compute_computes_of_eq fun _ => rfl⟩
  case lea d a b | gaddr d a | space d a => cases hr; exact ⟨_, _, rfl, rfl, computes_of_blockOn fun _ => rfl⟩
  all_goals cases hr

theorem float_ends {i : Instr} {cx : Ctx} {r : Result} (hr : floatResult cx i = some r) : Ends i cx r := by
  cases i
  case fadd d a b => exact ⟨_, _, rfl, rfl, folding_computes (f := .add) hr rfl⟩
  case fsub d a b => exact ⟨_, _, rfl, rfl, folding_computes (f := .sub) hr rfl⟩
  case fmul d a b => exact ⟨_, _, rfl, rfl, folding_computes (f := .mul) hr rfl⟩
  case fmin d a b | fmax d a b | fdiv d a b | fcpsgn d a b => exact ⟨_, _, rfl, rfl, float2_computes hr⟩
  case frcp d a | frsq d a | fsqrt d a | fexp2 d a | flog2 d a | fsin d a | fcos d a | ftanh d a =>
    exact ⟨_, _, rfl, rfl, float1_computes hr⟩
  case fcmpEq d a b | fcmpLt d a b | fcmpLe d a b | fcmpUn d a b => exact ⟨_, _, rfl, rfl, floatTest_computes hr⟩
  case cvtRn d a code | cvtRz d a code | cvtRd d a code | cvtRu d a code => exact ⟨_, _, rfl, rfl, cvt_computes hr⟩
  case ffma d a b | qblk d a b | qmx d a code | dqblk d a => cases hr; exact ⟨_, _, rfl, rfl, computes_of_blockOn fun _ => rfl⟩
  all_goals cases hr

theorem lane_ends {i : Instr} {s : State} {cx : Ctx} {r : Result} (h : s.ready? i = some cx) (hr : laneResult cx i = some r) :
    Ends i cx r := by
  cases i
  case redwAdd d a | redwFadd d a | redwFmax d a | redwFmin d a => exact ⟨_, _, rfl, rfl, reduce_computes h hr⟩
  case voteAny d a | voteAll d a | ballot d a | voteEq d a | sq d a =>
    cases hr; exact ⟨_, _, rfl, rfl, compute_computes_of_eq fun _ => rfl⟩
  all_goals cases hr

/-- Every instruction with a result ends in one of its three ways. -/
theorem computing_ends {i : Instr} {s : State} {cx : Ctx} {r : Result} (h : s.ready? i = some cx) (hr : resultOf cx i = some r) :
    Ends i cx r := by
  simp only [resultOf, Option.or_eq_some_iff] at hr
  obtain (hint | ⟨-, hfloat⟩) | ⟨-, hlane⟩ := hr
  · exact arithmetic_ends h hint
  · exact float_ends hfloat
  · exact lane_ends h hlane

end Sys2Proof.Machine

end


section

/-! Blocking uses (R65, R70), and what a computing instruction leaves as it was (R52, R57, R109, R110, R120, R367). -/

namespace Sys2Proof.Machine
open Sys2Proof

/-- Settles O26: every computing instruction ends in one of the ways of its result, and two of them are those of the statement. -/
theorem blockingUsesWaitOrTrap : Obligations.BlockingUsesWaitOrTrap := by
  unfold Obligations.BlockingUsesWaitOrTrap
  intro i s cx r h hr symbolic os
  obtain ⟨rules, body, hrules, hexec, hends⟩ := computing_ends h hr
  have hsym : symbolic = r.regs.any cx.symbolic := r.any_symbolic cx
  refine ⟨fun hs hf => ?_, fun hs hd ht ha => ?_⟩
  · exact exec_ready hrules hexec h (hends.waits (hsym ▸ hs) hf)
  · exact exec_ready hrules hexec h (hends.traps (hsym ▸ hs) hd ht ha)

/-! The frames, step by step. -/

/-- What of a core an instruction of one team leaves as it was, but for teams, shared registers and flags. -/
structure Core.Rest (j k : Core) : Prop where
  syms : k.syms = j.syms
  fbuf : k.fbuf = j.fbuf
  handles : k.handles = j.handles
  locks : k.locks = j.locks
  osb : k.osb = j.osb
  bars : k.bars = j.bars
  accs : k.accs = j.accs
  tq : k.tq = j.tq
  items : k.items = j.items
  arithen : k.arithen = j.arithen
  quota : k.quota = j.quota
  cache : ∀ e ∈ k.cache, e ∈ j.cache

namespace State

theorem SameDevice.refl (s : State) : s.SameDevice s := by constructor <;> rfl

theorem SameDevice.trans {s t u : State} (h : s.SameDevice t) (k : t.SameDevice u) : s.SameDevice u := by
  cases h; cases k
  constructor <;> simp_all only

theorem sameDevice_onCore (s : State) (c : Nat) (f : Core → Core) : s.SameDevice (s.onCore c f) := by constructor <;> rfl

theorem sameDevice_onTeam (s : State) (c t : Nat) (f : Team → Team) : s.SameDevice (s.onTeam c t f) := by
  unfold onTeam
  split
  · exact .refl s
  · exact sameDevice_onCore s c _

theorem SameOthers.refl (s : State) (c u : Nat) : s.SameOthers s c u := by constructor <;> simp

theorem SameOthers.trans {s t v : State} {c u : Nat} (h : s.SameOthers t c u) (k : t.SameOthers v c u) : s.SameOthers v c u := by
  cases h; cases k
  constructor <;> simp_all

/-- A change of a core that keeps everything of it but shared registers, flags and a team. -/
theorem sameOthers_onCore {s : State} {c : Nat} {f : Core → Core} (u : Nat) (hr : (s.core c).Rest (f (s.core c)))
    (ht : ∀ v, v ≠ u → (f (s.core c)).teams.at? v = (s.core c).teams.at? v) : s.SameOthers (s.onCore c f) c u where
  cores d hd := core_onCore_ne s f hd
  teams v hv := by simpa [team?] using ht v hv
  syms := by simpa using hr.syms
  fbuf := by simpa using hr.fbuf
  handles := by simpa using hr.handles
  locks := by simpa using hr.locks
  osb := by simpa using hr.osb
  bars := by simpa using hr.bars
  accs := by simpa using hr.accs
  tq := by simpa using hr.tq
  items := by simpa using hr.items
  arithen := by simpa using hr.arithen
  quota := by simpa using hr.quota
  cache := by simpa using hr.cache

theorem sameOthers_setTeam (s : State) (c u : Nat) (x : Team) : s.SameOthers (s.setTeam c u x) c u :=
  sameOthers_onCore u ⟨rfl, rfl, rfl, rfl, rfl, rfl, rfl, rfl, rfl, rfl, rfl, fun _ h => h⟩ fun _ hv => SMap.at?_put_ne _ _ hv

end State

/-! Registers that are kept. -/

theorem Team.Keeps.refl (x : Team) (d : Operand) (wide : Bool) : x.Keeps x d wide where
  vregs _ _ := rfl
  uregs _ _ := rfl
  preds _ _ := rfl
  bank z hz := ⟨z, hz, fun _ _ => rfl, fun _ _ _ => rfl, rfl, rfl, rfl, rfl, rfl, rfl⟩
  part := rfl
  entry := rfl
  items := rfl
  tiles := rfl
  accs := rfl
  batch := rfl
  queue := rfl
  pend := rfl
  joins := rfl
  barGen := rfl
  stage := rfl
  quarter := rfl
  age := rfl

theorem Team.Keeps.trans {x y z : Team} {d : Operand} {wide : Bool} (h : x.Keeps y d wide) (k : y.Keeps z d wide) : x.Keeps z d wide where
  vregs n hn := (k.vregs n hn).trans (h.vregs n hn)
  uregs n hn := (k.uregs n hn).trans (h.uregs n hn)
  preds n hn := (k.preds n hn).trans (h.preds n hn)
  bank v hv := by
    obtain ⟨u, hu, hr, hp, h1, h2, h3, h4, h5, h6⟩ := h.bank v hv
    obtain ⟨w, hw, kr, kp, k1, k2, k3, k4, k5, k6⟩ := k.bank u hu
    exact ⟨w, hw, fun n hn => (kr n hn).trans (hr n hn), fun n hl hn => (kp n hl hn).trans (hp n hl hn), k1.trans h1, k2.trans h2,
      k3.trans h3, k4.trans h4, k5.trans h5, k6.trans h6⟩
  part := k.part.trans h.part
  entry := k.entry.trans h.entry
  items := k.items.trans h.items
  tiles := k.tiles.trans h.tiles
  accs := k.accs.trans h.accs
  batch := k.batch.trans h.batch
  queue := k.queue.trans h.queue
  pend := k.pend.trans h.pend
  joins := k.joins.trans h.joins
  barGen := k.barGen.trans h.barGen
  stage := k.stage.trans h.stage
  quarter := k.quarter.trans h.quarter
  age := k.age.trans h.age

/-- What a step of a computing instruction leaves as it was: everything but one team's destination and place, the shared registers and the
flags of its core, and lines of its read cache. -/
structure State.Step (s t : State) (c u : Nat) (d : Operand) (wide : Bool) (x y : Team) : Prop where
  team : t.team? c u = some y
  device : s.SameDevice t
  others : s.SameOthers t c u
  keeps : x.Keeps y d wide
  vreg : ∀ n, writesV d wide n = false → t.vreg c y n = s.vreg c x n

namespace State

variable {s t : State} {c u : Nat} {d : Operand} {wide : Bool} {x y : Team}

theorem Step.refl (h : s.team? c u = some x) : s.Step s c u d wide x x := ⟨h, .refl s, .refl s c u, .refl x d wide, fun _ _ => rfl⟩

theorem Step.trans {v : State} {z : Team} (h : s.Step t c u d wide x y) (k : t.Step v c u d wide y z) : s.Step v c u d wide x z :=
  ⟨k.team, h.device.trans k.device, h.others.trans k.others, h.keeps.trans k.keeps, fun n hn => (k.vreg n hn).trans (h.vreg n hn)⟩

@[simp] theorem onTeam_flags (s : State) (c u d p : Nat) (f : Team → Team) : (s.onTeam c u f).flags d p = s.flags d p := by
  unfold onTeam
  split
  · rfl
  · by_cases h : d = c
    · subst h; simp [flags]
    · simp [flags, h]

theorem sameCache_setTeam (s : State) (c u : Nat) (x : Team) : s.SameCache (s.setTeam c u x) c := ⟨by simp, rfl⟩

theorem SameCache.refl (s : State) (c : Nat) : s.SameCache s c := ⟨rfl, rfl⟩
theorem SameCache.trans {v : State} (h : s.SameCache t c) (k : t.SameCache v c) : s.SameCache v c :=
  ⟨k.cache.trans h.cache, k.txs.trans h.txs⟩

/-- The team alone is written. -/
theorem step_setTeam (hk : x.Keeps y d wide) : s.Step (s.setTeam c u y) c u d wide x y where
  team := by simp
  device := sameDevice_onCore s c _
  others := sameOthers_setTeam s c u y
  keeps := hk
  vreg n hn := by
    unfold State.vreg
    rw [hk.entry, hk.vregs n hn]
    simp

theorem step_setVreg {n : Nat} (r : VReg) (h : s.team? c u = some x) (hd : writesV d wide n = true) :
    s.Step (s.setVreg c u n r) c u d wide x (x.withVreg n r) where
  team := team?_setVreg_self n r h
  device := by
    simp only [setVreg, h]
    split
    · exact sameDevice_onCore s c _
    · exact sameDevice_onCore s c _
  others := by
    simp only [setVreg, h]
    split
    · exact sameOthers_onCore u ⟨rfl, rfl, rfl, rfl, rfl, rfl, rfl, rfl, rfl, rfl, rfl, fun _ h => h⟩ fun _ _ => rfl
    · exact sameOthers_setTeam s c u _
  keeps := by
    unfold Team.withVreg
    split
    · exact .refl x d wide
    · exact { Team.Keeps.refl x d wide with vregs := fun m hm => SMap.atD_store_ne _ _ _ _ fun e => by simp [e, hd] at hm }
  vreg m hm := vreg_setVreg_ne r h fun e => by simp [e, hd] at hm

theorem setVreg_flags (n p : Nat) (r : VReg) : (s.setVreg c u n r).flags c p = s.flags c p := by
  unfold setVreg
  split
  · rfl
  · split <;> simp [flags]

theorem sameCache_setVreg (n : Nat) (r : VReg) : s.SameCache (s.setVreg c u n r) c := by
  unfold setVreg
  split
  · exact .refl s c
  · split
    · exact ⟨by simp, rfl⟩
    · exact sameCache_setTeam ..

theorem step_setFlags (p : Nat) (g : FlagSet) (h : s.team? c u = some x) : s.Step (s.setFlags c p g) c u d wide x x := by
  unfold setFlags
  split
  · exact .refl h
  · exact {
      team := h ▸ team?_onCore_of_teams s c c u fun _ => rfl
      device := sameDevice_onCore s c _
      others := sameOthers_onCore u ⟨rfl, rfl, rfl, rfl, rfl, rfl, rfl, rfl, rfl, rfl, rfl, fun _ h => h⟩ fun _ _ => rfl
      keeps := .refl x d wide
      vreg := fun n _ => by simp [State.vreg] }

theorem setFlags_flags (p q : Nat) (g : FlagSet) :
    (s.setFlags c p g).flags c q = if q = p then s.flags c q ||| g else s.flags c q := by
  unfold setFlags
  split
  next h => subst h; simp
  next h =>
    by_cases hq : q = p
    · subst hq; simp [flags]
    · simp [flags, hq]

theorem sameCache_setFlags (p : Nat) (g : FlagSet) : s.SameCache (s.setFlags c p g) c := by
  unfold setFlags
  split
  · exact .refl s c
  · exact ⟨by simp, rfl⟩

/-- Flags, read cache and mode as they were. -/
structure Quiet (s t : State) (c : Nat) (x y : Team) : Prop where
  flags : ∀ p, t.flags c p = s.flags c p
  cache : s.SameCache t c
  mode : y.inSys = x.inSys

theorem Quiet.refl (s : State) (c : Nat) (x : Team) : s.Quiet s c x x := ⟨fun _ => rfl, .refl s c, rfl⟩

theorem Quiet.trans {v : State} {z : Team} (h : s.Quiet t c x y) (k : t.Quiet v c y z) : s.Quiet v c x z :=
  ⟨fun p => (k.flags p).trans (h.flags p), h.cache.trans k.cache, k.mode.trans h.mode⟩

theorem quiet_onTeam {f : Team → Team} (h : s.team? c u = some x) (hm : (f x).inSys = x.inSys) : s.Quiet (s.onTeam c u f) c x (f x) where
  flags p := onTeam_flags s c u c p f
  cache := by rw [onTeam_of_some f h]; exact sameCache_setTeam s c u _
  mode := hm

theorem step_onTeam {f : Team → Team} (h : s.team? c u = some x) (hk : x.Keeps (f x) d wide) :
    s.Step (s.onTeam c u f) c u d wide x (f x) := by
  rw [onTeam_of_some f h]; exact step_setTeam hk

end State

theorem Team.keeps_setUreg {d : Operand} {n : Nat} (x : Team) (r : UReg) (wide : Bool) (hd : writesW d n = true) :
    x.Keeps (x.setUreg n r) d wide := by
  have hne {m : Nat} (hm : writesW d m = false) : m ≠ n := fun e => by simp [e, hd] at hm
  unfold setUreg
  split
  next z hz => exact {
    Keeps.refl x d wide with
    bank := fun v hv => by
      obtain rfl : z = v := Option.some.inj (hz.symm.trans hv)
      exact ⟨_, rfl, fun m hm => SMap.atD_store_ne _ _ _ _ (hne hm), fun _ _ _ => rfl, rfl, rfl, rfl, rfl, rfl, rfl⟩ }
  next hz => exact {
    Keeps.refl x d wide with
    uregs := fun m hm => SMap.atD_store_ne _ _ _ _ (hne hm) }

theorem Team.inSys_setUreg (x : Team) (n : Nat) (r : UReg) : (x.setUreg n r).inSys = x.inSys := by
  unfold setUreg
  split <;> simp [inSys, *]

theorem Team.keeps_setPred {d : Operand} {n : Nat} (x : Team) (m : Mask) (wide : Bool) (hd : writesP d n = true) :
    x.Keeps (x.setPred n m) d wide := by
  have hne {k : Nat} (hk : writesP d k = false) : k ≠ n := fun e => by simp [e, hd] at hk
  unfold setPred
  split
  next z hz => exact {
    Keeps.refl x d wide with
    bank := fun v hv => by
      obtain rfl : z = v := Option.some.inj (hz.symm.trans hv)
      refine ⟨_, rfl, fun _ _ => rfl, fun k hk hw => ?_, rfl, rfl, rfl, rfl, rfl, rfl⟩
      have hb : ((1#16) <<< n).getLsbD k = false := by
        have := hne hw
        rw [BitVec.getLsbD_shiftLeft, BitVec.getLsbD_one]
        simp
        omega
      dsimp only
      split
      · rw [BitVec.getLsbD_or, hb, Bool.or_false]
      · rw [BitVec.getLsbD_and, BitVec.getLsbD_not, hb, decide_eq_true hk, Bool.not_false, Bool.and_true, Bool.and_true] }
  next hz => exact {
    Keeps.refl x d wide with
    preds := fun k hk => SMap.atD_store_ne _ _ _ _ (hne hk) }

theorem Team.inSys_setPred (x : Team) (n : Nat) (m : Mask) : (x.setPred n m).inSys = x.inSys := by
  unfold setPred
  split <;> simp [inSys, *]

theorem Team.inSys_withVreg (x : Team) (n : Nat) (r : VReg) : (x.withVreg n r).inSys = x.inSys := by simp [inSys]

/-! An instruction's own steps: its write, its flags, its place, and the entry into the handler. -/

namespace Ctx

variable {cx : Ctx} {s : State} {x : Team}

theorem step_write_v {d : Operand} {wide : Bool} (n : Fin 128) (f : Nat → W64) (o : Nat → Option Origin)
    (h : s.team? cx.c cx.t = some x) (hd : writesV d wide n.val = true) :
    ∃ y, s.Step (cx.write s (.v n) f o) cx.c cx.t d wide x y ∧ s.Quiet (cx.write s (.v n) f o) cx.c x y := by
  have hw : cx.write s (.v n) f o = s.setVreg cx.c cx.t n _ := State.writeV_of_some _ _ _ _ h
  rw [hw]
  exact ⟨_, State.step_setVreg _ h hd, fun p => State.setVreg_flags _ p _, State.sameCache_setVreg _ _, x.inSys_withVreg _ _⟩

theorem step_write (d : Operand) (wide : Bool) (f : Nat → W64) (o : Nat → Option Origin) (h : s.team? cx.c cx.t = some x) :
    ∃ y, s.Step (cx.write s d f o) cx.c cx.t d wide x y ∧ s.Quiet (cx.write s d f o) cx.c x y := by
  cases d with
  | v n => exact step_write_v n f o h (by simp [writesV])
  | w n => exact ⟨_, State.step_onTeam h (x.keeps_setUreg _ wide (by simp [writesW])), State.quiet_onTeam h (x.inSys_setUreg _ _)⟩
  | p n => exact ⟨_, State.step_onTeam h (x.keeps_setPred _ wide (by simp [writesP])), State.quiet_onTeam h (x.inSys_setPred _ _)⟩
  | _ => exact ⟨x, .refl h, .refl s cx.c x⟩

theorem write64_of_ne_v {d : Operand} (f : Nat → W64) (o : Nat → Option Origin) (hd : ∀ n, d ≠ .v n) :
    cx.write64 s d f o = cx.write s d f o := by
  cases d with
  | v n => exact absurd rfl (hd n)
  | _ => rfl

theorem step_write64 (d : Operand) (f : Nat → W64) (o : Nat → Option Origin) (h : s.team? cx.c cx.t = some x) :
    ∃ y, s.Step (cx.write64 s d f o) cx.c cx.t d true x y ∧ s.Quiet (cx.write64 s d f o) cx.c x y := by
  by_cases hv : ∃ n, d = .v n
  · obtain ⟨n, rfl⟩ := hv
    obtain ⟨y, hy, qy⟩ := cx.step_write_v (d := .v n) (wide := true) n f o h (by simp [writesV])
    obtain ⟨z, hz, qz⟩ := cx.step_write_v (d := .v n) (wide := true) (n + 1) (fun l => f l >>> 32) o hy.team (by simp [writesV])
    exact ⟨z, hy.trans hz, qy.trans qz⟩
  · rw [write64_of_ne_v f o fun n e => hv ⟨n, e⟩]
    exact step_write d true f o h

theorem step_put (r : Result) (h : cx.s.team? cx.c cx.t = some cx.x) :
    ∃ y, cx.s.Step (r.put cx) cx.c cx.t r.d r.wide cx.x y ∧ cx.s.Quiet (r.put cx) cx.c cx.x y := by
  unfold Result.put
  cases r.wide with
  | true => exact step_write64 r.d r.val r.pois h
  | false => exact step_write r.d false r.val r.pois h

theorem step_retire (d : Operand) (wide : Bool) (passes : Nat) (h : s.team? cx.c cx.t = some x) :
    ∃ y, s.Step (cx.retire s passes) cx.c cx.t d wide x y ∧ s.Quiet (cx.retire s passes) cx.c x y := by
  refine ⟨_, State.step_onTeam h ?_, State.quiet_onTeam h ?_⟩
  · split
    next z hz => exact {
      Team.Keeps.refl x d wide with
      bank := fun v hv => by
        obtain rfl : z = v := Option.some.inj (hz.symm.trans hv)
        exact ⟨_, rfl, fun _ _ => rfl, fun _ _ _ => rfl, rfl, rfl, rfl, rfl, rfl, rfl⟩ }
    next hz => exact { Team.Keeps.refl x d wide with }
  · split
    next z hz => simp [Team.inSys, hz]
    next hz => rfl

end Ctx

/-! The entry into the handler (R109, R110, R355). -/

namespace State

variable {s : State} {c u : Nat} {x : Team}

theorem step_stopFills (b p : Nat) (lines : Nat → Bool) (d : Operand) (wide : Bool) (h : s.team? c u = some x) :
    s.Step (s.stopFills b p lines) c u d wide x x where
  team := h
  device := by
    constructor
    case txs =>
      rw [stopFills, List.map_map]
      refine List.map_congr_left fun t _ => ?_
      rw [Function.comp_apply]
      split <;> rfl
    all_goals rfl
  others := ⟨fun _ _ => rfl, fun _ _ => rfl, rfl, rfl, rfl, rfl, rfl, rfl, rfl, rfl, rfl, rfl, rfl, fun _ h => h⟩
  keeps := .refl x d wide
  vreg _ _ := rfl

theorem step_filterCache (q : Nat × Nat × List Byte → Bool) (d : Operand) (wide : Bool) (h : s.team? c u = some x) :
    s.Step (s.onCore c fun k => { k with cache := k.cache.filter q }) c u d wide x x where
  team := h ▸ team?_onCore_of_teams s c c u fun _ => rfl
  device := sameDevice_onCore s c _
  others := sameOthers_onCore u ⟨rfl, rfl, rfl, rfl, rfl, rfl, rfl, rfl, rfl, rfl, rfl, fun _ h => List.mem_of_mem_filter h⟩ fun _ _ => rfl
  keeps := .refl x d wide
  vreg n _ := by simp [State.vreg]

theorem step_discardLines (p : Nat) (sc : Scope) (d : Operand) (wide : Bool) (h : s.team? c u = some x) :
    s.Step (s.discardLines c p sc) c u d wide x x ∧ ∀ q, (s.discardLines c p sc).flags c q = s.flags c q := by
  unfold discardLines
  split
  · exact ⟨.refl h, fun _ => rfl⟩
  · have hf := step_filterCache (fun e => e.1 != p || (sc != .sys && peerLine e.2.1)) d wide h
    dsimp only
    split
    · exact ⟨hf.trans (step_stopFills c p _ d wide hf.team), fun q => by simp [flags, stopFills, core, onCore, setCore]⟩
    · exact ⟨hf, fun q => by simp [flags]⟩

theorem step_enterTrap (d : Operand) (wide : Bool) (h : s.team? c u = some x) (hs : x.sys = none) :
    ∃ y, s.Step (s.enterTrap c u) c u d wide x y ∧ ∀ q, (s.enterTrap c u).flags c q = s.flags c q := by
  simp only [enterTrap, h]
  split
  next cd p _ _ =>
    obtain ⟨hstep, hflags⟩ := step_discardLines x.part .sys d wide h
    refine ⟨_, hstep.trans (step_setTeam ?_), fun q => ?_⟩
    · exact { Team.Keeps.refl x d wide with bank := fun z hz => by simp [hs] at hz }
    · refine Eq.trans ?_ (hflags q)
      simp [flags]
  · exact ⟨x, .refl h, fun _ => rfl⟩

theorem step_takeTrap (n : Nat) (cd : Condition) (d : Operand) (wide : Bool) (h : s.team? c u = some x) (hs : x.sys = none) :
    ∃ y, s.Step (s.takeTrap c u n cd) c u d wide x y ∧ ∀ q, (s.takeTrap c u n cd).flags c q = s.flags c q := by
  have hkeep : x.Keeps { x with trap := some cd, trapSpl := n } d wide := { Team.Keeps.refl x d wide with }
  have hstep := step_onTeam (f := fun x => { x with trap := some cd, trapSpl := n }) h hkeep
  unfold takeTrap
  dsimp only
  split
  · obtain ⟨y, hy, fy⟩ := step_enterTrap d wide hstep.team hs
    exact ⟨y, hstep.trans hy, fun q => (fy q).trans (onTeam_flags ..)⟩
  · exact ⟨_, hstep, fun q => onTeam_flags ..⟩

theorem step_trapOn (n : Nat) (cd : Condition) (at_ : Option W64) (d : Operand) (wide : Bool) (h : s.team? c u = some x)
    (hs : x.inSys = false) :
    ∃ y, s.Step (s.trapOn c u n cd at_) c u d wide x y ∧ ∀ q, (s.trapOn c u n cd at_).flags c q = s.flags c q := by
  simp only [trapOn, h, hs, Bool.false_eq_true, if_false]
  exact step_takeTrap n _ d wide h (sys_none_of_inSys hs)

end State

/-- What a computing instruction that is done leaves: its result, the flags, its place, and the handler where an enabled flag traps. -/
theorem Ctx.settle_done_step {cx : Ctx} {r : Result} (n : Nat) (h : cx.s.team? cx.c cx.t = some cx.x) (hs : cx.sys = cx.x.inSys) :
    ∃ y, cx.s.Step (cx.settle n (.done (r.put cx) r.flags)) cx.c cx.t r.d r.wide cx.x y ∧
      (∀ p, (cx.settle n (.done (r.put cx) r.flags)).flags cx.c p =
        if p = cx.part then cx.s.flags cx.c p ||| flagsOf cx.act r.flags else cx.s.flags cx.c p) ∧
      (cx.sys = true ∨ flagsOf cx.act r.flags &&& cx.s.enabled cx.c cx.part = 0 →
        cx.s.SameCache (cx.settle n (.done (r.put cx) r.flags)) cx.c) := by
  obtain ⟨x1, h1, q1⟩ := step_put r h
  have h2 := State.step_setFlags (d := r.d) (wide := r.wide) cx.part (flagsOf cx.act r.flags) h1.team
  obtain ⟨x3, h3, q3⟩ := step_retire r.d r.wide (n + cx.expansions ((r.put cx).setFlags cx.c cx.part (flagsOf cx.act r.flags))) h2.team
  have hstep := (h1.trans h2).trans h3
  have hflags (p : Nat) := (q3.flags p).trans
    ((State.setFlags_flags cx.part p _).trans (by rw [q1.flags p]))
  have hcache := (q1.cache.trans (State.sameCache_setFlags cx.part _)).trans q3.cache
  have hmode : x3.inSys = cx.sys := (q3.mode.trans q1.mode).trans hs.symm
  simp only [settle]
  generalize cx.retire _ _ = t at *
  have henabled : t.enabled cx.c cx.part = cx.s.enabled cx.c cx.part := by simp only [State.enabled, hstep.others.arithen]
  rw [henabled]
  split
  · exact ⟨x3, hstep, hflags, fun _ => hcache⟩
  next hq =>
    obtain ⟨hsys, hne⟩ : cx.sys = false ∧ ¬ flagsOf cx.act r.flags &&& cx.s.enabled cx.c cx.part = 0 := by simpa using hq
    obtain ⟨y, h4, f4⟩ := State.step_trapOn cx.n _ none r.d r.wide h3.team (hmode.trans hsys)
    exact ⟨y, hstep.trans h4, fun p => (f4 p).trans (hflags p), fun e => e.elim (fun e => by simp [hsys] at e) fun e => absurd e hne⟩

/-- Settles O31: an instruction whose result is clear is done with it, and what is done after that is a sequence of steps each of which
leaves the rest alone. -/
theorem computingInstructionsKeepTheRest : Obligations.ComputingInstructionsKeepTheRest := by
  unfold Obligations.ComputingInstructionsKeepTheRest
  intro i s cx r h hr hc
  obtain ⟨rules, body, hrules, hexec, hends⟩ := computing_ends h hr
  obtain ⟨hcs, hx, -, hsys, -⟩ := ready_team h
  obtain ⟨y, hstep, hflags, hcache⟩ := cx.settle_done_step (r := r) (cx.passesOf i) (hcs ▸ hx) hsys
  subst hcs
  refine ⟨_, y, (exec_ready hrules hexec h rfl).trans (congrArg _ (hends.done hc _)), hstep.team, hstep.device, hstep.others,
    hstep.keeps, hflags, hcache, hstep.vreg⟩

end Sys2Proof.Machine

end


section

/-! The region of an address, and what `free` does with one (R71, R76, R77, R83, R225, R227). -/

namespace Sys2Proof.Machine
open Sys2Proof

/-! The codes of the regions (R71, R77). -/

/-- The first address of a region and the first one beyond it (R71); a hole is none. -/
def Region.span : Region → Nat × Nat
  | .null => (0, nearBase)
  | .near => (nearBase, privBase)
  | .priv => (privBase, privEnd)
  | .bulk => (bulkBase, bulkEnd)
  | .peer => (peerBase, peerEnd)
  | .system => (sysBase, vaEnd)
  | .hole => (0, 0)

theorem regionOf_eq_iff {r : Region} {v : Nat} (hr : r ≠ .hole) : regionOf v = r ↔ r.span.1 ≤ v ∧ v < r.span.2 := by
  have hends : nearBase = 0x400000000 ∧ privBase = 0x800000000 ∧ privEnd = 0x800010000 ∧ bulkBase = 0x1000000000000 ∧
      bulkEnd = 0x2000000000000 ∧ peerBase = 0x80000000000000 ∧ peerEnd = 0xA0000000000000 ∧ sysBase = 0xF0000000000000 ∧
      vaEnd = 0x100000000000000 := ⟨rfl, rfl, rfl, rfl, rfl, rfl, rfl, rfl, rfl⟩
  unfold regionOf
  cases r with
  | hole => exact absurd rfl hr
  | null | near | priv | bulk | peer | system =>
    dsimp only [Region.span]
    repeat' split
    all_goals simp only [reduceCtorEq, false_iff, true_iff]; omega

/-- The code of an address by its region: what is unmappable by form (R76) has none. -/
theorem spaceOf_eq (w : Who) (dev : Nat) (a : W64) : spaceOf w dev a =
    if regionOf a.toNat = .near then 1
    else if regionOf a.toNat = .priv ∧ a.toNat - privBase < w.priv then 2
    else if regionOf a.toNat = .bulk then 3
    else if regionOf a.toNat = .peer ∧ (a.toNat - peerBase) / windowSize ≠ dev then 4
    else if regionOf a.toNat = .system ∧ w.sys = true then 5
    else 0 := by
  unfold spaceOf Who.place
  cases regionOf a.toNat with
  | null | hole | near | bulk => rfl
  | priv | peer | system => split_ifs <;> simp_all

/-- `space` with its address known and its destination free waits for nothing (R225). -/
theorem exec_space {s : State} {cx : Ctx} {d a : Operand} (h : s.ready? (.space d a) = some cx) (hp : cx.plain64 [a] = true)
    (hd : cx.destWaits d = false) :
    Completes s (.space d a) cx d (fun l => spaceOf cx.who s.devid.toNat ((cx.read64 a).at_ l)) 0 := by
  obtain ⟨rfl, -⟩ := ready_team h
  refine exec_done rfl rfl h ?_
  rw [hd, if_neg Bool.false_ne_true, blockOn64_clear hp]

/-- Settles O43: `space` writes `spaceOf`, whose code depends on the region alone, and each region is an interval. -/
theorem spaceClassifiesAddresses : Obligations.SpaceClassifiesAddresses := by
  unfold Obligations.SpaceClassifiesAddresses
  intro s cx d a h hp hd
  have hs := exec_space h hp hd
  simp only [spaceOf_eq, regionOf_eq_iff, ne_eq, reduceCtorEq, not_false_eq_true, Region.span, and_assoc] at hs
  exact hs

/-! Addresses freed (R83, R227). -/

/-- An address of 0 frees nothing and is no error. -/
theorem freeOne_zero (s : State) (p : Nat) : s.freeOne p 0 = (s, false) := rfl

theorem freeOne_of_not_live {s : State} {p : Nat} {v : W64} (h0 : v ≠ 0) (h : ∀ e ∈ (s.part p).live, e.base ≠ v.toNat) :
    s.freeOne p v = (s, true) := by
  have hnone : (s.part p).live.find? (fun e => e.base == v.toNat) = none := List.find?_eq_none.2 (by simpa using h)
  rw [State.freeOne, if_neg h0, hnone]

/-- A live allocation leaves its partition's list, without an error. -/
theorem freeOne_of_live {s : State} {p : Nat} {v : W64} {e : Allocation} (h0 : v ≠ 0)
    (h : (s.part p).live.find? (fun e => e.base == v.toNat) = some e) :
    (s.freeOne p v).2 = false ∧ ((s.freeOne p v).1.part p).live = (s.part p).live.erase e ∧
      ∀ q, q ≠ p → (s.freeOne p v).1.part q = s.part q := by
  rw [State.freeOne, if_neg h0, h]
  exact ⟨rfl, by rw [State.part_onPart_self], fun q hq => State.part_onPart_ne _ _ hq⟩

theorem read64_uniform {cx : Ctx} {o : Operand} (h : uniformOp o = true) : cx.read64 o = cx.read o := by
  cases o with
  | v _ => cases h
  | _ => rfl

/-- `free` of a uniform address is one request, as by the lowest active lane (R227). -/
theorem exec_freeMem_uniform {s : State} {cx : Ctx} {a : Operand} (h : s.ready? (.freeMem a) = some cx) (hp : cx.plain64 [a] = true)
    (hu : uniformOp a = true) {t : State} {bad : Bool} (hf : s.freeOne cx.part (cx.val a (lowLane cx.act)) = (t, bad)) :
    exec (.freeMem a) s = .next (cx.finish (.freeMem a) t (if bad then flagAt Flag.allocerr [lowLane cx.act] else 0)) := by
  obtain ⟨rfl, -⟩ := ready_team h
  refine exec_freeMem h (need_some.2 ⟨hp, ?_⟩)
  unfold Ctx.val at hf
  simp only [read64_uniform hu, if_pos hu, State.freeAll, hf]
  cases bad <;> rfl

/-- Settles O49: the one request of a uniform address frees nothing, is an error, or frees the allocation that begins there. -/
theorem freeReturnsAllocations : Obligations.FreeReturnsAllocations := by
  unfold Obligations.FreeReturnsAllocations
  intro s cx a h hp hu v
  refine ⟨fun h0 => ?_, fun h0 hlive => ?_, fun h0 e he => ?_⟩
  · have hzero : s.freeOne cx.part v = (s, false) := by rw [h0, freeOne_zero]
    simpa using exec_freeMem_uniform h hp hu hzero
  · simpa using exec_freeMem_uniform h hp hu (freeOne_of_not_live h0 hlive)
  · obtain ⟨hbad, hpart, hrest⟩ := freeOne_of_live h0 he
    have hfree : s.freeOne cx.part v = ((s.freeOne cx.part v).1, false) := Prod.ext rfl hbad
    exact ⟨_, by simpa using exec_freeMem_uniform h hp hu hfree, hpart, State.freeOne_mem .., hrest⟩

end Sys2Proof.Machine

end


section

/-! Sums and differences (R191): what a computing instruction writes, at the width of its operands (R188). -/

namespace Sys2Proof.Machine
open Sys2Proof

/-- A computing instruction whose result is clear is done with it. -/
theorem exec_result {i : Instr} {s : State} {cx : Ctx} {r : Result} (h : s.ready? i = some cx) (hr : resultOf cx i = some r)
    (hc : r.clear cx = true) : exec i s = .next (cx.finish i (r.put cx) r.flags) := by
  obtain ⟨rules, body, hrules, hexec, hends⟩ := computing_ends h hr
  exact (exec_ready hrules hexec h rfl).trans (congrArg _ (hends.done hc _))

/-! Operands that are free of poison (R70). -/

theorem plain_symbolic {cx : Ctx} {os : List Operand} {o : Operand} (h : cx.plain os = true) (ho : o ∈ os) : cx.symbolic o = false := by
  simp only [Ctx.plain, Bool.and_eq_true, Bool.not_eq_true', List.any_eq_false] at h
  simpa using h.1 o ho

theorem plain_pois {cx : Ctx} {os : List Operand} {o : Operand} {l : Nat} (h : cx.plain os = true) (ho : o ∈ os)
    (hl : cx.act.getLsbD l = true) : (cx.read o).pois l = none := by
  simp only [Ctx.plain, Bool.and_eq_true, List.isEmpty_iff, Ctx.origins, List.flatMap_eq_nil_iff, List.map_eq_nil_iff] at h
  have hnil := h.2 l (mem_lanesOf.2 hl)
  by_contra hp
  obtain ⟨q, hq⟩ := Option.ne_none_iff_exists'.1 hp
  have hmem : q ∈ ((os.map cx.read).filterMap fun v => v.pois l) := List.mem_filterMap.2 ⟨_, List.mem_map_of_mem ho, hq⟩
  exact List.not_mem_nil (hnil ▸ List.mem_eraseDups.2 hmem)

/-! What is written depends on the poison of the active lanes alone, and on as many bits as the destination takes (R57, R188). -/

theorem originTable_congr {act : Mask} {o q : Nat → Option Origin} (h : ∀ l, act.getLsbD l = true → o l = q l) :
    originTable act o = originTable act q :=
  List.filterMap_congr fun l hl => by rw [h l (mem_lanesOf.1 hl)]

theorem overlayOrigins_congr {act : Mask} {o q : Nat → Option Origin} (old : SMap Origin)
    (h : ∀ l, act.getLsbD l = true → o l = q l) : overlayOrigins old act o = overlayOrigins old act q :=
  foldl_lanes_congr (fun t l hl => by rw [h l hl]) old

theorem VReg.written_congr_pois {act : Mask} {o q : Nat → Option Origin} (h : ∀ l, act.getLsbD l = true → o l = q l) (r : VReg) (w : Nat)
    (full : Bool) (f : Nat → W32) : r.written w full act f o = r.written w full act f q := by
  dsimp only [written]
  rw [originTable_congr h, overlayOrigins_congr _ h]

theorem Ctx.write_congr_pois {cx : Ctx} {o q : Nat → Option Origin} (h : ∀ l, cx.act.getLsbD l = true → o l = q l) (ha : cx.act ≠ 0)
    (s : State) (d : Operand) (f : Nat → W64) : cx.write s d f o = cx.write s d f q := by
  cases d with
  | v n => simp only [write, State.writeV, VReg.written_congr_pois h]
  | w n => simp only [write, h _ (getLsbD_lowLane ha)]
  | _ => rfl

/-- A vector register takes the low 32 bits of a value. -/
theorem Ctx.write_v_congr {cx : Ctx} {f g : Nat → W64} (h : ∀ l, (f l).setWidth 32 = (g l).setWidth 32) (s : State) (n : Fin 128)
    (o : Nat → Option Origin) : cx.write s (.v n) f o = cx.write s (.v n) g o := by
  simp only [write, h]

theorem isVU_uniform {cx : Ctx} {o : Operand} (h : cx.isVU o = true) (hv : vectorOp o = false) : uniformOp o = true := by
  cases o <;> simp_all [Ctx.isVU, Ctx.isV, Ctx.isU, vectorOp, uniformOp]

/-- An instruction of two sources writes its destination at its own width: a uniform register only where all operands are uniform. -/
theorem write_congr_width {s : State} {cx : Ctx} {i : Instr} {d a b : Operand} {f g : Nat → W64} (h : s.ready? i = some cx)
    (hi : rulesOf i = some (rules3 d a b))
    (hfg : ∀ l, (f l).setWidth (widthOf (wideOps [d, a, b])) = (g l).setWidth (widthOf (wideOps [d, a, b]))) (t : State)
    (o : Nat → Option Origin) : cx.write t d f o = cx.write t d g o := by
  obtain ⟨cy, rfl, hok⟩ := ready_ok h hi
  simp only [rules3, Bool.and_eq_true] at hok
  obtain ⟨⟨⟨hd, ha⟩, hb⟩, hmix⟩ := hok
  cases d with
  | v n => exact Ctx.write_v_congr hfg t n o
  | w n =>
    simp only [noMix, List.any_cons, List.any_nil, Bool.or_false, Bool.not_eq_true', Bool.or_eq_false_iff] at hmix
    have hwide : wideOps [.w n, a, b] = true := by
      simp only [wideOps, List.all_cons, List.all_nil, isVU_uniform ha hmix.1, isVU_uniform hb hmix.2, Bool.and_true]; rfl
    rw [hwide] at hfg
    rw [show f = g from funext fun l => by simpa [widthOf] using hfg l]
  | zero => rfl
  | _ => cases hd

/-! Integers at the width of an instruction (R188). -/

theorem widthOf_le (wide : Bool) : widthOf wide ≤ 64 := by cases wide <;> decide

theorem uintOf_eq (wide : Bool) (v : W64) : uintOf wide v = (v.setWidth (widthOf wide)).toNat := by
  cases wide <;> simp [uintOf, widthOf]

theorem sintOf_eq (wide : Bool) (v : W64) : sintOf wide v = (v.setWidth (widthOf wide)).toInt := by
  cases wide <;> simp [sintOf, widthOf]

theorem setWidth_lift2 (f : (w : Nat) → BitVec w → BitVec w → BitVec w) (wide : Bool) (x y : W64) :
    (lift2 f wide x y).setWidth (widthOf wide) = f (widthOf wide) (x.setWidth (widthOf wide)) (y.setWidth (widthOf wide)) := by
  cases wide <;> simp [lift2, widthOf]

theorem setWidth_ofInt {n : Nat} (h : n ≤ 64) (v : Int) : (BitVec.ofInt 64 v).setWidth n = BitVec.ofInt n v := by
  have hdvd : (2 ^ n : Int) ∣ 2 ^ 64 := pow_dvd_pow 2 h
  apply BitVec.eq_of_toNat_eq
  zify
  simp only [BitVec.toNat_setWidth, BitVec.toNat_ofInt, Nat.cast_ofNat, Nat.cast_pow, Int.natCast_emod]
  rw [Int.toNat_of_nonneg (Int.emod_nonneg v (by positivity)), Int.toNat_of_nonneg (Int.emod_nonneg v (by positivity)),
    Int.emod_emod_of_dvd v hdvd]

theorem ofInt_uintOf_add {wide : Bool} (x y : W64) :
    (x + y).setWidth (widthOf wide) = (BitVec.ofInt 64 ((uintOf wide x : Int) + uintOf wide y)).setWidth (widthOf wide) := by
  rw [setWidth_ofInt (widthOf_le wide), BitVec.setWidth_add _ _ (widthOf_le wide), BitVec.ofInt_add, uintOf_eq, uintOf_eq]
  simp only [BitVec.ofInt_natCast, BitVec.ofNat_toNat, BitVec.setWidth_eq]

theorem ofInt_uintOf_sub {wide : Bool} (x y : W64) :
    (x - y).setWidth (widthOf wide) = (BitVec.ofInt 64 ((uintOf wide x : Int) - uintOf wide y)).setWidth (widthOf wide) := by
  rw [setWidth_ofInt (widthOf_le wide), sub_eq_add_neg, sub_eq_add_neg, BitVec.setWidth_add _ _ (widthOf_le wide),
    BitVec.setWidth_neg_of_le (widthOf_le wide), BitVec.ofInt_add, BitVec.ofInt_neg, uintOf_eq, uintOf_eq]
  simp only [BitVec.ofInt_natCast, BitVec.ofNat_toNat, BitVec.setWidth_eq]

/-! Clamping (R111, R191). -/

theorem clampTo_val {lo hi : Int} (h : lo ≤ hi) (v : Int) : (clampTo lo hi v).1 = max lo (min hi v) := by
  unfold clampTo
  split_ifs <;> dsimp only <;> omega

theorem clampTo_clamps (lo hi v : Int) : (clampTo lo hi v).2 = decide (v < lo ∨ hi < v) := by
  unfold clampTo
  split_ifs <;> simp_all

theorem addSatSigned_eq (wide : Bool) (x y : W64) :
    addSatSigned (widthOf wide) (x.setWidth (widthOf wide)) (y.setWidth (widthOf wide)) =
      (BitVec.ofInt _ (max (-2 ^ (widthOf wide - 1)) (min (2 ^ (widthOf wide - 1) - 1) (sintOf wide x + sintOf wide y))),
        decide (sintOf wide x + sintOf wide y < -2 ^ (widthOf wide - 1) ∨ 2 ^ (widthOf wide - 1) - 1 < sintOf wide x + sintOf wide y)) := by
  have hpos : (0 : Int) < 2 ^ (widthOf wide - 1) := by positivity
  simp only [addSatSigned, sintOf_eq, Nat.cast_pow, Nat.cast_ofNat]
  rw [clampTo_val (by omega), clampTo_clamps]

theorem addSatUnsigned_eq (wide : Bool) (x y : W64) :
    addSatUnsigned (widthOf wide) (x.setWidth (widthOf wide)) (y.setWidth (widthOf wide)) =
      (BitVec.ofInt _ (min (2 ^ widthOf wide - 1) ((uintOf wide x : Int) + uintOf wide y)),
        decide ((uintOf wide x : Int) + uintOf wide y < 0 ∨ 2 ^ widthOf wide - 1 < (uintOf wide x : Int) + uintOf wide y)) := by
  have hpos : (0 : Int) < 2 ^ widthOf wide := by positivity
  simp only [addSatUnsigned, uintOf_eq, Nat.cast_pow, Nat.cast_ofNat]
  rw [clampTo_val (by omega), clampTo_clamps, max_eq_right (by omega)]

/-! Instructions of two sources, with clear operands. -/

theorem completes_of_result {s : State} {cx : Ctx} {i : Instr} {d : Operand} {r : Result} {f : Nat → W64} {g : Nat → FlagSet}
    (h : s.ready? i = some cx) (hr : resultOf cx i = some r) (hc : r.clear cx = true) (hput : r.put cx = cx.write cx.s d f noOrigin)
    (hflags : r.flags = g) : Completes s i cx d f g := by
  subst hflags
  exact (exec_result h hr hc).trans (by rw [hput])

/-- A sum or a difference: the poison that passes is none (R70), and what is written is right at the width of the operands. -/
theorem passing_completes {s : State} {cx : Ctx} {i : Instr} {d a b : Operand} {f : W64 → W64 → W64} {g : Nat → W64}
    (h : Clear s i cx d [a, b]) (hi : rulesOf i = some (rules3 d a b)) (hr : resultOf cx i = cx.passing f d a b)
    (hfg : ∀ l, (f (cx.val a l) (cx.val b l)).setWidth (widthOf (wideOps [d, a, b])) = (g l).setWidth (widthOf (wideOps [d, a, b]))) :
    Completes s i cx d g 0 := by
  obtain ⟨hready, hplain, hfree⟩ := h
  obtain ⟨-, -, -, -, hact⟩ := ready_team hready
  have hpois (l : Nat) (hl : cx.act.getLsbD l = true) : joinOrigin ((cx.read a).pois l) ((cx.read b).pois l) = noOrigin l := by
    rw [plain_pois hplain (o := a) (by simp) hl, plain_pois hplain (o := b) (by simp) hl]; rfl
  refine completes_of_result hready hr (Result.clear_iff.2 ⟨hfree, plain_nil cx, fun o ho => plain_symbolic hplain ho⟩) ?_ rfl
  exact (Ctx.write_congr_pois hpois hact _ _ _).trans (write_congr_width hready hi hfg _ _)

/-- A saturating sum: its value and its flag are those of the operation at the width of the operands. -/
theorem saturating_completes {s : State} {cx : Ctx} {i : Instr} {d a b : Operand} {f : (w : Nat) → BitVec w → BitVec w → BitVec w × Bool}
    {v : Nat → Int} {p : Nat → Prop} [DecidablePred p]
    (h : Clear s i cx d [a, b]) (hi : rulesOf i = some (rules3 d a b)) (hr : resultOf cx i = cx.sat f d a b)
    (hf : ∀ l, f (widthOf (wideOps [d, a, b])) ((cx.val a l).setWidth _) ((cx.val b l).setWidth _) = (BitVec.ofInt _ (v l), decide (p l))) :
    Completes s i cx d (fun l => BitVec.ofInt 64 (v l)) fun l => if p l then Flag.isat else 0 := by
  obtain ⟨hready, hplain, hfree⟩ := h
  have hval (l : Nat) := (setWidth_lift2 (fun w x y => (f w x y).1) (wideOps [d, a, b]) (cx.val a l) (cx.val b l)).trans
    ((congrArg Prod.fst (hf l)).trans (setWidth_ofInt (widthOf_le _) _).symm)
  have hclamps (l : Nat) : (if wideOps [d, a, b] then (f 64 (cx.val a l) (cx.val b l)).2 else (f 32 (cx.low a l) (cx.low b l)).2) =
      decide (p l) := by
    refine Eq.trans ?_ (congrArg Prod.snd (hf l))
    cases wideOps [d, a, b] with
    | true => simp [widthOf]
    | false => rfl
  refine completes_of_result hready hr (Result.clear_iff.2 ⟨hfree, ?_, nofun⟩) (write_congr_width hready hi hval _ _) ?_
  · exact (List.flatMap_singleton' [a, b]).symm ▸ hplain
  · exact funext fun l => by simp only [isatOf, hclamps, decide_eq_true_eq]

/-- Settles O35: each of the four writes what its integer formula gives at the width of its operands (R188), and that is all that its
destination takes. -/
theorem sumsWrapOrClamp : Obligations.SumsWrapOrClamp := by
  unfold Obligations.SumsWrapOrClamp
  intro s cx d a b w S U isat
  refine ⟨fun h => ?_, fun h => ?_, fun h => ?_, fun h => ?_⟩
  · exact passing_completes h rfl rfl fun l => ofInt_uintOf_add _ _
  · exact passing_completes h rfl rfl fun l => ofInt_uintOf_sub _ _
  · exact saturating_completes h rfl rfl fun l => addSatSigned_eq _ _ _
  · exact saturating_completes h rfl rfl fun l => addSatUnsigned_eq _ _ _

end Sys2Proof.Machine
end


section

/-! The entry into the handler after an instruction that sets an enabled flag (R120, R355, R365-R367). -/

namespace Sys2Proof.Machine
open Sys2Proof

/-! ESTAT (R365). -/

theorem lowWord_lt (m : Mask) : lowWord m < 32 := by
  unfold lowWord
  cases h : wordsOfMask m with
  | nil => simp
  | cons w ws =>
    have hw : w ∈ wordsOfMask m := h ▸ List.mem_cons_self
    exact List.mem_range.1 (List.mem_filter.1 hw).1

theorem Cause.code_lt (c : Cause) : c.code < 16 := by cases c <;> decide

/-- ESTAT as a number: its parts, at their places. -/
theorem toNat_estatOf {part glen : Nat} {cd : Condition} (hp : part < 8) (hg : glen < 8) (hc : cd.code < 4096) :
    ∃ g d, g < 8 ∧ (d = 0 ∨ d = 2 ^ 16) ∧ (estatOf part cd glen).toNat = (maskWord cd.lanes (lowWord cd.lanes)).toNat * 2 ^ 32 +
      lowWord cd.lanes * 2 ^ 27 + g * 2 ^ 24 + part * 2 ^ 17 + d + cd.code * 2 ^ 4 + cd.cause.code := by
  have hlow := lowWord_lt cd.lanes
  have hcause := cd.cause.code_lt
  have hmask := (maskWord cd.lanes (lowWord cd.lanes)).isLt
  have hg' : (if cd.deferred then 0 else glen) < 8 := by split <;> omega
  have hd : (if cd.deferred then 2 ^ 16 else 0) = 0 ∨ (if cd.deferred then 2 ^ 16 else 0) = 2 ^ 16 := by split <;> simp
  refine ⟨_, _, hg', hd, (BitVec.toNat_ofNat ..).trans (Nat.mod_eq_of_lt ?_)⟩
  omega

/-- A field of a word, from the word as a number. -/
theorem toNat_field {e : W64} {v : Nat} (h : e.toNat = v) (lo n : Nat) : (e.extractLsb' lo n).toNat = v / 2 ^ lo % 2 ^ n := by
  rw [BitVec.extractLsb'_toNat, h, Nat.shiftRight_eq_div_pow]

theorem estatOf_fields {part glen : Nat} {cd : Condition} (hp : part < 8) (hg : glen < 8) (hc : cd.code < 4096) :
    ((estatOf part cd glen).extractLsb' 0 4).toNat = cd.cause.code ∧ ((estatOf part cd glen).extractLsb' 4 12).toNat = cd.code ∧
      ((estatOf part cd glen).extractLsb' 27 5).toNat = lowWord cd.lanes ∧
      (estatOf part cd glen).extractLsb' 32 32 = maskWord cd.lanes (lowWord cd.lanes) := by
  obtain ⟨g, d, hg', hd, he⟩ := toNat_estatOf hp hg hc
  have hlow := lowWord_lt cd.lanes
  have hcause := cd.cause.code_lt
  have hmask := (maskWord cd.lanes (lowWord cd.lanes)).isLt
  refine ⟨?_, ?_, ?_, BitVec.eq_of_toNat_eq ?_⟩
  all_goals rw [toNat_field he]; omega

/-! A group has six words at most (R178, R365). -/

/-- The length of what the fetch of a group from an address finds (log entry 20). -/
def GroupFetch.lengthFrom (a : Nat) : GroupFetch → Nat
  | .group _ _ n _ => n
  | .illegal n => n
  | .stuck b _ => wordsTo a b + 1

theorem State.groupLen_eq (s : State) (w : Who) (lane a : Nat) : s.groupLen w lane a = (s.fetchGroup w lane 6 {} 0 a).lengthFrom a := by
  unfold groupLen
  cases s.fetchGroup w lane 6 {} 0 a <;> rfl

theorem wordsTo_words {a n : Nat} (ha : a < 2 ^ 64) (hn : n < 2 ^ 62) : wordsTo a ((a + 4 * n) % 2 ^ 64) = n := by
  unfold wordsTo
  omega

theorem next_word (a n : Nat) : ((a + 4 * n) % 2 ^ 64 + 4) % 2 ^ 64 = (a + 4 * (n + 1)) % 2 ^ 64 := by omega

theorem State.lengthFrom_fetchRest (s : State) (w : Who) (lane : Nat) {a : Nat} (ha : a < 2 ^ 64) (f n : Nat) (hn : f + n ≤ 6) :
    (s.fetchRest w lane f n ((a + 4 * n) % 2 ^ 64)).lengthFrom a ≤ 6 := by
  induction f generalizing n with
  | zero => simpa [fetchRest, GroupFetch.lengthFrom] using hn
  | succ f ih =>
    unfold fetchRest
    split
    · split
      · rw [next_word]; exact ih (n + 1) (by omega)
      · simp only [GroupFetch.lengthFrom]; omega
    · simp only [GroupFetch.lengthFrom, wordsTo_words ha (show n < 2 ^ 62 by omega)]; omega

theorem State.lengthFrom_fetchGroup (s : State) (w : Who) (lane : Nat) {a : Nat} (ha : a < 2 ^ 64) (f n : Nat) (hn : f + n ≤ 6)
    (h : Hints) : (s.fetchGroup w lane f h n ((a + 4 * n) % 2 ^ 64)).lengthFrom a ≤ 6 := by
  induction f generalizing n h with
  | zero => simpa [fetchGroup, GroupFetch.lengthFrom] using hn
  | succ f ih =>
    unfold fetchGroup
    split
    · split
      · rw [next_word]
        split
        · exact s.lengthFrom_fetchRest w lane ha f (n + 1) (by omega)
        · exact ih (n + 1) (by omega) _
      · split
        · simp only [GroupFetch.lengthFrom]; omega
        · split <;> simp only [GroupFetch.lengthFrom] <;> omega
        · simp only [GroupFetch.lengthFrom]; omega
    · simp only [GroupFetch.lengthFrom, wordsTo_words ha (show n < 2 ^ 62 by omega)]; omega

theorem State.groupLen_lt (s : State) (w : Who) (lane : Nat) (pc : W64) : s.groupLen w lane pc.toNat < 8 := by
  have h := s.lengthFrom_fetchGroup w lane pc.isLt 6 0 le_rfl {}
  rw [Nat.mul_zero, Nat.add_zero, Nat.mod_eq_of_lt pc.isLt] at h
  rw [groupLen_eq]
  omega

/-! The splinter goes on behind the group (R178, R184). -/

theorem getElem?_modAt {α : Type} (f : α → α) (xs : List α) (n : Nat) : (modAt f xs n)[n]? = xs[n]?.map f := by
  induction xs generalizing n with
  | nil => rfl
  | cons a xs ih =>
    cases n with
    | zero => rfl
    | succ n => exact ih n

@[simp] theorem Team.withVreg_splinters (x : Team) (n : Nat) (r : VReg) : (x.withVreg n r).splinters = x.splinters := by
  unfold withVreg; split <;> rfl
@[simp] theorem Team.setUreg_splinters (x : Team) (n : Nat) (r : UReg) : (x.setUreg n r).splinters = x.splinters := by
  unfold setUreg; split <;> rfl
@[simp] theorem Team.setPred_splinters (x : Team) (n : Nat) (m : Mask) : (x.setPred n m).splinters = x.splinters := by
  unfold setPred; split <;> rfl

namespace Ctx

variable {cx : Ctx} {s : State} {x : Team}

theorem splinters_write (d : Operand) (f : Nat → W64) (o : Nat → Option Origin) (h : s.team? cx.c cx.t = some x) :
    ((cx.write s d f o).team? cx.c cx.t).map Team.splinters = some x.splinters := by
  cases d with
  | v n =>
    rw [show cx.write s (.v n) f o = s.writeV _ _ _ _ _ _ from rfl, State.writeV_of_some _ _ _ _ h, State.team?_setVreg_self _ _ h]
    simp
  | w n => simp [write, State.writeU, h]
  | p n => simp [write, State.writeP, h]
  | _ => simp [write, h]

theorem splinters_put (r : Result) (h : cx.s.team? cx.c cx.t = some x) :
    ((r.put cx).team? cx.c cx.t).map Team.splinters = some x.splinters := by
  unfold Result.put
  split
  · by_cases hv : ∃ n, r.d = .v n
    · obtain ⟨n, hn⟩ := hv
      obtain ⟨y, hy, hsp⟩ := Option.map_eq_some_iff.1 (splinters_write (.v n) r.val r.pois h)
      rw [hn, ← hsp]
      exact splinters_write (nextV n) (fun l => r.val l >>> 32) r.pois hy
    · rw [write64_of_ne_v r.val r.pois fun n e => hv ⟨n, e⟩]
      exact splinters_write r.d r.val r.pois h
  · exact splinters_write r.d r.val r.pois h

/-- Outside system mode, the splinter at issue goes on behind its group. -/
theorem splinter_retire {p : Splinter} (passes : Nat) (h : s.team? cx.c cx.t = some x) (hs : x.sys = none)
    (hp : x.splinters[cx.n]? = some p) : ∃ y q, (cx.retire s passes).team? cx.c cx.t = some y ∧ y.splinters[cx.n]? = some q ∧
      q.pc = cx.next ∧ q.half = cx.nextHalf := by
  obtain ⟨hlen, -⟩ := List.getElem?_eq_some_iff.1 hp
  have hlen' : cx.n < (x.idleOthers cx.n passes).splinters.length := by simpa using hlen
  simp only [retire, State.team?_onTeam_self, h, hs, Option.map_some]
  exact ⟨_, _, rfl, (getElem?_modAt ..).trans (by rw [List.getElem?_eq_getElem hlen']; rfl), rfl, rfl⟩

end Ctx

/-! The entry (R110, R355, R356). -/

namespace State

variable {s t : State} {c u : Nat} {x y : Team}

theorem settled_congr (hs : s.team? c u = some x) (ht : t.team? c u = some y) (hq : y.queue = x.queue) (htx : t.txs = s.txs) :
    t.settled c u = s.settled c u := by
  simp only [settled, hs, ht, hq, htx]

/-- The handler is entered for an ARITH condition: GLEN is the length of the group at EPC. -/
theorem enterTrap_arith {cd : Condition} {p : Splinter} (h : s.team? c u = some x) (ht : x.trap = some cd)
    (hp : x.splinters[x.trapSpl]? = some p) (hc : cd.cause = .arith) :
    ∃ y z glen, (s.enterTrap c u).team? c u = some y ∧ y.sys = some z ∧ z.pc = s.tvec ∧
      z.epc = (if p.half then p.pc ||| 1 else p.pc) ∧ z.eiaddr = cd.eiaddr ∧ z.estat = estatOf x.part cd glen ∧ glen < 8 := by
  obtain ⟨hline, -⟩ := step_discardLines x.part .sys .zero false h
  simp only [enterTrap, h, ht, hp, hc, if_true, team?_setTeam_self]
  exact ⟨_, _, _, rfl, rfl, hline.device.tvec, rfl, rfl, rfl, groupLen_lt ..⟩

/-- An ARITH condition met outside system mode, with memory settled. -/
theorem trapOn_arith {n : Nat} {cd : Condition} {p : Splinter} (h : s.team? c u = some x) (hx : x.inSys = false)
    (hp : x.splinters[n]? = some p) (hc : cd.cause = .arith) (he : cd.eaddr = 0) (hs : s.settled c u = true) :
    ∃ y z glen, (s.trapOn c u n cd none).team? c u = some y ∧ y.sys = some z ∧ z.pc = s.tvec ∧
      z.epc = (if p.half then p.pc ||| 1 else p.pc) ∧ z.eiaddr = cd.eiaddr ∧ z.estat = estatOf x.part cd glen ∧ glen < 8 := by
  have hcd : { cd with eaddr := (none : Option W64).getD 0 } = cd := by rw [Option.getD_none, ← he]
  have hteam : (s.onTeam c u fun x => { x with trap := some cd, trapSpl := n }).team? c u =
      some { x with trap := some cd, trapSpl := n } := by rw [team?_onTeam_self, h]; rfl
  have hset := (settled_congr h hteam rfl (by simp)).trans hs
  simp only [trapOn, h, hx, hcd, takeTrap, hset, if_true, Bool.false_eq_true, if_false]
  obtain ⟨y, z, glen, hy, hz, hpc, hrest⟩ := enterTrap_arith hteam rfl hp hc
  exact ⟨y, z, glen, hy, hz, hpc.trans (by simp), hrest⟩

end State

/-- The condition of an instruction whose result sets flags whose traps are enabled (R365, R367). -/
def Ctx.arithOf (cx : Ctx) (r : Result) : Condition :=
  { cause := .arith, code := (flagsOf cx.act r.flags &&& cx.s.enabled cx.c cx.part).toNat, eiaddr := cx.iaddr
    lanes := maskWhere cx.act fun l => r.flags l &&& cx.s.enabled cx.c cx.part != 0 }

/-- A computing instruction that has set an enabled flag outside system mode, with memory settled, leaves its team in the handler, with
EPC at the group behind it. -/
theorem Ctx.settle_arith {cx : Ctx} {r : Result} (n : Nat) (h : cx.s.team? cx.c cx.t = some cx.x) (hp : cx.x.splinterAt cx.n = some cx.p)
    (hsys : cx.sys = cx.x.inSys) (hout : cx.sys = false) (hset : cx.s.settled cx.c cx.t = true)
    (hraised : flagsOf cx.act r.flags &&& cx.s.enabled cx.c cx.part ≠ 0) :
    ∃ y z glen, (cx.settle n (.done (r.put cx) r.flags)).team? cx.c cx.t = some y ∧ y.sys = some z ∧ z.pc = cx.s.tvec ∧
      z.epc = (if cx.nextHalf then cx.next ||| 1 else cx.next) ∧ z.eiaddr = cx.iaddr ∧ glen < 8 ∧
      z.estat = estatOf cx.x.part (cx.arithOf r) glen := by
  have hnone : cx.x.sys = none := sys_none_of_inSys (hsys ▸ hout)
  have hspl : cx.x.splinters[cx.n]? = some cx.p := by simpa [Team.splinterAt, hnone] using hp
  obtain ⟨x1, h1, q1⟩ := step_put r h
  have h2 := State.step_setFlags (d := r.d) (wide := r.wide) cx.part (flagsOf cx.act r.flags) h1.team
  obtain ⟨x3, h3, q3⟩ := step_retire r.d r.wide (n + cx.expansions ((r.put cx).setFlags cx.c cx.part (flagsOf cx.act r.flags))) h2.team
  have hx1 : x1.splinters = cx.x.splinters := by simpa [h1.team] using splinters_put r h
  have hn1 : x1.sys = none := sys_none_of_inSys (q1.mode.trans (hsys ▸ hout))
  obtain ⟨y3, p, hy3, hp3, hpc, hhalf⟩ := splinter_retire (cx := cx)
    (n + cx.expansions ((r.put cx).setFlags cx.c cx.part (flagsOf cx.act r.flags))) h2.team hn1 (hx1 ▸ hspl)
  obtain rfl : x3 = y3 := Option.some.inj (h3.team.symm.trans hy3)
  have hstep := (h1.trans h2).trans h3
  have hcache := (q1.cache.trans (State.sameCache_setFlags cx.part _)).trans q3.cache
  have hmode : x3.inSys = false := (q3.mode.trans q1.mode).trans (hsys ▸ hout)
  simp only [settle]
  generalize cx.retire _ _ = t at *
  have henabled : t.enabled cx.c cx.part = cx.s.enabled cx.c cx.part := by simp only [State.enabled, hstep.others.arithen]
  have hsettled := (State.settled_congr h hstep.team hstep.keeps.queue hcache.txs).trans hset
  rw [henabled, hout, Bool.false_or, if_neg (by simpa using hraised)]
  obtain ⟨y, z, glen, hy, hz, htvec, hepc, hia, hestat, hglen⟩ :=
    State.trapOn_arith (cd := cx.arithOf r) hstep.team hmode hp3 rfl rfl hsettled
  rw [hpc, hhalf] at hepc
  rw [hstep.keeps.part] at hestat
  exact ⟨y, z, glen, hy, hz, htvec.trans hstep.device.tvec, hepc, hia, hglen, hestat⟩

/-- What the statement says holds of a team of one of the eight partitions, whose number fits ESTAT's PART (R365). -/
theorem enabledFlags_trap {i : Instr} {s : State} {cx : Ctx} {r : Result} (h : s.ready? i = some cx) (hr : resultOf cx i = some r)
    (hc : r.clear cx = true) (hout : cx.sys = false) (hpart : cx.x.part < 8)
    (hraised : flagsOf cx.act r.flags &&& s.enabled cx.c cx.part ≠ 0) (hset : s.settled cx.c cx.t = true) :
    let lanes := maskWhere cx.act fun l => r.flags l &&& s.enabled cx.c cx.part != 0
    ∃ t y z, exec i s = .next t ∧ t.team? cx.c cx.t = some y ∧ y.sys = some z ∧ z.pc = s.tvec ∧
      z.epc = (if cx.nextHalf then cx.next ||| 1 else cx.next) ∧ z.eiaddr = cx.iaddr ∧ z.estat.extractLsb' 0 4 = 13#4 ∧
      z.estat.extractLsb' 4 12 = (flagsOf cx.act r.flags &&& s.enabled cx.c cx.part).setWidth 12 ∧
      (z.estat.extractLsb' 27 5).toNat = lowWord lanes ∧ z.estat.extractLsb' 32 32 = maskWord lanes (lowWord lanes) ∧
      t.flags cx.c cx.part = s.flags cx.c cx.part ||| flagsOf cx.act r.flags := by
  intro lanes
  obtain ⟨rfl, hx, hspl, hsys, -⟩ := ready_team h
  obtain ⟨-, -, hflags, -⟩ := cx.settle_done_step (r := r) (cx.passesOf i) hx hsys
  obtain ⟨y, z, glen, hy, hz, hpc, hepc, hia, hglen, hestat⟩ := cx.settle_arith (cx.passesOf i) hx hspl hsys hout hset hraised
  have hcode : (cx.arithOf r).code < 4096 := (BitVec.isLt _).trans (by decide)
  obtain ⟨hcause, hcodes, hword, hmask⟩ := estatOf_fields hpart hglen hcode
  rw [← hestat] at hcause hcodes hword hmask
  refine ⟨_, y, z, exec_result h hr hc, hy, hz, hpc, hepc, hia, BitVec.eq_of_toNat_eq hcause, BitVec.eq_of_toNat_eq ?_, hword, hmask,
    (hflags _).trans (if_pos rfl)⟩
  exact hcodes.trans (BitVec.toNat_setWidth_of_le (by decide)).symm

/-! A team of a partition that does not exist. -/

/-- One team of partition 1024 with every trap of a flag enabled, and w2 all ones. -/
def strayTeam : State :=
  { State.reset with
    cores := [(0, { arithen := [(1024, 0xFF)]
                    teams := [(0, { part := 1024, entry := { wg := 7 }, items := [{ width := 1 }], splinters := [{ mask := 1 }]
                                    uregs := [(2, { val := 0xFFFFFFFFFFFFFFFF })] })] })]
    cur := { valid := true } }

/-- What ESTAT holds as WORD where a run leaves the first team in its handler. -/
def trapWord : Host.Outcome State Fault Refusal → Option (BitVec 5)
  | .next t => ((t.team? 0 0).bind Team.sys).map fun z => z.estat.extractLsb' 27 5
  | _ => none

/-- The instruction is ready, sets a flag whose trap is enabled on lane 0, whose mask word is 0, and leaves WORD = 1. -/
theorem strayTeam_traps : (strayTeam.ready? (.addSatN .zero (.w 2) (.w 2))).any (fun cx =>
    (resultOf cx (.addSatN .zero (.w 2) (.w 2))).any fun r =>
      decide (r.clear cx = true ∧ cx.sys = false ∧ cx.c = 0 ∧ cx.t = 0 ∧
        flagsOf cx.act r.flags &&& strayTeam.enabled cx.c cx.part ≠ 0 ∧ strayTeam.settled cx.c cx.t = true ∧
        lowWord (maskWhere cx.act fun l => r.flags l &&& strayTeam.enabled cx.c cx.part != 0) = 0)) = true ∧
    trapWord (exec (.addSatN .zero (.w 2) (.w 2)) strayTeam) = some 1 := by decide +kernel

/-- Refutes O34: ESTAT keeps three bits for PART, and no hypothesis bounds the team's partition. A partition of 1024 carries into WORD, which
then reads 1 where the lowest mask word of the lanes is 0. Of a team of one of the eight partitions the statement holds
(`enabledFlags_trap`). -/
theorem not_enabledFlagsTrap : ¬ Obligations.EnabledFlagsTrap := by
  unfold Obligations.EnabledFlagsTrap
  intro h
  obtain ⟨hready, hword⟩ := strayTeam_traps
  obtain ⟨cx, hcx, hany⟩ := (Option.any_eq_true ..).1 hready
  obtain ⟨r, hr, hall⟩ := (Option.any_eq_true ..).1 hany
  obtain ⟨hclear, hsys, hc, ht, hraised, hset, hlow⟩ := of_decide_eq_true hall
  obtain ⟨t, y, z, hexec, hteam, hz, -, -, -, -, -, hfield, -⟩ := h _ _ cx r hcx hr hclear hsys hraised hset
  rw [hlow] at hfield
  rw [hc, ht] at hteam
  simp only [hexec, trapWord, hteam, Option.bind_some, hz, Option.map_some, Option.some.injEq] at hword
  rw [hword] at hfield
  cases hfield

end Sys2Proof.Machine
end


section

/-! A quarter's turn and the try of its first candidate (R47, R86, R140, R178). -/

namespace Sys2Proof.Machine
open Sys2Proof

/-! What stands at issue is the team as the turn finds it, but for its marks of issue. -/

@[simp] theorem State.fillTlb_cores (s : State) (places : List TlbPlace) (space : Nat) (w : Walk) :
    (s.fillTlb places space w).cores = s.cores := by
  cases w <;> rfl

@[simp] theorem State.fillSpot_cores (s : State) (w : Who) (lane a : Nat) : (s.fillSpot w lane a).cores = s.cores := by
  unfold State.fillSpot
  (repeat' split) <;> simp only [fillTlb_cores]

@[simp] theorem State.fillFetch_cores (s : State) (w : Who) (lane a n : Nat) : (s.fillFetch w lane a n).cores = s.cores := by
  unfold State.fillFetch
  induction List.range n generalizing s with
  | nil => rfl
  | cons k ks ih => rw [List.foldl_cons, ih, fillSpot_cores]

theorem team?_congr {s u : State} (h : u.cores = s.cores) (c t : Nat) : u.team? c t = s.team? c t := by
  unfold State.team? State.core
  rw [h]

theorem team?_counted (s : State) (p : Nat) (k : Activity) (c t : Nat) : (s.counted p k).team? c t = s.team? c t :=
  team?_congr rfl c t

/-- Issue marks a team as not due, and notes the time (R140). -/
theorem team?_issued {s : State} {c t : Nat} {x : Team} (q : Nat) (h : s.team? c t = some x) :
    (s.issued c t q).team? c t = some { x with due := false, lastIssue := s.clock } := by
  have hlast (u : State) : (u.onCore c fun k => { k with last := k.last.put q t }).team? c t = u.team? c t :=
    State.team?_onCore_of_teams u c c t fun _ => rfl
  unfold State.issued
  simp only [h]
  split
  · rw [State.team?_onTeam_self, hlast, h]
    rfl
  · rw [State.team?_onTeam_self, hlast, team?_counted, h]
    rfl

/-- Whether a try merely waited depends on the state before it through the splinter tried and its mode alone. -/
theorem onlyWaited_congr {s u : State} {c t n : Nat} {x y : Team} (v : State) (hs : s.team? c t = some x) (hu : u.team? c t = some y)
    (hp : y.splinterAt n = x.splinterAt n) (hm : y.inSys = x.inSys) : u.onlyWaited v c t n = s.onlyWaited v c t n := by
  cases hv : v.team? c t with
  | none => simp only [State.onlyWaited, hs, hu, hv]
  | some z => simp only [State.onlyWaited, hs, hu, hv, hp, hm]

/-! Fetch: an instruction alone is a group of one word (R178). -/

theorem fetchGroup_alone {s : State} {w : Who} {lane a : Nat} {x : BitVec 32} {i : Instr} (f : Nat)
    (hw : s.fetchWord w lane a = .word x) (hh : isHint x = false) (hd : decodeWord x = some i) :
    s.fetchGroup w lane (f + 1) {} 0 a = .group {} i 1 x := by
  simp only [State.fetchGroup, hw, hh, hd, Bool.false_eq_true, if_false]
  cases i <;> rfl

/-- The state in which a group runs: its translations in the TLBs, its team issued, the group at issue (R86, R140, R178). -/
def State.atGroup (s : State) (c q t n : Nat) (x : Team) (p : Splinter) (h : Hints) (k : Nat) (w : BitVec 32) : State :=
  { (s.fillFetch (x.who c x.inSys) (lowLane p.mask) p.pc.toNat k).issued c t q with
    cur := { valid := true, core := c, slot := t, spl := n, hints := h, len := k, word := w } }

section Group

variable {s : State} {c q t n k : Nat} {x : Team} {p : Splinter} {h : Hints} {i : Instr} {w : BitVec 32}

/-- A try finds the group at the splinter's program counter. -/
theorem try_group (hx : s.team? c t = some x) (hp : x.splinterAt n = some p) (ha : p.armed = none)
    (hf : s.fetchGroup (x.who c x.inSys) (lowLane p.mask) 6 {} 0 p.pc.toNat = .group h i k w) :
    s.try_ c q t n = .run i (s.atGroup c q t n x p h k w) := by
  simp only [State.try_, hx, hp, ha, hf]
  rfl

theorem onlyWaited_atGroup (hx : s.team? c t = some x) (v : State) :
    (s.atGroup c q t n x p h k w).onlyWaited v c t n = s.onlyWaited v c t n := by
  have hfill : (s.fillFetch (x.who c x.inSys) (lowLane p.mask) p.pc.toNat k).team? c t = some x :=
    (team?_congr (State.fillFetch_cores ..) c t).trans hx
  exact onlyWaited_congr v hx (team?_issued q hfill) rfl rfl

end Group

/-- The first candidate of a turn, where it does more than wait, is the turn. -/
theorem tryCandidates_runs {s u v : State} {c q t n : Nat} {i : Instr} (more : List Candidate) (ht : s.try_ c q t n = .run i u)
    (hv : exec i u = .next v) (hw : s.onlyWaited v c t n = false) :
    tryCandidates s c q none (.splinter t n :: more) = .next v.finish := by
  simp [tryCandidates, ht, hv, hw]

theorem step_issue {s : State} {c q : Nat} {rest : List Turn} (ha : s.agenda = .issue c q :: rest) (hp : s.power = .run) :
    step s = repaid (tryCandidates (({ s with agenda := rest } : State).inCycle c q) c q none
      ((({ s with agenda := rest } : State).inCycle c q).candidates c q)) := by
  have hi : ({ s with agenda := rest } : State).issues c = true := by simp [State.issues, State.runs, hp]
  simp only [step, State.nextTurn, ha, turn, hi, if_true]

/-- Settles O4: the first candidate's try finds the group, an instruction alone being one of one word; whether it merely waited is the same asked
of the state before the try and of that at issue. -/
theorem stepRunsTheDecodedInstruction : Obligations.StepRunsTheDecodedInstruction := by
  unfold Obligations.StepRunsTheDecodedInstruction
  intro s v c q t n rest more x p h i k w ha hpow z hcs hx hp harm hf u hv hw
  have hgroup : z.fetchGroup (x.who c x.inSys) (lowLane p.mask) 6 {} 0 p.pc.toNat = .group h i k w := by
    rcases hf with ⟨hword, hhint, hdec, rfl, rfl⟩ | hf
    · exact fetchGroup_alone 5 hword hhint hdec
    · exact hf
  have hrun : tryCandidates z c q none (.splinter t n :: more) = .next v.finish :=
    tryCandidates_runs more (try_group hx hp harm hgroup) hv ((onlyWaited_atGroup hx v).symm.trans hw)
  rw [step_issue ha hpow, hcs, hrun]
  rfl

end Sys2Proof.Machine

end

section

/-! Flow, item, counter and heap instructions (R141-R143, R237-R243). -/

namespace Sys2Proof.Machine
open Sys2Proof

/-- Records that have been read, are sound and are accepted, of flows with room for them, are enqueued at once (R29, R35, R241). -/
theorem offerItems_done {cx : Ctx} {x y : Operand} {waits : Bool} {t : State} {g : Nat → FlagSet}
    (he : cx.enqueued x y waits = some (t, g)) : cx.offerItems x y waits = .done t g := by
  obtain ⟨hc, he⟩ := need_some.1 he
  simp only [Bool.and_eq_true, beq_iff_eq] at hc
  obtain ⟨⟨hm, hp⟩, ha⟩ := hc
  obtain ⟨cy, hread, he⟩ := Option.bind_eq_some_iff.1 he
  obtain ⟨hs, he⟩ := need_some.1 he
  simp only [Bool.and_eq_true, beq_iff_eq] at hs
  obtain ⟨hsound, hok⟩ := hs
  obtain ⟨hroom, hg⟩ := need_some.1 he
  obtain ⟨rfl, rfl⟩ := gives_some.1 hg
  simp only [Ctx.offerItems, behind_unmarked hm, blockOn_clear hp]
  refine (if_neg fun hbad => bne_iff_ne.1 hbad ha).trans ?_
  refine (awaitAccess_read hread).trans ((soundReads_ok hsound).trans ?_)
  refine (if_neg fun hrefused => bne_iff_ne.1 hrefused hok).trans ?_
  exact if_pos (List.isEmpty_iff.1 hroom)

/-- An operation on counters of which the team may use each (R141, R242). -/
theorem count_done {cx : Ctx} {x y : Operand} {f : Counter → Nat → Counter} {t : State} {g : Nat → FlagSet}
    (he : cx.counted x y f = some (t, g)) : cx.count_ x y f = .done t g := by
  obtain ⟨hc, hg⟩ := need_some.1 he
  obtain ⟨rfl, rfl⟩ := gives_some.1 hg
  simp only [Bool.and_eq_true, beq_iff_eq] at hc
  obtain ⟨⟨hm, hp⟩, hok⟩ := hc
  rw [Ctx.count_, behind_unmarked hm, blockOn_clear hp]
  exact if_neg fun hbad => bne_iff_ne.1 hbad hok

/-- A heap operation that waits for nothing (R142, R243). -/
theorem heapOp_done {cx : Ctx} {os : List Operand} (f : Ctx → State → Nat → Option State) (h : (cx.unmarked 0 && cx.plain os) = true) :
    cx.heapOp os f = .done (cx.writeP15 (eachLane (f cx) cx.s (lanesOf cx.act)).1
      fun l => SMap.atD (eachLane (f cx) cx.s (lanesOf cx.act)).2 l false) 0 := by
  obtain ⟨hm, hp⟩ := Bool.and_eq_true_iff.1 h
  rw [Ctx.heapOp, behind_unmarked hm, blockOn_clear hp]

/-- Relabelled items of which none waits for a token let their splinter go on (R43). -/
theorem afterRelabel_done {cx : Ctx} {s : State} {x : Team} (hx : s.team? cx.c cx.t = some x)
    (hw : (x.items.any fun i => !i.ended && i.wtok && i.mask &&& cx.act != 0) = false) : cx.afterRelabel s = .done s 0 := by
  have hnone : (x.items.filter fun i => !i.ended && i.wtok && i.mask &&& cx.act != 0) = [] :=
    List.filter_eq_nil_iff.2 (List.any_eq_false.1 hw)
  simp only [Ctx.afterRelabel, hx, hnone, List.map_nil, if_true]

/-- A class that `flow.set` takes is not one that it traps on (R238). -/
theorem classOperand_allowed {b : Operand} {k : Nat} (h : (b == .zero || decide (k < 3)) = true) : (b != .zero && decide (3 ≤ k)) = false := by
  rcases Bool.or_eq_true_iff.1 h with hb | hk
  · rw [bne, hb, Bool.not_true, Bool.false_and]
  · rw [decide_eq_false (Nat.not_le.2 (of_decide_eq_true hk)), Bool.and_false]

theorem exec_flowSet {s t : State} {cx : Ctx} {a b : Operand} {g : Nat → FlagSet} (h : s.ready? (.flowSet a b) = some cx)
    (he : itemEffect cx (.flowSet a b) = some (t, g)) : exec (.flowSet a b) s = .next (cx.finish (.flowSet a b) t g) := by
  refine exec_done rfl rfl h ?_
  simp only [itemEffect] at he
  split at he
  next hst =>
    obtain ⟨rfl, rfl⟩ := gives_some.1 he
    exact if_pos hst
  next hst =>
    obtain ⟨hc, he⟩ := need_some.1 he
    obtain ⟨u, hr, he⟩ := Option.bind_eq_some_iff.1 he
    obtain ⟨x, hx, he⟩ := Option.bind_eq_some_iff.1 he
    obtain ⟨hw, hg⟩ := need_some.1 he
    obtain ⟨rfl, rfl⟩ := gives_some.1 hg
    simp only [Bool.and_eq_true] at hc
    obtain ⟨⟨hm, hp⟩, hk⟩ := hc
    have hk' : (b != .zero && decide (3 ≤ ((cx.read b).at_ 0).toNat)) = false := classOperand_allowed hk
    simp only [hst, if_false, behind_unmarked hm, blockOn_clear hp, hk', Bool.false_eq_true]
    simp only [Ctx.relabelled, Ctx.val] at hr
    simp only [hr]
    exact afterRelabel_done hx ((Bool.not_eq_true' _).mp hw)

theorem exec_admitHeap {s t : State} {cx : Ctx} {x y : Operand} {g : Nat → FlagSet} (h : s.ready? (.admitHeap x y) = some cx)
    (he : itemEffect cx (.admitHeap x y) = some (t, g)) : exec (.admitHeap x y) s = .next (cx.finish (.admitHeap x y) t g) := by
  obtain ⟨hc, he⟩ := need_some.1 he
  simp only [Bool.and_eq_true, beq_iff_eq] at hc
  obtain ⟨⟨hm, hp⟩, ha⟩ := hc
  obtain ⟨cy, hread, he⟩ := Option.bind_eq_some_iff.1 he
  obtain ⟨hsound, he⟩ := need_some.1 he
  obtain ⟨hstored, hg⟩ := need_some.1 he
  obtain ⟨rfl, rfl⟩ := gives_some.1 hg
  refine exec_done rfl rfl h ?_
  dsimp only
  rw [behind_unmarked hm, blockOn_clear hp]
  refine (if_neg fun hbad => bne_iff_ne.1 hbad ha).trans ?_
  refine (awaitAccess_read hread).trans ((soundReads_ok hsound).trans ?_)
  exact if_neg (Bool.eq_false_iff.1 ((Bool.not_eq_true' _).mp hstored))

theorem itemInstruction_completes {i : Instr} {s t : State} {cx : Ctx} {g : Nat → FlagSet} (h : s.ready? i = some cx)
    (he : itemEffect cx i = some (t, g)) : exec i s = .next (cx.finish i t g) := by
  cases i
  case flowRel =>
    obtain ⟨rfl, rfl⟩ := gives_some.1 he
    exact exec_done rfl rfl h rfl
  case flowSet a b => exact exec_flowSet h he
  case flowQ d a =>
    obtain ⟨hc, hg⟩ := need_some.1 he
    obtain ⟨rfl, rfl⟩ := gives_some.1 hg
    obtain ⟨hd, hp⟩ := Bool.and_eq_true_iff.1 hc
    obtain ⟨hs, -⟩ := ready_team h
    obtain ⟨hq, -⟩ := flowQueryReadsTheFlow s cx d a h hp ((Bool.not_eq_true' _).mp hd)
    rw [hq]
    simp only [barWord_eq, hs]
  case enq x y => exact exec_done rfl rfl h (offerItems_done he)
  case enqW x y => exact exec_done rfl rfl h (offerItems_done he)
  case cntSet x y => exact exec_done rfl rfl h (count_done he)
  case cntAdd x y => exact exec_done rfl rfl h (count_done he)
  case cntDec x y => exact exec_done rfl rfl h (count_done he)
  case cntQ x y =>
    obtain ⟨hc, hg⟩ := need_some.1 he
    obtain ⟨rfl, rfl⟩ := gives_some.1 hg
    simp only [Bool.and_eq_true, Bool.not_eq_true'] at hc
    obtain ⟨⟨⟨hm, hd⟩, hp⟩, hok⟩ := hc
    refine exec_done rfl rfl h ?_
    simp only [Ctx.val] at hok
    simp only [behind_unmarked hm, hd, blockOn_clear hp, hok, Bool.false_eq_true, if_false, Bool.not_true]
    rfl
  case heapIns x y =>
    obtain ⟨hc, hg⟩ := need_some.1 he
    obtain ⟨rfl, rfl⟩ := gives_some.1 hg
    exact exec_done rfl rfl h (heapOp_done _ hc)
  case heapRm x =>
    obtain ⟨hc, hg⟩ := need_some.1 he
    obtain ⟨rfl, rfl⟩ := gives_some.1 hg
    exact exec_done rfl rfl h (heapOp_done _ hc)
  case admitHeap x y => exact exec_admitHeap h he
  all_goals cases he

/-- Settles O15, instruction by instruction: what the table asks for is what the instruction's own checks ask for. -/
theorem itemInstructionsComplete : Obligations.ItemInstructionsComplete := by
  unfold Obligations.ItemInstructionsComplete
  exact fun _ _ _ _ _ => itemInstruction_completes

end Sys2Proof.Machine

end

section

/-! Every word that decodes is the word of the instruction that it decodes to (R168-R177, R183, R185). -/

namespace Sys2Proof

/-- What is read, if anything, is an instruction whose word is `w`. -/
def ReadFrom (r : Option Instr) (w : BitVec 32) : Prop := ∀ i, r = some i → encode i = some w

namespace ReadFrom

variable {w : BitVec 32}

theorem of_eq {v : BitVec 32} {r : Option Instr} (h : ReadFrom r v) (hw : v = w) : ReadFrom r w := hw ▸ h

theorem none : ReadFrom Option.none w := fun _ h => by cases h

theorem some {i : Instr} (h : encode i = Option.some w) : ReadFrom (Option.some i) w := fun _ hi => by cases hi; exact h

theorem ite {p : Prop} [Decidable p] {r r' : Option Instr} (h : p → ReadFrom r w) (h' : ¬ p → ReadFrom r' w) :
    ReadFrom (if p then r else r') w := by
  split
  · exact h ‹_›
  · exact h' ‹_›

/-- A reading under a test of the bits that it does not keep. -/
theorem guarded {p : Prop} [Decidable p] {r : Option Instr} (h : p → ReadFrom r w) : ReadFrom (if p then r else Option.none) w :=
  ite h fun _ => none

/-! Operand fields (R169): what is read from codes has the word with those codes, and unused fields are 0xFF. -/

section Fields

variable {d a b x y : BitVec 8} {m : BitVec 6} {fn : BitVec 2} {k : BitVec 4} {z : BitVec 6}

theorem op3 {f : Operand → Operand → Operand → Instr}
    (h : ∀ o p q, encode (f o p q) = Option.some (packA m (opCode o) (opCode p) (opCode q) fn)) :
    ReadFrom (op3 d a b f) (packA m d a b fn) := by
  unfold Sys2Proof.op3
  split
  next hd ha hb =>
    rw [← opCode_of_opOf hd, ← opCode_of_opOf ha, ← opCode_of_opOf hb]
    exact some (h ..)
  · exact none

theorem opCode2 {f : Operand → Operand → BitVec 8 → Instr}
    (h : ∀ o p, encode (f o p b) = Option.some (packA m (opCode o) (opCode p) b fn)) : ReadFrom (opCode2 d a b f) (packA m d a b fn) := by
  unfold Sys2Proof.opCode2
  split
  next hd ha =>
    rw [← opCode_of_opOf hd, ← opCode_of_opOf ha]
    exact some (h ..)
  · exact none

/-- Two operands, in whichever of the word's fields they stand. -/
theorem op2_word {u : BitVec 8} {e : BitVec 8 → BitVec 8 → BitVec 8 → BitVec 32} {f : Operand → Operand → Instr}
    (h : ∀ o p, encode (f o p) = Option.some (e (opCode o) (opCode p) 0xFF#8)) : ReadFrom (op2 d a u f) (e d a u) := by
  unfold Sys2Proof.op2
  split
  next hd ha =>
    rw [← opCode_of_opOf hd, ← opCode_of_opOf ha]
    exact guarded fun hu => hu ▸ some (h ..)
  · exact none

theorem op2 {f : Operand → Operand → Instr} (h : ∀ o p, encode (f o p) = Option.some (packA m (opCode o) (opCode p) 0xFF#8 fn)) :
    ReadFrom (op2 d a b f) (packA m d a b fn) :=
  op2_word (e := fun d a b => packA m d a b fn) h

theorem op2_sources {f : Operand → Operand → Instr}
    (h : ∀ o p, encode (f o p) = Option.some (packA m 0xFF#8 (opCode o) (opCode p) fn)) :
    ReadFrom (Sys2Proof.op2 a b d f) (packA m d a b fn) :=
  op2_word (e := fun a b d => packA m d a b fn) h

/-- One operand, in whichever of the word's fields it stands. -/
theorem op1_word {u v : BitVec 8} {e : BitVec 8 → BitVec 8 → BitVec 8 → BitVec 32} {f : Operand → Instr}
    (h : ∀ o, encode (f o) = Option.some (e (opCode o) 0xFF#8 0xFF#8)) : ReadFrom (op1 d u v f) (e d u v) := by
  unfold Sys2Proof.op1
  split
  next hd =>
    rw [← opCode_of_opOf hd]
    exact guarded (by rintro ⟨rfl, rfl⟩; exact some (h _))
  · exact none

theorem op1 {f : Operand → Instr} (h : ∀ o, encode (f o) = Option.some (packA m (opCode o) 0xFF#8 0xFF#8 fn)) :
    ReadFrom (op1 d a b f) (packA m d a b fn) :=
  op1_word (e := fun d a b => packA m d a b fn) h

theorem op1_source {f : Operand → Instr} (h : ∀ o, encode (f o) = Option.some (packA m 0xFF#8 (opCode o) 0xFF#8 fn)) :
    ReadFrom (Sys2Proof.op1 a d b f) (packA m d a b fn) :=
  op1_word (e := fun a d b => packA m d a b fn) h

theorem opCode1 {f : Operand → BitVec 8 → Instr} (h : ∀ o, encode (f o b) = Option.some (packA m (opCode o) 0xFF#8 b fn)) :
    ReadFrom (opCode1 d a b f) (packA m d a b fn) := by
  unfold Sys2Proof.opCode1
  split
  next hd =>
    rw [← opCode_of_opOf hd]
    exact guarded (by rintro rfl; exact some (h _))
  · exact none

theorem op0 {i : Instr} (h : encode i = Option.some (packA m 0xFF#8 0xFF#8 0xFF#8 fn)) : ReadFrom (op0 d a b i) (packA m d a b fn) :=
  guarded (by rintro ⟨rfl, rfl, rfl⟩; exact some h)

theorem opB {n : Nat} {i : BitVec n} {j : BitVec 10} {f : Operand → Operand → BitVec n → Instr}
    (h : ∀ o p, encode (f o p i) = Option.some (packB m (opCode o) (opCode p) j)) : ReadFrom (opB d a i f) (packB m d a j) := by
  unfold Sys2Proof.opB
  split
  next hd ha =>
    rw [← opCode_of_opOf hd, ← opCode_of_opOf ha]
    exact some (h ..)
  · exact none

theorem opJ {i j : BitVec 18} {f : Operand → BitVec 18 → Instr} (h : ∀ o, encode (f o i) = Option.some (packC m (opCode o) j)) :
    ReadFrom (opJ d i f) (packC m d j) := by
  unfold Sys2Proof.opJ
  split
  next hd =>
    rw [← opCode_of_opOf hd]
    exact some (h _)
  · exact none

theorem opXY {f : Operand → Operand → Instr} (h : ∀ o p, encode (f o p) = Option.some (packE m k (opCode o) (opCode p) z)) :
    ReadFrom (opXY x y f) (packE m k x y z) := by
  unfold Sys2Proof.opXY
  split
  next hx hy =>
    rw [← opCode_of_opOf hx, ← opCode_of_opOf hy]
    exact some (h ..)
  · exact none

theorem opX {f : Operand → Instr} (h : ∀ o, encode (f o) = Option.some (packE m k (opCode o) 0xFF#8 z)) :
    ReadFrom (opX x y f) (packE m k x y z) := by
  unfold Sys2Proof.opX
  split
  next hx =>
    rw [← opCode_of_opOf hx]
    exact guarded (by rintro rfl; exact some (h _))
  · exact none

theorem opZ {f : BitVec 6 → Instr} (h : encode (f z) = Option.some (packE m k 0xFF#8 0xFF#8 z)) : ReadFrom (opZ x y z f) (packE m k x y z) :=
  guarded (by rintro ⟨rfl, rfl⟩; exact some h)

theorem zeroZ {r : Option Instr} (h : ReadFrom r (packE m k x y 0#6)) : ReadFrom (zeroZ z r) (packE m k x y z) :=
  guarded (by rintro rfl; exact h)

/-- The operand of major 0x3D, above an immediate. -/
theorem mapS {sop : BitVec 6} {n : BitVec 12} {f : Operand → Instr} (h : ∀ o, encode (f o) = Option.some (packS 0x3D sop (opCode o) n)) :
    ReadFrom ((opOf d).map f) (packS 0x3D sop d n) := by
  intro i hi
  obtain ⟨o, ho, rfl⟩ := Option.map_eq_some_iff.mp hi
  rw [← opCode_of_opOf ho]
  exact h o

end Fields

end ReadFrom

/-! The fields of a word put together are the word (R168). -/

/-- Neighbouring fields of a vector joined. -/
theorem extract_append_extract {v : Nat} (x : BitVec v) (k l s m : Nat) (h : k = s + m) :
    x.extractLsb' k l ++ x.extractLsb' s m = x.extractLsb' s (l + m) :=
  BitVec.extractLsb'_append_extractLsb'_eq_extractLsb' h

theorem packA_fields (w : BitVec 32) : packA (w.extractLsb' 26 6) (fD w) (fS1 w) (fS2 w) (fFN w) = w := by
  unfold packA fD fS1 fS2 fFN
  rw [extract_append_extract w 26 6 18 8 rfl, extract_append_extract w 18 14 10 8 rfl, extract_append_extract w 10 22 2 8 rfl,
    extract_append_extract w 2 30 0 2 rfl]
  exact BitVec.extractLsb'_eq_self

theorem packB_fields (w : BitVec 32) : packB (w.extractLsb' 26 6) (fD w) (fS1 w) (fImm10 w) = w := by
  unfold packB fD fS1 fImm10
  rw [extract_append_extract w 26 6 18 8 rfl, extract_append_extract w 18 14 10 8 rfl, extract_append_extract w 10 22 0 10 rfl]
  exact BitVec.extractLsb'_eq_self

theorem packC_fields (w : BitVec 32) : packC (w.extractLsb' 26 6) (fD w) (fImm18 w) = w := by
  unfold packC fD fImm18
  rw [extract_append_extract w 26 6 18 8 rfl, extract_append_extract w 18 14 0 18 rfl]
  exact BitVec.extractLsb'_eq_self

theorem packE_fields (w : BitVec 32) : packE (w.extractLsb' 26 6) (fOP4 w) (fX w) (fY w) (fZ6 w) = w := by
  unfold packE fOP4 fX fY fZ6
  rw [extract_append_extract w 26 6 22 4 rfl, extract_append_extract w 22 10 14 8 rfl, extract_append_extract w 14 18 6 8 rfl,
    extract_append_extract w 6 26 0 6 rfl]
  exact BitVec.extractLsb'_eq_self

theorem packF_fields (w : BitVec 32) : packF (w.extractLsb' 26 6) (fPred w) (fSucc w) (fFScope w) (fFKind w) (fFZero w) = w := by
  unfold packF fPred fSucc fFScope fFKind fFZero
  rw [extract_append_extract w 26 6 22 4 rfl, extract_append_extract w 22 10 18 4 rfl, extract_append_extract w 18 14 15 3 rfl,
    extract_append_extract w 15 17 13 2 rfl, extract_append_extract w 13 19 0 13 rfl]
  exact BitVec.extractLsb'_eq_self

theorem packS_fields (w : BitVec 32) : packS (w.extractLsb' 26 6) (fSOP w) (fSD w) (fImm12 w) = w := by
  unfold packS fSOP fSD fImm12
  rw [extract_append_extract w 26 6 20 6 rfl, extract_append_extract w 20 12 12 8 rfl, extract_append_extract w 12 20 0 12 rfl]
  exact BitVec.extractLsb'_eq_self

theorem packK_fields (w : BitVec 32) : packK (w.extractLsb' 26 6) (fHi w) (fOnes w) (fImm10 w) = w := by
  unfold packK fHi fOnes fImm10
  rw [extract_append_extract w 26 6 16 10 rfl, extract_append_extract w 16 16 10 6 rfl, extract_append_extract w 10 22 0 10 rfl]
  exact BitVec.extractLsb'_eq_self

/-! Formats A and E, one major at a time: a reading for each FN or OP4, in the order of the table (R172, R173). -/

theorem forall_FN {p : BitVec 2 → Prop} (h0 : p 0#2) (h1 : p 1#2) (h2 : p 2#2) (h3 : p 3#2) (fn : BitVec 2) : p fn := by
  match fn with
  | 0#2 => exact h0
  | 1#2 => exact h1
  | 2#2 => exact h2
  | 3#2 => exact h3

theorem decodeA01_readFrom (d a b : BitVec 8) : ∀ fn, ReadFrom (decodeA01 d a b fn) (packA 0x01 d a b fn) :=
  forall_FN (.op3 fun _ _ _ => rfl) (.op3 fun _ _ _ => rfl) (.op3 fun _ _ _ => rfl) (.op3 fun _ _ _ => rfl)

theorem decodeA02_readFrom (d a b : BitVec 8) : ∀ fn, ReadFrom (decodeA02 d a b fn) (packA 0x02 d a b fn) :=
  forall_FN (.op3 fun _ _ _ => rfl) (.op3 fun _ _ _ => rfl) (.op3 fun _ _ _ => rfl) (.op3 fun _ _ _ => rfl)

theorem decodeA03_readFrom (d a b : BitVec 8) : ∀ fn, ReadFrom (decodeA03 d a b fn) (packA 0x03 d a b fn) :=
  forall_FN (.op3 fun _ _ _ => rfl) (.op3 fun _ _ _ => rfl) (.op3 fun _ _ _ => rfl) (.op3 fun _ _ _ => rfl)

theorem decodeA04_readFrom (d a b : BitVec 8) : ∀ fn, ReadFrom (decodeA04 d a b fn) (packA 0x04 d a b fn) :=
  forall_FN (.op3 fun _ _ _ => rfl) (.op3 fun _ _ _ => rfl) (.op3 fun _ _ _ => rfl) (.op3 fun _ _ _ => rfl)

theorem decodeA05_readFrom (d a b : BitVec 8) : ∀ fn, ReadFrom (decodeA05 d a b fn) (packA 0x05 d a b fn) :=
  forall_FN (.op3 fun _ _ _ => rfl) (.op3 fun _ _ _ => rfl) (.op3 fun _ _ _ => rfl) (.op3 fun _ _ _ => rfl)

theorem decodeA06_readFrom (d a b : BitVec 8) : ∀ fn, ReadFrom (decodeA06 d a b fn) (packA 0x06 d a b fn) :=
  forall_FN (.op2 fun _ _ => rfl) (.op2 fun _ _ => rfl) (.op2 fun _ _ => rfl) (.op2 fun _ _ => rfl)

theorem decodeA07_readFrom (d a b : BitVec 8) : ∀ fn, ReadFrom (decodeA07 d a b fn) (packA 0x07 d a b fn) :=
  forall_FN (.op3 fun _ _ _ => rfl) (.op3 fun _ _ _ => rfl) (.op3 fun _ _ _ => rfl) (.op3 fun _ _ _ => rfl)

theorem decodeA08_readFrom (d a b : BitVec 8) : ∀ fn, ReadFrom (decodeA08 d a b fn) (packA 0x08 d a b fn) :=
  forall_FN (.op3 fun _ _ _ => rfl) (.op3 fun _ _ _ => rfl) (.op3 fun _ _ _ => rfl) (.op3 fun _ _ _ => rfl)

theorem decodeA13_readFrom (d a b : BitVec 8) : ∀ fn, ReadFrom (decodeA13 d a b fn) (packA 0x13 d a b fn) :=
  forall_FN (.op2 fun _ _ => rfl) (.op3 fun _ _ _ => rfl) (.op2 fun _ _ => rfl) (.op2 fun _ _ => rfl)

theorem decodeA14_readFrom (d a b : BitVec 8) : ∀ fn, ReadFrom (decodeA14 d a b fn) (packA 0x14 d a b fn) :=
  forall_FN (.op3 fun _ _ _ => rfl) (.op3 fun _ _ _ => rfl) (.op3 fun _ _ _ => rfl) (.op3 fun _ _ _ => rfl)

theorem decodeA15_readFrom (d a b : BitVec 8) : ∀ fn, ReadFrom (decodeA15 d a b fn) (packA 0x15 d a b fn) :=
  forall_FN (.op3 fun _ _ _ => rfl) (.op3 fun _ _ _ => rfl) (.op3 fun _ _ _ => rfl) (.op3 fun _ _ _ => rfl)

theorem decodeA16_readFrom (d a b : BitVec 8) : ∀ fn, ReadFrom (decodeA16 d a b fn) (packA 0x16 d a b fn) :=
  forall_FN (.op3 fun _ _ _ => rfl) (.op3 fun _ _ _ => rfl) (.op3 fun _ _ _ => rfl) (.op3 fun _ _ _ => rfl)

theorem decodeA17_readFrom (d a b : BitVec 8) : ∀ fn, ReadFrom (decodeA17 d a b fn) (packA 0x17 d a b fn) :=
  forall_FN (.op1 fun _ => rfl) (.op1 fun _ => rfl) (.op2 fun _ _ => rfl) (.op2 fun _ _ => rfl)

theorem decodeA1A_readFrom (d a b : BitVec 8) : ∀ fn, ReadFrom (decodeA1A d a b fn) (packA 0x1a d a b fn) :=
  forall_FN (.op1_source fun _ => rfl) (.op1_source fun _ => rfl) (.op2 fun _ _ => rfl) .none

theorem decodeA1C_readFrom (d a b : BitVec 8) : ∀ fn, ReadFrom (decodeA1C d a b fn) (packA 0x1c d a b fn) :=
  forall_FN (.op2 fun _ _ => rfl) (.op2 fun _ _ => rfl) (.op1 fun _ => rfl) (.op2 fun _ _ => rfl)

theorem decodeA1D_readFrom (d a b : BitVec 8) : ∀ fn, ReadFrom (decodeA1D d a b fn) (packA 0x1d d a b fn) :=
  forall_FN (.op0 rfl) (.op0 rfl) (.op0 rfl) (.op0 rfl)

theorem decodeA20_readFrom (d a b : BitVec 8) : ∀ fn, ReadFrom (decodeA20 d a b fn) (packA 0x20 d a b fn) :=
  forall_FN (.op3 fun _ _ _ => rfl) (.op3 fun _ _ _ => rfl) (.op3 fun _ _ _ => rfl) (.op3 fun _ _ _ => rfl)

theorem decodeA21_readFrom (d a b : BitVec 8) : ∀ fn, ReadFrom (decodeA21 d a b fn) (packA 0x21 d a b fn) :=
  forall_FN (.op3 fun _ _ _ => rfl) (.op3 fun _ _ _ => rfl) (.op3 fun _ _ _ => rfl) (.op3 fun _ _ _ => rfl)

theorem decodeA22_readFrom (d a b : BitVec 8) : ∀ fn, ReadFrom (decodeA22 d a b fn) (packA 0x22 d a b fn) :=
  forall_FN (.op2_sources fun _ _ => rfl) (.op2_sources fun _ _ => rfl) (.op2 fun _ _ => rfl) (.op2 fun _ _ => rfl)

theorem decodeA23_readFrom (d a b : BitVec 8) : ∀ fn, ReadFrom (decodeA23 d a b fn) (packA 0x23 d a b fn) :=
  forall_FN (.op3 fun _ _ _ => rfl) (.op1_source fun _ => rfl) (.op3 fun _ _ _ => rfl) .none

theorem decodeA24_readFrom (d a b : BitVec 8) : ∀ fn, ReadFrom (decodeA24 d a b fn) (packA 0x24 d a b fn) :=
  forall_FN (.op3 fun _ _ _ => rfl) (.op3 fun _ _ _ => rfl) (.op3 fun _ _ _ => rfl) (.op3 fun _ _ _ => rfl)

theorem decodeA25_readFrom (d a b : BitVec 8) : ∀ fn, ReadFrom (decodeA25 d a b fn) (packA 0x25 d a b fn) :=
  forall_FN (.op3 fun _ _ _ => rfl) (.op3 fun _ _ _ => rfl) (.op3 fun _ _ _ => rfl) (.op3 fun _ _ _ => rfl)

theorem decodeA26_readFrom (d a b : BitVec 8) : ∀ fn, ReadFrom (decodeA26 d a b fn) (packA 0x26 d a b fn) :=
  forall_FN (.op3 fun _ _ _ => rfl) (.op3 fun _ _ _ => rfl) (.op3 fun _ _ _ => rfl) (.op3 fun _ _ _ => rfl)

theorem decodeA29_readFrom (d a b : BitVec 8) : ∀ fn, ReadFrom (decodeA29 d a b fn) (packA 0x29 d a b fn) :=
  forall_FN (.op2 fun _ _ => rfl) (.op2 fun _ _ => rfl) (.op2 fun _ _ => rfl) (.op2 fun _ _ => rfl)

theorem decodeA2A_readFrom (d a b : BitVec 8) : ∀ fn, ReadFrom (decodeA2A d a b fn) (packA 0x2a d a b fn) :=
  forall_FN (.op0 rfl) (.op2_sources fun _ _ => rfl) (.op2 fun _ _ => rfl) .none

theorem decodeA2C_readFrom (d a b : BitVec 8) : ∀ fn, ReadFrom (decodeA2C d a b fn) (packA 0x2c d a b fn) :=
  forall_FN (.op3 fun _ _ _ => rfl) (.op3 fun _ _ _ => rfl) (.op3 fun _ _ _ => rfl) (.op3 fun _ _ _ => rfl)

theorem decodeA30_readFrom (d a b : BitVec 8) : ∀ fn, ReadFrom (decodeA30 d a b fn) (packA 0x30 d a b fn) :=
  forall_FN (.op3 fun _ _ _ => rfl) (.op3 fun _ _ _ => rfl) (.op3 fun _ _ _ => rfl) (.op3 fun _ _ _ => rfl)

theorem decodeA31_readFrom (d a b : BitVec 8) : ∀ fn, ReadFrom (decodeA31 d a b fn) (packA 0x31 d a b fn) :=
  forall_FN (.op3 fun _ _ _ => rfl) (.op3 fun _ _ _ => rfl) (.op3 fun _ _ _ => rfl) (.op3 fun _ _ _ => rfl)

theorem decodeA32_readFrom (d a b : BitVec 8) : ∀ fn, ReadFrom (decodeA32 d a b fn) (packA 0x32 d a b fn) :=
  forall_FN (.op2 fun _ _ => rfl) (.op2 fun _ _ => rfl) (.op2 fun _ _ => rfl) (.op2 fun _ _ => rfl)

theorem decodeA33_readFrom (d a b : BitVec 8) : ∀ fn, ReadFrom (decodeA33 d a b fn) (packA 0x33 d a b fn) :=
  forall_FN (.op2 fun _ _ => rfl) (.op2 fun _ _ => rfl) (.op2 fun _ _ => rfl) (.op2 fun _ _ => rfl)

theorem decodeA34_readFrom (d a b : BitVec 8) : ∀ fn, ReadFrom (decodeA34 d a b fn) (packA 0x34 d a b fn) :=
  forall_FN (.op3 fun _ _ _ => rfl) (.op3 fun _ _ _ => rfl) (.op3 fun _ _ _ => rfl) (.op3 fun _ _ _ => rfl)

theorem decodeA35_readFrom (d a b : BitVec 8) : ∀ fn, ReadFrom (decodeA35 d a b fn) (packA 0x35 d a b fn) :=
  forall_FN (.opCode2 fun _ _ => rfl) (.opCode2 fun _ _ => rfl) (.opCode2 fun _ _ => rfl) (.opCode2 fun _ _ => rfl)

theorem decodeA36_readFrom (d a b : BitVec 8) : ∀ fn, ReadFrom (decodeA36 d a b fn) (packA 0x36 d a b fn) :=
  forall_FN (.op3 fun _ _ _ => rfl) (.op2 fun _ _ => rfl) (.opCode2 fun _ _ => rfl) .none

theorem decodeA37_readFrom (d a b : BitVec 8) : ∀ fn, ReadFrom (decodeA37 d a b fn) (packA 0x37 d a b fn) :=
  forall_FN (.op3 fun _ _ _ => rfl) (.op3 fun _ _ _ => rfl) (.op3 fun _ _ _ => rfl) (.op3 fun _ _ _ => rfl)

theorem decodeA38_readFrom (d a b : BitVec 8) : ∀ fn, ReadFrom (decodeA38 d a b fn) (packA 0x38 d a b fn) :=
  forall_FN (.op2 fun _ _ => rfl) (.op2 fun _ _ => rfl) (.op2 fun _ _ => rfl) (.op2 fun _ _ => rfl)

theorem decodeA39_readFrom (d a b : BitVec 8) : ∀ fn, ReadFrom (decodeA39 d a b fn) (packA 0x39 d a b fn) :=
  forall_FN (.op2 fun _ _ => rfl) (.op2 fun _ _ => rfl) (.op2 fun _ _ => rfl) (.op2 fun _ _ => rfl)

theorem decodeA3A_readFrom (d a b : BitVec 8) : ∀ fn, ReadFrom (decodeA3A d a b fn) (packA 0x3a d a b fn) :=
  forall_FN (.op3 fun _ _ _ => rfl) (.opCode1 fun _ => rfl) .none .none

theorem decodeA3B_readFrom (d a b : BitVec 8) : ∀ fn, ReadFrom (decodeA3B d a b fn) (packA 0x3b d a b fn) :=
  forall_FN (.op2 fun _ _ => rfl) (.op1_source fun _ => rfl) (.op0 rfl) .none

theorem decodeE28_readFrom (x y : BitVec 8) (z : BitVec 6) (o : BitVec 4) : ReadFrom (decodeE28 x y z o) (packE 0x28 o x y z) := by
  unfold decodeE28
  split
  · exact .opX fun _ => rfl
  · exact .opX fun _ => rfl
  · exact .opXY fun _ _ => rfl
  · exact .opZ rfl
  · exact .opZ rfl
  · exact .opX fun _ => rfl
  · exact .none

theorem decodeE2B_readFrom (x y : BitVec 8) (z : BitVec 6) (o : BitVec 4) : ReadFrom (decodeE2B x y z o) (packE 0x2b o x y z) := by
  unfold decodeE2B
  split
  · exact .zeroZ (.opXY fun _ _ => rfl)
  · exact .zeroZ (.opXY fun _ _ => rfl)
  · exact .zeroZ (.opXY fun _ _ => rfl)
  · exact .zeroZ (.opXY fun _ _ => rfl)
  · exact .zeroZ (.opXY fun _ _ => rfl)
  · exact .zeroZ (.opXY fun _ _ => rfl)
  · exact .zeroZ (.opXY fun _ _ => rfl)
  · exact .zeroZ (.opX fun _ => rfl)
  · exact .zeroZ (.opXY fun _ _ => rfl)
  · exact .none

/-- The low field of `mma` is its three signs and the accumulator. -/
theorem mma_join (z : BitVec 6) :
    BitVec.ofBool (z.getLsbD 5) ++ BitVec.ofBool (z.getLsbD 4) ++ BitVec.ofBool (z.getLsbD 3) ++ z.extractLsb' 0 3 = z := by
  revert z; decide +kernel

theorem decodeE2D_readFrom (x y : BitVec 8) (z : BitVec 6) (o : BitVec 4) : ReadFrom (decodeE2D x y z o) (packE 0x2d o x y z) := by
  unfold decodeE2D
  split
  · exact .zeroZ (.opXY fun _ _ => rfl)
  · exact .zeroZ (.opX fun _ => rfl)
  · exact .opX fun _ => rfl
  · exact .opXY fun o p => congrArg (fun z => some (packE 0x2d 3 (opCode o) (opCode p) z)) (mma_join z)
  · exact .zeroZ (.opX fun _ => rfl)
  · exact .zeroZ (.opX fun _ => rfl)
  · exact .zeroZ (.opX fun _ => rfl)
  · exact .zeroZ (.opXY fun _ _ => rfl)
  · exact .zeroZ (.opXY fun _ _ => rfl)
  · exact .opXY fun _ _ => rfl
  · exact .zeroZ (.opXY fun _ _ => rfl)
  · exact .none

theorem decodeE3C_readFrom (x y : BitVec 8) (z : BitVec 6) (o : BitVec 4) : ReadFrom (decodeE3C x y z o) (packE 0x3c o x y z) := by
  unfold decodeE3C
  split
  · exact .opX fun _ => rfl
  · exact .opX fun _ => rfl
  · exact .zeroZ (.opX fun _ => rfl)
  · exact .opZ rfl
  · exact .ite (by rintro ⟨rfl, rfl⟩; exact .some rfl) fun _ => .opXY fun _ _ => rfl
  · exact .opX fun _ => rfl
  · exact .opX fun _ => rfl
  · exact .opXY fun _ _ => rfl
  · exact .opX fun _ => rfl
  · exact .opXY fun _ _ => rfl
  · exact .opX fun _ => rfl
  · exact .none

/-! Majors 0x27 and 0x3D (R174, R175, R364, R368). -/

theorem decodeFence_readFrom (p s : BitVec 4) (c : BitVec 3) (k : BitVec 2) (z : BitVec 13) :
    ReadFrom (decodeFence p s c k z) (packF 0x27 p s c k z) := by
  unfold decodeFence
  split
  next hc =>
    rw [← code_of_scopeOf hc]
    exact .guarded (by rintro ⟨rfl, rfl⟩; exact .some rfl)
  · exact .none

theorem ofBool_getLsbD_zero {v : Nat} (x : BitVec v) : BitVec.ofBool (x.getLsbD 0) = x.extractLsb' 0 1 := by
  ext i hi
  obtain rfl : i = 0 := by omega
  simp

/-- The words of `ctl.w` with rows of their own are those with these numbers, so each row's word is that of its number (R364). -/
theorem encode_decodeCtlW (d : Operand) (n : BitVec 12) : encode (decodeCtlW d n) = some (packS 0x3D 3 (opCode d) n) := by
  have number (k : BitVec 4) (h7 : n.extractLsb' 7 5 = 0b00011#5) (h0 : n.extractLsb' 0 4 = k) :
      0b00011#5 ++ n.extractLsb' 4 3 ++ k = n := by
    rw [← h7, ← h0, extract_append_extract n 7 5 4 3 rfl, extract_append_extract n 4 8 0 4 rfl]
    exact BitVec.extractLsb'_eq_self
  unfold decodeCtlW
  split
  next h => rw [h]; rfl
  split
  next h => exact congrArg (fun n => some (packS 0x3D 3 (opCode d) n)) (number _ h.1 h.2)
  split
  next h => exact congrArg (fun n => some (packS 0x3D 3 (opCode d) n)) (number _ h.1 h.2)
  · rfl

section LowFields

variable {n : BitVec 12}

theorem tlb_join (h : n.extractLsb' 5 7 = 0#7) : 0#7 ++ n.extractLsb' 2 3 ++ n.extractLsb' 0 2 = n := by
  rw [← h, extract_append_extract n 5 7 2 3 rfl, extract_append_extract n 2 10 0 2 rfl]
  exact BitVec.extractLsb'_eq_self

theorem pop_join {k : BitVec 9} (h : n.extractLsb' 3 9 = k) : k ++ n.extractLsb' 0 3 = n := by
  rw [← h, extract_append_extract n 3 9 0 3 rfl]
  exact BitVec.extractLsb'_eq_self

theorem last_join (h : n.extractLsb' 1 11 = 0#11) : 0#11 ++ BitVec.ofBool (n.getLsbD 0) = n := by
  rw [← h, ofBool_getLsbD_zero, extract_append_extract n 1 11 0 1 rfl]
  exact BitVec.extractLsb'_eq_self

end LowFields

/-- A field of six bits from its number, by which the decoder distinguishes majors and SOPs. -/
theorem ofNat_toNat_six (m : BitVec 6) : BitVec.ofNat 6 m.toNat = m := by rw [BitVec.ofNat_toNat, BitVec.setWidth_eq]

theorem decodeS_readFrom (d : BitVec 8) (n : BitVec 12) (sop : BitVec 6) : ReadFrom (decodeS d n sop) (packS 0x3D sop d n) := by
  have hs := ofNat_toNat_six sop
  unfold decodeS
  generalize sop.toNat = k at hs ⊢
  subst hs
  split
  · exact .guarded (by rintro rfl; exact .some rfl)
  · exact .guarded (by rintro ⟨rfl, rfl⟩; exact .some rfl)
  · exact .mapS fun _ => rfl
  · exact .mapS fun o => encode_decodeCtlW o n
  · exact .guarded fun h => .of_eq (.mapS fun _ => rfl) (congrArg _ (tlb_join h))
  · exact .ite (fun h => .of_eq (.mapS fun _ => rfl) (congrArg _ (pop_join h))) fun _ =>
      .guarded fun h => .of_eq (.mapS fun _ => rfl) (congrArg _ (pop_join h))
  · exact .guarded fun h => .of_eq (.mapS fun _ => rfl) (congrArg _ (last_join h))
  · exact .guarded fun h => .of_eq (.mapS fun _ => rfl) (congrArg _ h.symm)
  · exact .guarded fun h => .of_eq (.mapS fun _ => rfl) (congrArg _ h.symm)
  · exact .guarded fun h => .of_eq (.mapS fun _ => rfl) (congrArg _ (last_join h))
  · exact .guarded fun h => .of_eq (.mapS fun _ => rfl) (congrArg _ (last_join h))
  · exact .guarded (by rintro ⟨rfl, rfl⟩; exact .some rfl)
  · exact .none

/-! The words of every format (R168, R170). -/

/-- The immediate of a shift by an immediate is its amount under four zero bits (R170). -/
theorem amount_join {w : BitVec 32} (h : fHi4 w = 0#4) : 0#4 ++ fAmt w = fImm10 w := by
  rw [← h]
  exact extract_append_extract w 6 4 0 6 rfl

theorem movk_join (i : BitVec 18) : i.extractLsb' 16 2 ++ i.extractLsb' 0 16 = i := BitVec.extractLsb'_append_extractLsb'

/-- A word is read only as an instruction whose word it is. -/
theorem decodeWord_readFrom (w : BitVec 32) : ReadFrom (decodeWord w) w := by
  have hm := ofNat_toNat_six (w.extractLsb' 26 6)
  have hA := packA_fields w
  have hB := packB_fields w
  have hC := packC_fields w
  have hE := packE_fields w
  have hF := packF_fields w
  have hS := packS_fields w
  have hK := packK_fields w
  unfold decodeWord
  generalize w.extractLsb' 26 6 = major at hm hA hB hC hE hF hS hK ⊢
  generalize major.toNat = m at hm ⊢
  subst hm
  split
  · exact .of_eq (decodeA01_readFrom _ _ _ _) hA
  · exact .of_eq (decodeA02_readFrom _ _ _ _) hA
  · exact .of_eq (decodeA03_readFrom _ _ _ _) hA
  · exact .of_eq (decodeA04_readFrom _ _ _ _) hA
  · exact .of_eq (decodeA05_readFrom _ _ _ _) hA
  · exact .of_eq (decodeA06_readFrom _ _ _ _) hA
  · exact .of_eq (decodeA07_readFrom _ _ _ _) hA
  · exact .of_eq (decodeA08_readFrom _ _ _ _) hA
  · exact .of_eq (decodeA13_readFrom _ _ _ _) hA
  · exact .of_eq (decodeA14_readFrom _ _ _ _) hA
  · exact .of_eq (decodeA15_readFrom _ _ _ _) hA
  · exact .of_eq (decodeA16_readFrom _ _ _ _) hA
  · exact .of_eq (decodeA17_readFrom _ _ _ _) hA
  · exact .of_eq (decodeA1A_readFrom _ _ _ _) hA
  · exact .of_eq (decodeA1C_readFrom _ _ _ _) hA
  · exact .of_eq (decodeA1D_readFrom _ _ _ _) hA
  · exact .of_eq (decodeA20_readFrom _ _ _ _) hA
  · exact .of_eq (decodeA21_readFrom _ _ _ _) hA
  · exact .of_eq (decodeA22_readFrom _ _ _ _) hA
  · exact .of_eq (decodeA23_readFrom _ _ _ _) hA
  · exact .of_eq (decodeA24_readFrom _ _ _ _) hA
  · exact .of_eq (decodeA25_readFrom _ _ _ _) hA
  · exact .of_eq (decodeA26_readFrom _ _ _ _) hA
  · exact .of_eq (decodeE28_readFrom _ _ _ _) hE
  · exact .of_eq (decodeA29_readFrom _ _ _ _) hA
  · exact .of_eq (decodeA2A_readFrom _ _ _ _) hA
  · exact .of_eq (decodeE2B_readFrom _ _ _ _) hE
  · exact .of_eq (decodeA2C_readFrom _ _ _ _) hA
  · exact .of_eq (decodeE2D_readFrom _ _ _ _) hE
  · exact .of_eq (decodeA30_readFrom _ _ _ _) hA
  · exact .of_eq (decodeA31_readFrom _ _ _ _) hA
  · exact .of_eq (decodeA32_readFrom _ _ _ _) hA
  · exact .of_eq (decodeA33_readFrom _ _ _ _) hA
  · exact .of_eq (decodeA34_readFrom _ _ _ _) hA
  · exact .of_eq (decodeA35_readFrom _ _ _ _) hA
  · exact .of_eq (decodeA36_readFrom _ _ _ _) hA
  · exact .of_eq (decodeA37_readFrom _ _ _ _) hA
  · exact .of_eq (decodeA38_readFrom _ _ _ _) hA
  · exact .of_eq (decodeA39_readFrom _ _ _ _) hA
  · exact .of_eq (decodeA3A_readFrom _ _ _ _) hA
  · exact .of_eq (decodeA3B_readFrom _ _ _ _) hA
  · exact .of_eq (decodeE3C_readFrom _ _ _ _) hE
  · exact .of_eq (.opB fun _ _ => rfl) hB
  · exact .of_eq (.opB fun _ _ => rfl) hB
  · exact .of_eq (.opB fun _ _ => rfl) hB
  · exact .of_eq (.opB fun _ _ => rfl) hB
  · exact .of_eq (.opB fun _ _ => rfl) hB
  · exact .guarded fun h => .of_eq (.opB fun _ _ => rfl) (by rw [amount_join h]; exact hB)
  · exact .guarded fun h => .of_eq (.opB fun _ _ => rfl) (by rw [amount_join h]; exact hB)
  · exact .guarded fun h => .of_eq (.opB fun _ _ => rfl) (by rw [amount_join h]; exact hB)
  · exact .of_eq (.opJ fun _ => rfl) hC
  · exact .of_eq (.opJ fun _ => rfl) hC
  · exact .of_eq (.opJ fun _ => rfl) hC
  · exact .of_eq (.opJ fun _ => rfl) hC
  · exact .of_eq (.opJ fun _ => rfl) (by rw [movk_join]; exact hC)
  · exact .of_eq (decodeFence_readFrom _ _ _ _ _) hF
  · exact .of_eq (decodeS_readFrom _ _ _) hS
  · exact .guarded fun h => .of_eq (.some rfl) (by rwa [h] at hK)
  · exact .none

/-- Settles O3: each major's reading checks every field that it does not keep, and the fields of a word put together are the word. -/
theorem decodedWordsEncode : Obligations.DecodedWordsEncode := by
  unfold Obligations.DecodedWordsEncode
  exact fun w i h => decodeWord_readFrom w i h

end Sys2Proof
end

section

/-! The words of instructions, alone in memory, decode to them (R3, R168-R185). -/

namespace Sys2Proof
open Laws.Encoding

theorem wordsOfBytes_bytesOfWord (w : BitVec 32) : wordsOfBytes (bytesOfWord w) = [w] := by
  have h : w.extractLsb' 24 8 ++ w.extractLsb' 16 8 ++ w.extractLsb' 8 8 ++ w.extractLsb' 0 8 = w := by
    rw [extract_append_extract w 24 8 16 8 rfl, extract_append_extract w 16 16 8 8 rfl, extract_append_extract w 8 24 0 8 rfl]
    exact BitVec.extractLsb'_eq_self
  simp only [bytesOfWord, wordsOfBytes, h]

/-- No hint word is the word of an instruction (R178). -/
theorem isHint_of_decodeWord {w : BitVec 32} {i : Instr} (h : decodeWord w = some i) : isHint w = false := by
  cases hh : isHint w with
  | false => rfl
  | true =>
    have hm : w.extractLsb' 26 6 = 0x3E#6 := beq_iff_eq.mp hh
    simp [decodeWord, hm] at h

/-- A group of one instruction word reads as its instruction, a dictionary word among them (R178, R183). -/
theorem readGroup_alone {w : BitVec 32} {i : Instr} (h : decodeWord w = some i) : readGroup {} 0 [w] = .group {} i 1 := by
  simp only [readGroup, isHint_of_decodeWord h, h, Bool.false_eq_true, if_false]
  cases i <;> rfl

theorem decodeTableWord_of_decodeWord {w : BitVec 32} {i : Instr} (h : decodeWord w = some i) : decodeTableWord 32 w.toNat = some i := by
  simp only [decodeTableWord, decodeBytes, BitVec.ofNat_toNat, BitVec.setWidth_eq, wordsOfBytes_bytesOfWord, readGroup_alone h, if_true]

/-- Every instruction's round trip; an event has no word. -/
theorem decodeWord_encode (i : Instr) : Statement i := by
  cases i with
  | add d a b => exact add d a b
  | sub d a b => exact sub d a b
  | addSatI d a b => exact addSatI d a b
  | addSatN d a b => exact addSatN d a b
  | mul d a b => exact mul d a b
  | mulhiI d a b => exact mulhiI d a b
  | mulhiN d a b => exact mulhiN d a b
  | mad d a b => exact mad d a b
  | divI d a b => exact divI d a b
  | divN d a b => exact divN d a b
  | remI d a b => exact remI d a b
  | remN d a b => exact remN d a b
  | andOp d a b => exact andOp d a b
  | orOp d a b => exact orOp d a b
  | xorOp d a b => exact xorOp d a b
  | andn d a b => exact andn d a b
  | shl d a b => exact shl d a b
  | shr d a b => exact shr d a b
  | sar d a b => exact sar d a b
  | rotl d a b => exact rotl d a b
  | clz d a => exact clz d a
  | popc d a => exact popc d a
  | brev d a => exact brev d a
  | ffs d a => exact ffs d a
  | minI d a b => exact minI d a b
  | maxI d a b => exact maxI d a b
  | minN d a b => exact minN d a b
  | maxN d a b => exact maxN d a b
  | bfxI d a b => exact bfxI d a b
  | bfxN d a b => exact bfxN d a b
  | bfi d a b => exact bfi d a b
  | lea d a b => exact lea d a b
  | addi d a imm => exact addi d a imm
  | muli d a imm => exact muli d a imm
  | andi d a imm => exact andi d a imm
  | ori d a imm => exact ori d a imm
  | xori d a imm => exact xori d a imm
  | shli d a amt => exact shli d a amt
  | shri d a amt => exact shri d a amt
  | sari d a amt => exact sari d a amt
  | movi d imm => exact movi d imm
  | movk d sel imm => exact movk d sel imm
  | mov d a => exact mov d a
  | cmov d a b => exact cmov d a b
  | p2v d a => exact p2v d a
  | v2p d a => exact v2p d a
  | cmpEq d a b => exact cmpEq d a b
  | cmpNe d a b => exact cmpNe d a b
  | cmpLtI d a b => exact cmpLtI d a b
  | cmpLeI d a b => exact cmpLeI d a b
  | cmpLtN d a b => exact cmpLtN d a b
  | cmpLeN d a b => exact cmpLeN d a b
  | tst d a b => exact tst d a b
  | tstz d a b => exact tstz d a b
  | pand d a b => exact pand d a b
  | por d a b => exact por d a b
  | pxor d a b => exact pxor d a b
  | pandn d a b => exact pandn d a b
  | pset d => exact pset d
  | pclr d => exact pclr d
  | pfirst d a => exact pfirst d a
  | pcnt d a => exact pcnt d a
  | br cond off => exact br cond off
  | call cond off => exact call cond off
  | brx a => exact brx a
  | ret a => exact ret a
  | callx d a => exact callx d a
  | joinArr cond off => exact joinArr cond off
  | joinSet d a => exact joinSet d a
  | joinAdd d a => exact joinAdd d a
  | joinClr d => exact joinClr d
  | joinRem d a => exact joinRem d a
  | exitLanes => exact exitLanes
  | refill => exact refill
  | yield => exact yield
  | nop => exact nop
  | ldB d a b => exact ldB d a b
  | ldH d a b => exact ldH d a b
  | ldW d a b => exact ldW d a b
  | ldD d a b => exact ldD d a b
  | stB d a b => exact stB d a b
  | stH d a b => exact stH d a b
  | stW d a b => exact stW d a b
  | stD d a b => exact stD d a b
  | pref a b => exact pref a b
  | zeroLine a b => exact zeroLine a b
  | gaddr d a => exact gaddr d a
  | space d a => exact space d a
  | alloc d a b => exact alloc d a b
  | freeMem a => exact freeMem a
  | allocZ d a b => exact allocZ d a b
  | atomAdd d a b => exact atomAdd d a b
  | atomAddSatN d a b => exact atomAddSatN d a b
  | atomFadd d a b => exact atomFadd d a b
  | atomXchg d a b => exact atomXchg d a b
  | atomMinI d a b => exact atomMinI d a b
  | atomMaxI d a b => exact atomMaxI d a b
  | atomMinN d a b => exact atomMinN d a b
  | atomMaxN d a b => exact atomMaxN d a b
  | atomAnd d a b => exact atomAnd d a b
  | atomOr d a b => exact atomOr d a b
  | atomXor d a b => exact atomXor d a b
  | atomCas d a b => exact atomCas d a b
  | fence pred succ scope => exact fence pred succ scope
  | barInit x idx => exact barInit x idx
  | barInitForce x idx => exact barInitForce x idx
  | barArr x y idx => exact barArr x y idx
  | barWait idx => exact barWait idx
  | barInv idx => exact barInv idx
  | barQ x idx => exact barQ x idx
  | sput d a => exact sput d a
  | sgetC d a => exact sgetC d a
  | sget d a => exact sget d a
  | sq d a => exact sq d a
  | flowRel => exact flowRel
  | flowSet a b => exact flowSet a b
  | flowQ d a => exact flowQ d a
  | enq x y => exact enq x y
  | enqW x y => exact enqW x y
  | cntSet x y => exact cntSet x y
  | cntAdd x y => exact cntAdd x y
  | cntDec x y => exact cntDec x y
  | cntQ x y => exact cntQ x y
  | heapIns x y => exact heapIns x y
  | heapRm x => exact heapRm x
  | admitHeap x y => exact admitHeap x y
  | rld d a b => exact rld d a b
  | rst d a b => exact rst d a b
  | ratom d a b => exact ratom d a b
  | mcst d a b => exact mcst d a b
  | tclaim x y => exact tclaim x y
  | trel x => exact trel x
  | tload x h => exact tload x h
  | mma x y zc nb na acc => exact mma x y zc nb na acc
  | mfence x => exact mfence x
  | mwait x => exact mwait x
  | accZero x => exact accZero x
  | accLd x y => exact accLd x y
  | accSt x y => exact accSt x y
  | accMv x y vi => exact accMv x y vi
  | tinfo x y => exact tinfo x y
  | fadd d a b => exact fadd d a b
  | fsub d a b => exact fsub d a b
  | fmul d a b => exact fmul d a b
  | ffma d a b => exact ffma d a b
  | fmin d a b => exact fmin d a b
  | fmax d a b => exact fmax d a b
  | fdiv d a b => exact fdiv d a b
  | fcpsgn d a b => exact fcpsgn d a b
  | frcp d a => exact frcp d a
  | frsq d a => exact frsq d a
  | fsqrt d a => exact fsqrt d a
  | fexp2 d a => exact fexp2 d a
  | flog2 d a => exact flog2 d a
  | fsin d a => exact fsin d a
  | fcos d a => exact fcos d a
  | ftanh d a => exact ftanh d a
  | fcmpEq d a b => exact fcmpEq d a b
  | fcmpLt d a b => exact fcmpLt d a b
  | fcmpLe d a b => exact fcmpLe d a b
  | fcmpUn d a b => exact fcmpUn d a b
  | cvtRn d a code => exact cvtRn d a code
  | cvtRz d a code => exact cvtRz d a code
  | cvtRd d a code => exact cvtRd d a code
  | cvtRu d a code => exact cvtRu d a code
  | qblk d a b => exact qblk d a b
  | dqblk d a => exact dqblk d a
  | qmx d a code => exact qmx d a code
  | shfl d a b => exact shfl d a b
  | shflX d a b => exact shflX d a b
  | shflUp d a b => exact shflUp d a b
  | shflDn d a b => exact shflDn d a b
  | voteAny d a => exact voteAny d a
  | voteAll d a => exact voteAll d a
  | ballot d a => exact ballot d a
  | voteEq d a => exact voteEq d a
  | redwAdd d a => exact redwAdd d a
  | redwFadd d a => exact redwFadd d a
  | redwFmax d a => exact redwFmax d a
  | redwFmin d a => exact redwFmin d a
  | topkIns d a b => exact topkIns d a b
  | topkClr d code => exact topkClr d code
  | symQ d a => exact symQ d a
  | symWait a => exact symWait a
  | symWall => exact symWall
  | cp x h => exact cp x h
  | cpSg x h => exact cpSg x h
  | cpStep x => exact cpStep x
  | hWait h => exact hWait h
  | hSet x y h => exact hSet x y h
  | hSetFree h => exact hSetFree h
  | hQ x h => exact hQ x h
  | pullReq x h => exact pullReq x h
  | grantCfg x y h => exact grantCfg x y h
  | xferQ x h => exact xferQ x h
  | smp x y h => exact smp x y h
  | smpQ x h => exact smpQ x h
  | trapInstr n => exact trapInstr n
  | sret => exact sret
  | ctlR d n => exact ctlR d n
  | ctlW d n => exact ctlW d n
  | devid d => exact devid d
  | fqhead d p => exact fqhead d p
  | fqbase d p => exact fqbase d p
  | tlbInv d k p => exact tlbInv d k p
  | faultPop d p => exact faultPop d p
  | faultPopW d p => exact faultPopW d p
  | faultDone d ans => exact faultDone d ans
  | teamPark d => exact teamPark d
  | teamWake d => exact teamWake d
  | ctxSave d k => exact ctxSave d k
  | ctxLoad d k => exact ctxLoad d k
  | halt => exact halt
  | dictionaryWord hi lo => exact dictionaryWord hi lo
  | _ =>
    intro _ w h
    cases h

/-- Settles O2: the word of an instruction decodes to it, and it makes up a group of its own. -/
theorem encodedInstructionsDecode : Obligations.EncodedInstructionsDecode := by
  unfold Obligations.EncodedInstructionsDecode
  exact fun i w hi hw => decodeTableWord_of_decodeWord (decodeWord_encode i hi w hw)

/-- Settles O1: each of the words is that of its instruction. -/
theorem wordsDecodeToTheirInstructions : Obligations.WordsDecodeToTheirInstructions := by
  unfold Obligations.WordsDecodeToTheirInstructions
  exact ⟨decodeWord_encode (.add (.v 5) (.v 6) (.v 7)) rfl _ rfl, decodeWord_encode (.addi (.v 5) (.v 6) (-1)) rfl _ rfl,
    decodeWord_encode (.br (.p 3) (-2)) rfl _ rfl, decodeWord_encode (.ldW (.v 16) (.w 2) (.v 3)) rfl _ rfl,
    decodeWord_encode (.trapInstr 5) rfl _ rfl⟩

end Sys2Proof
end

section

/-! Privilege and the guard (R174, R180, R368). -/

namespace Sys2Proof.Machine
open Sys2Proof

/-- An instruction of a major other than 0x3D, whose rules ask for no privilege. -/
theorem priv_iff_of_other_major {r : Rules} {w : BitVec 32} (hr : r.priv = false) (hw : w.extractLsb' 26 6 ≠ 0x3D#6) :
    r.priv = true ↔ w.extractLsb' 26 6 = 0x3D#6 ∧ w.extractLsb' 20 6 ≠ 0#6 :=
  iff_of_false (by simp [hr]) fun h => hw h.1

/-- An instruction of major 0x3D other than `trap`, whose rules ask for privilege. -/
theorem priv_iff_of_system_major {r : Rules} {o : BitVec 6} (d : BitVec 8) (n : BitVec 12) (hr : r.priv = true) (ho : o ≠ 0#6) :
    r.priv = true ↔ (packS 0x3D o d n).extractLsb' 26 6 = 0x3D#6 ∧ (packS 0x3D o d n).extractLsb' 20 6 ≠ 0#6 :=
  iff_of_true hr ⟨major_packS .., by rwa [show (packS 0x3D o d n).extractLsb' 20 6 = o from fSOP_packS ..]⟩

/-- Settles O22: of the rules of the table those of major 0x3D but `trap` ask for privilege, and no others do. -/
theorem privilegedInstructions : Obligations.PrivilegedInstructions := by
  unfold Obligations.PrivilegedInstructions
  intro i r w hw hr
  cases i with
  | sret | ctlR | ctlW | devid | fqhead | fqbase | tlbInv | faultPop | faultPopW | faultDone | teamPark | teamWake | ctxSave | ctxLoad | halt =>
    cases hw
    cases hr
    exact priv_iff_of_system_major _ _ rfl (by decide)
  | trapInstr n =>
    cases hw
    cases hr
    exact iff_of_false (by simp) fun h => h.2 (fSOP_packS ..)
  | _ => cases hw <;> cases hr <;> exact priv_iff_of_other_major rfl (by simp)

/-- Checks that pass, and a guard that no lane passes and that is not awaited, leave nothing to do (R180, R186). -/
theorem judge_guarded_off {r : Rules} {body : Ctx → Did} {cx : Ctx} (hi : cx.illegal r = false) (hp : (r.priv && !cx.sys) = false)
    (ho : r.ok cx = true) (hw : cx.p15Pending = false ∨ ∀ b p, cx.h.guard = some (b, p) → p ≠ 15) (hg : cx.guarded = 0) :
    cx.judge r body = .done cx.s 0 := by
  cases hq : cx.h.guard with
  | none => simp [Ctx.judge, hi, hp, ho, hq, Ctx.live, hg]
  | some g =>
    have hwait : (cx.p15Pending && g.2.val == 15) = false := by
      rcases hw with hw | hw
      · rw [hw, Bool.false_and]
      · have hne : g.2.val ≠ 15 := fun h => hw g.1 g.2 hq (Fin.ext h)
        rw [beq_false_of_ne hne, Bool.and_false]
    simp [Ctx.judge, hi, hp, ho, hq, hwait, Ctx.live, hg]

/-- Settles O24: with no lane left by the guard the frame of an instruction is done before it comes to the body. -/
theorem guardedOffInstructionsDoNothing : Obligations.GuardedOffInstructionsDoNothing := by
  unfold Obligations.GuardedOffInstructionsDoNothing
  intro i r s cx hc hr hi hpriv ho hw hg
  obtain ⟨body, he⟩ := exec_performs hr
  have hp : (r.priv && !cx.sys) = false := by
    cases h : r.priv with
    | false => rfl
    | true => simp [hpriv h]
  have hpasses : r.passes cx.live = cx.live.passesOf i := by simp only [Ctx.passesOf, hr]
  simp only [he, perform, hc, judge_guarded_off hi hp ho hw hg, hpasses, (ctx_some hc).2.1, Ctx.finish]

end Sys2Proof.Machine

end

section

/-! Every step answers a next state (R185, R353, R354, log entries 1 and 11). -/

namespace Sys2Proof.Machine
open Sys2Proof

/-- A meaning goes on to a next state. -/
def Answers (o : Host.Outcome State Fault Refusal) : Prop := ∃ t, o = .next t

/-- What has no word, or no rules, is an event, and has a next state in every state: one that cannot happen does nothing. -/
theorem event_answers {i : Instr} (h : encode i = none ∨ rulesOf i = none) (s : State) : Answers (exec i s) := by
  cases i with
  | powerOn | romVerify | firmwareDownload | downloadRetry | resetPin | powerRemoved | thermalWarning | thermalTrip | attestationQuote
  | managementRead | energyWindow | teamFormation | orderedRelease | cutIn | cutInAnswer | teamStarvation | splinterStarvation
  | heldLanesRetry | joinFallback | symbolResolution | faultRecordRetry | trapEntry | uncorrectableError | softError | copyCompletion
  | tensorOperationCompletion | pullAnnouncement | callerGrant | pullToken | pullBeat | pullNotice | tokenExpiry | orphan | abandon
  | callerSave | samplerJobStart | samplerJobCompletion | peerRequest | readResponse | ack | nack | peerTimeout | multicastWrite
  | multicastAck | multicastTimeout | linkControl | linkDown | linkTraining | transitFlit => exact ⟨_, rfl⟩
  | _ => rcases h with h | h <;> cases h

/-- With a team at issue every instruction has a next state, and so has every event. -/
theorem exec_answers {i : Instr} {s : State} {cx : Ctx} (h : s.ctx? = some cx) : Answers (exec i s) := by
  cases hr : rulesOf i with
  | none => exact event_answers (.inr hr) s
  | some r =>
    obtain ⟨body, he⟩ := exec_performs hr
    rw [he]
    exact (perform_answers r body s).resolve_left fun hn => by simp [h] at hn

theorem mayHappen_answers {i : Instr} {s : State} (h : s.mayHappen i = true) : Answers (exec i s) := by
  simp only [State.mayHappen, Bool.and_eq_true, Option.isNone_iff_eq_none] at h
  exact event_answers (.inl h.1.1) s

/-- What issue has put at issue of a team and a splinter of it gives a context. -/
theorem ctx_of_issued {s u : State} {c q t n : Nat} {x : Team} {p : Splinter} (hx : s.team? c t = some x) (hp : x.splinterAt n = some p)
    (hu : u.cores = (s.issued c t q).cores) (hv : u.cur.valid = true) (hc : u.cur.core = c) (ht : u.cur.slot = t) (hn : u.cur.spl = n) :
    ∃ cx, u.ctx? = some cx := by
  have hteam := (team?_congr hu c t).trans (team?_issued q hx)
  have hspl : ({ x with due := false, lastIssue := s.clock } : Team).splinterAt n = some p := hp
  simp only [State.ctx?, hv, hc, ht, hn, hteam, hspl, Bool.not_true, Bool.false_eq_true, if_false]
  exact ⟨_, rfl⟩

/-- A try that runs an instruction has put it at issue. -/
theorem try_ctx {s u : State} {c q t n : Nat} {i : Instr} (h : s.try_ c q t n = .run i u) : ∃ cx, u.ctx? = some cx := by
  cases hx : s.team? c t with
  | none => simp [State.try_, hx] at h
  | some x =>
    cases hp : x.splinterAt n with
    | none => simp [State.try_, hx, hp] at h
    | some p =>
      simp only [State.try_, hx, hp] at h
      split at h
      · split at h
        · cases h
          exact ctx_of_issued (q := q) hx hp rfl rfl rfl rfl rfl
        · cases h
      · split at h
        next len _ _ =>
          cases h
          have hfill := (team?_congr (State.fillFetch_cores s (x.who c x.inSys) (lowLane p.mask) p.pc.toNat len) c t).trans hx
          exact ctx_of_issued (q := q) hfill hp rfl rfl rfl rfl rfl
        · cases h
        · cases h

theorem tryCandidates_answers (c q : Nat) (cs : List Candidate) : ∀ s waited, Answers (tryCandidates s c q waited cs) := by
  induction cs with
  | nil => exact fun s _ => ⟨s, rfl⟩
  | cons x cs ih =>
    intro s waited
    cases x with
    | condition t => exact ⟨_, rfl⟩
    | splinter t n =>
      dsimp only [tryCandidates]
      split
      · exact ih ..
      split
      · exact ⟨_, rfl⟩
      next i u ht =>
        obtain ⟨cx, hcx⟩ := try_ctx ht
        obtain ⟨v, hv⟩ := exec_answers (i := i) hcx
        rw [hv]
        dsimp only
        split
        · exact ih ..
        · exact ⟨_, rfl⟩

theorem arriveSelf_answers (s : State) : Answers s.arriveSelf := by
  unfold State.arriveSelf
  split
  · exact ⟨s, rfl⟩
  dsimp only
  split
  · exact ⟨_, rfl⟩
  · exact ⟨_, rfl⟩
  · exact ⟨_, rfl⟩
  · split
    · exact ⟨_, rfl⟩
    · exact ⟨_, rfl⟩
  · exact ⟨_, rfl⟩

theorem turn_answers (s : State) (x : Turn) : Answers (turn s x) := by
  cases x with
  | issue c q =>
    dsimp only [turn]
    split
    · exact tryCandidates_answers ..
    · exact ⟨s, rfl⟩
  | event i =>
    dsimp only [turn]
    split
    next h => exact mayHappen_answers h
    · exact ⟨s, rfl⟩
  | arrive => exact arriveSelf_answers s
  | tick n => exact ⟨_, rfl⟩

theorem nextTurn_answers (s : State) : Answers s.nextTurn := by
  unfold State.nextTurn
  split
  · split
    · exact ⟨_, rfl⟩
    · split
      · exact ⟨_, rfl⟩
      · exact turn_answers ..
  · exact turn_answers ..

/-- Settles O5: what runs as an instruction stands at issue with its team, and events and the passage of time go on from every state. -/
theorem everyStepAnswersANextState : Obligations.EveryStepAnswersANextState := by
  unfold Obligations.EveryStepAnswersANextState
  intro s
  obtain ⟨t, ht⟩ := nextTurn_answers s
  exact ⟨t.repay, by rw [step, ht]; rfl⟩

end Sys2Proof.Machine

end

section

/-! The integer operations as formulas, and as conditions on bits (R192-R196). -/

namespace Sys2Proof.Machine
open Sys2Proof

/-! Products, quotients and remainders (R192, R193). -/

@[simp] theorem ofInt_toNat {w : Nat} (x : BitVec w) : BitVec.ofInt w x.toNat = x := by
  rw [BitVec.ofInt_natCast, BitVec.ofNat_toNat, BitVec.setWidth_eq]

theorem toNat_eq_zero_iff {w : Nat} {x : BitVec w} : x.toNat = 0 ↔ x = 0 := by
  rw [← BitVec.toNat_inj, BitVec.ofNat_eq_ofNat, BitVec.toNat_zero]

theorem widthOf_pos (wide : Bool) : 0 < widthOf wide := by cases wide <;> decide

theorem toInt_eq_zero_iff {w : Nat} {x : BitVec w} : x.toInt = 0 ↔ x = 0 := by
  rw [← BitVec.toInt_inj, BitVec.ofNat_eq_ofNat, BitVec.toInt_zero]

theorem allOnes_eq_ofInt (w : Nat) : BitVec.allOnes w = BitVec.ofInt w (2 ^ w - 1) := by
  have h : ((2 ^ w - 1 : Nat) : Int) = 2 ^ w - 1 := by push_cast [Nat.one_le_two_pow]; rfl
  rw [← h, BitVec.ofInt_natCast]
  apply BitVec.eq_of_toNat_eq
  simp

/-- The one quotient that its width does not hold is the dividend again, modulo 2^w (R193). -/
theorem ofInt_tdiv_overflow {w : Nat} (hw : 0 < w) : BitVec.ofInt w ((-2 ^ (w - 1) : Int).tdiv (-1)) = BitVec.ofInt w (-2 ^ (w - 1)) := by
  have hsum : (2 ^ (w - 1) : Int) + 2 ^ (w - 1) = (2 ^ w : Nat) := by
    obtain ⟨n, rfl⟩ : ∃ n, w = n + 1 := ⟨w - 1, by omega⟩
    simp only [Nat.add_sub_cancel]
    push_cast
    ring
  have hzero : BitVec.ofInt w (2 ^ (w - 1)) + BitVec.ofInt w (2 ^ (w - 1)) = 0 := by
    rw [← BitVec.ofInt_add, hsum, BitVec.ofInt_natCast]
    exact BitVec.eq_of_toNat_eq ((BitVec.toNat_ofNat _ _).trans (Nat.mod_self _))
  rw [Int.tdiv_neg, Int.tdiv_one, neg_neg, BitVec.ofInt_neg]
  exact eq_neg_of_add_eq_zero_left hzero

theorem divSigned_eq (wide : Bool) (x y : W64) : divSigned (widthOf wide) (x.setWidth _) (y.setWidth _) =
    (if sintOf wide y = 0 then BitVec.ofInt 64 (2 ^ widthOf wide - 1)
      else if sintOf wide x = -2 ^ (widthOf wide - 1) ∧ sintOf wide y = -1 then BitVec.ofInt 64 (sintOf wide x)
      else BitVec.ofInt 64 ((sintOf wide x).tdiv (sintOf wide y))).setWidth _ := by
  simp only [apply_ite (BitVec.setWidth _), setWidth_ofInt (widthOf_le wide), sintOf_eq, divSigned, toInt_eq_zero_iff, allOnes_eq_ofInt]
  split_ifs with h0 ho
  · rfl
  · rw [ho.1, ho.2, ofInt_tdiv_overflow (widthOf_pos wide)]
  · rfl

theorem divUnsigned_eq (wide : Bool) (x y : W64) : divUnsigned (widthOf wide) (x.setWidth _) (y.setWidth _) =
    (if (uintOf wide y : Int) = 0 then BitVec.ofInt 64 (2 ^ widthOf wide - 1)
      else BitVec.ofInt 64 ((uintOf wide x : Int) / uintOf wide y)).setWidth _ := by
  simp only [apply_ite (BitVec.setWidth _), setWidth_ofInt (widthOf_le wide), uintOf_eq, divUnsigned, Nat.cast_eq_zero,
    toNat_eq_zero_iff, allOnes_eq_ofInt]
  rw [← BitVec.ofInt_natCast, Int.natCast_ediv]

theorem remSigned_eq (wide : Bool) (x y : W64) : remSigned (widthOf wide) (x.setWidth _) (y.setWidth _) =
    (if sintOf wide y = 0 then BitVec.ofInt 64 (sintOf wide x)
      else if sintOf wide x = -2 ^ (widthOf wide - 1) ∧ sintOf wide y = -1 then 0
      else BitVec.ofInt 64 (sintOf wide x - sintOf wide y * (sintOf wide x).tdiv (sintOf wide y))).setWidth _ := by
  simp only [apply_ite (BitVec.setWidth _), setWidth_ofInt (widthOf_le wide), sintOf_eq, remSigned, toInt_eq_zero_iff, BitVec.ofInt_toInt,
    ← Int.tmod_def]
  split_ifs with h0 ho
  · rfl
  · rw [ho.2, Int.tmod_neg, Int.tmod_one]
    simp
  · rfl

theorem remUnsigned_eq (wide : Bool) (x y : W64) : remUnsigned (widthOf wide) (x.setWidth _) (y.setWidth _) =
    (if (uintOf wide y : Int) = 0 then BitVec.ofInt 64 (uintOf wide x)
      else BitVec.ofInt 64 ((uintOf wide x : Int) - uintOf wide y * ((uintOf wide x : Int) / uintOf wide y))).setWidth _ := by
  simp only [apply_ite (BitVec.setWidth _), setWidth_ofInt (widthOf_le wide), uintOf_eq, remUnsigned, Nat.cast_eq_zero,
    toNat_eq_zero_iff, ofInt_toNat, ← Int.emod_def, ← Int.natCast_emod]
  rw [BitVec.ofInt_natCast]

theorem mulhiSigned_eq {w : Nat} (x y : BitVec w) : mulhiSigned w x y = BitVec.ofInt w (x.toInt * y.toInt / 2 ^ w) := by
  rw [mulhiSigned, Nat.cast_pow, Nat.cast_ofNat]

theorem mulhiUnsigned_eq {w : Nat} (x y : BitVec w) : mulhiUnsigned w x y = BitVec.ofInt w (x.toNat * y.toNat / 2 ^ w) := by
  rw [mulhiUnsigned, ← BitVec.ofInt_natCast]
  push_cast
  rfl

theorem mul_eq_ofInt {w : Nat} (x y : BitVec w) : x * y = BitVec.ofInt w (x.toNat * y.toNat) := by
  rw [BitVec.ofInt_mul, ofInt_toNat, ofInt_toNat]

/-! Shifts (R195). -/

theorem shiftLeft_eq_ofNat {w : Nat} (x : BitVec w) (n : Nat) : x <<< n = BitVec.ofNat w (x.toNat * 2 ^ n) := by
  apply BitVec.eq_of_toNat_eq
  rw [BitVec.toNat_shiftLeft, Nat.shiftLeft_eq, BitVec.toNat_ofNat]

theorem ushiftRight_eq_ofNat {w : Nat} (x : BitVec w) (n : Nat) : x >>> n = BitVec.ofNat w (x.toNat / 2 ^ n) := by
  apply BitVec.eq_of_toNat_eq
  rw [BitVec.toNat_ushiftRight, Nat.shiftRight_eq_div_pow, BitVec.toNat_ofNat,
    Nat.mod_eq_of_lt (Nat.lt_of_le_of_lt (Nat.div_le_self _ _) x.isLt)]

theorem sshiftRight_eq_ofInt {w : Nat} (x : BitVec w) (n : Nat) : x.sshiftRight n = BitVec.ofInt w (x.toInt / 2 ^ n) := by
  rw [BitVec.sshiftRight, Int.shiftRight_eq_div_pow, Nat.cast_pow, Nat.cast_ofNat]

theorem rotateLeft_eq {w : Nat} (x y : BitVec w) : x.rotateLeft (y.toNat % w) =
    BitVec.ofNat w (x.toNat * 2 ^ (y.toNat % w)) ||| BitVec.ofNat w (x.toNat / 2 ^ ((w - y.toNat % w) % w)) := by
  rw [← rotL_eq, rotL, shiftLeft_eq_ofNat, ushiftRight_eq_ofNat]
  rfl

/-! Minima and maxima (R194). -/

theorem minSigned_ofInt {w : Nat} (x y : BitVec w) : (if x.sle y then x else y) = BitVec.ofInt w (min x.toInt y.toInt) := by
  simp only [BitVec.sle_eq_decide, decide_eq_true_eq, min_def, apply_ite (BitVec.ofInt w), BitVec.ofInt_toInt]

theorem maxSigned_ofInt {w : Nat} (x y : BitVec w) : (if x.sle y then y else x) = BitVec.ofInt w (max x.toInt y.toInt) := by
  simp only [BitVec.sle_eq_decide, decide_eq_true_eq, max_def, apply_ite (BitVec.ofInt w), BitVec.ofInt_toInt]

theorem minUnsigned_ofInt {w : Nat} (x y : BitVec w) : (if x.ule y then x else y) = BitVec.ofInt w (min x.toNat y.toNat) := by
  simp only [BitVec.ule_eq_decide, decide_eq_true_eq, min_def, Nat.cast_le, apply_ite (BitVec.ofInt w), ofInt_toNat]

theorem maxUnsigned_ofInt {w : Nat} (x y : BitVec w) : (if x.ule y then y else x) = BitVec.ofInt w (max x.toNat y.toNat) := by
  simp only [BitVec.ule_eq_decide, decide_eq_true_eq, max_def, Nat.cast_le, apply_ite (BitVec.ofInt w), ofInt_toNat]

/-! Bit counts (R196). -/

/-- The bit below a leading zero count is one, and those above it are zero (R196). -/
theorem clzNat_spec {w v : Nat} (h0 : v ≠ 0) (hw : v < 2 ^ w) :
    clzNat w v < w ∧ v.testBit (w - 1 - clzNat w v) = true ∧ ∀ i, w - 1 - clzNat w v < i → v.testBit i = false := by
  have hlog : v.log2 < w := (Nat.log2_lt h0).2 hw
  have hsub : w - 1 - clzNat w v = v.log2 := by rw [clzNat, if_neg h0]; omega
  rw [hsub]
  refine ⟨by rw [clzNat, if_neg h0]; omega, Nat.testBit_log2 h0, fun i hi => Nat.testBit_lt_two_pow ?_⟩
  exact Nat.lt_of_lt_of_le Nat.lt_log2_self (Nat.pow_le_pow_right (by omega) hi)

theorem popNat_eq (n v : Nat) : popNat n v = ((List.range n).filter fun i => v.testBit i).length := by
  induction n generalizing v with
  | zero => rfl
  | succ n ih =>
    have hs : (fun i => v.testBit i) ∘ Nat.succ = fun i => (v / 2).testBit i := funext fun i => Nat.testBit_succ v i
    rw [popNat, ih, List.range_succ_eq_map, List.filter_cons, List.filter_map, hs, Nat.testBit_zero]
    rcases Nat.mod_two_eq_zero_or_one v with h | h <;> simp [h, Nat.add_comm]

theorem testBit_reverseBits (n v r i : Nat) :
    (reverseBits n v r).testBit i = if i < n then v.testBit (n - 1 - i) else r.testBit (i - n) := by
  induction n generalizing v r with
  | zero => simp [reverseBits]
  | succ n ih =>
    rw [reverseBits, ih]
    rcases Nat.lt_trichotomy i n with h | rfl | h
    · rw [if_pos h, if_pos (by omega), ← Nat.testBit_succ]
      congr 1; omega
    · simp [Nat.testBit_zero]
    · rw [if_neg (by omega), if_neg (by omega), show i - n = (i - (n + 1)) + 1 by omega, Nat.testBit_succ]
      congr 1; omega

theorem ffsNat_none {n i v : Nat} (h : ffsNat n i v = none) : ∀ j, j < n → v.testBit j = false := by
  induction n generalizing i v with
  | zero => intro j hj; omega
  | succ n ih =>
    rw [ffsNat] at h
    split at h
    · cases h
    next hv =>
      intro j hj
      cases j with
      | zero => simpa [Nat.testBit_zero] using hv
      | succ j => rw [Nat.testBit_succ]; exact ih h j (by omega)

theorem ffsNat_some {n i v k : Nat} (h : ffsNat n i v = some k) :
    ∃ j, j < n ∧ k = i + j ∧ v.testBit j = true ∧ ∀ m, m < j → v.testBit m = false := by
  induction n generalizing i v with
  | zero => cases h
  | succ n ih =>
    rw [ffsNat] at h
    split at h
    next hv =>
      cases h
      exact ⟨0, by omega, rfl, by simpa [Nat.testBit_zero] using hv, fun m hm => by omega⟩
    next hv =>
      obtain ⟨j, hj, rfl, hb, hlow⟩ := ih h
      refine ⟨j + 1, by omega, by omega, by rwa [Nat.testBit_succ], fun m hm => ?_⟩
      cases m with
      | zero => simpa [Nat.testBit_zero] using hv
      | succ m => rw [Nat.testBit_succ]; exact hlow m (by omega)

theorem setWidth64_ofNat {n k : Nat} (hk : k < 2 ^ n) : (BitVec.ofNat n k).setWidth 64 = BitVec.ofNat 64 k := by
  apply BitVec.eq_of_toNat_eq
  simp [Nat.mod_eq_of_lt hk]

end Sys2Proof.Machine

end

section

/-! Integer and predicate instructions whose operands are clear (R188, R191-R204, R225). -/

namespace Sys2Proof.Machine
open Sys2Proof

theorem resultOf_integer {cx : Ctx} {i : Instr} {r : Result} (h : integerResult cx i = some r) : resultOf cx i = some r := by
  rw [resultOf, h]; rfl

/-- Settles O9: what the table gives to an integer instruction is its result, and a computing instruction whose result is clear is done
with it. -/
theorem integerInstructionsComplete : Obligations.IntegerInstructionsComplete := by
  unfold Obligations.IntegerInstructionsComplete
  intro i s cx r h hr hc
  exact exec_result h (resultOf_integer hr) hc

/-! The width of an instruction (R188). -/

theorem lift1_eq (f : (w : Nat) → BitVec w → BitVec w) (wide : Bool) (x : W64) :
    lift1 f wide x = (f (widthOf wide) (x.setWidth (widthOf wide))).setWidth 64 := by
  cases wide <;> simp [lift1, widthOf]

/-- The amount of a shift is the same at either width of S2 (R195). -/
theorem uintOf_mod_widthOf (wide : Bool) (v : W64) : uintOf wide v % widthOf wide = v.toNat % widthOf wide := by
  cases wide with
  | true => rfl
  | false => simp only [uintOf, widthOf, Bool.false_eq_true, if_false]; omega

theorem setWidth_shiftLeft {n : Nat} (hn : n ≤ 64) (x : W64) (k : Nat) : (x <<< k).setWidth n = x.setWidth n <<< k := by
  rw [BitVec.shiftLeft_eq_mul_twoPow, BitVec.setWidth_mul _ _ hn, BitVec.shiftLeft_eq_mul_twoPow]
  congr 1
  apply BitVec.eq_of_toNat_eq
  rw [BitVec.toNat_setWidth, BitVec.toNat_twoPow, BitVec.toNat_twoPow, Nat.mod_mod_of_dvd _ (pow_dvd_pow 2 hn)]

/-- A destination takes of a value what the width of the operands lets through: a uniform register is written only where all of them are
uniform (R52, R188). -/
theorem write_congr_operands {cx cy : Ctx} {d : Operand} {os : List Operand} {f g : Nat → W64} (hd : cy.dstVU d = true)
    (hos : ∀ o ∈ os, cy.isVU o = true) (hmix : noMix d os = true)
    (hfg : ∀ l, (f l).setWidth (widthOf (wideOps (d :: os))) = (g l).setWidth (widthOf (wideOps (d :: os)))) (t : State)
    (o : Nat → Option Origin) : cx.write t d f o = cx.write t d g o := by
  cases d with
  | v n => exact Ctx.write_v_congr hfg t n o
  | w n =>
    have hv : ∀ o ∈ os, vectorOp o = false := by simpa [noMix] using hmix
    have hwide : wideOps (.w n :: os) = true := List.all_eq_true.2 fun o ho => by
      rcases List.mem_cons.1 ho with rfl | ho
      · rfl
      · exact isVU_uniform (hos o ho) (hv o ho)
    rw [hwide] at hfg
    rw [show f = g from funext fun l => by simpa [widthOf] using hfg l]
  | zero => rfl
  | _ => cases hd

/-! Instructions that use their operands in a blocking way and set no flag. -/

theorem blocking_completes {s : State} {cx : Ctx} {i : Instr} {d : Operand} {os : List Operand} {v g : Nat → W64} (h : Clear s i cx d os)
    (hr : resultOf cx i = some { d := d, srcs := os, val := v })
    (hput : cx.write cx.s d v noOrigin = cx.write cx.s d g noOrigin) : Completes s i cx d g 0 := by
  obtain ⟨hready, hplain, hfree⟩ := h
  have hregs : cx.plain (os.flatMap fun o => [o]) = true := (congrArg cx.plain (List.flatMap_singleton' os)).trans hplain
  exact completes_of_result hready hr (Result.clear_iff.2 ⟨hfree, hregs, nofun⟩) hput rfl

/-- One source: what is written is the operation at the width of the operands. -/
theorem unary_completes {s : State} {cx : Ctx} {i : Instr} {d a : Operand} {f : (w : Nat) → BitVec w → BitVec w} {g : Nat → W64}
    (h : Clear s i cx d [a]) (hr : resultOf cx i = cx.one f d a)
    (hf : ∀ l, (f (widthOf (wideOps [d, a])) ((cx.val a l).setWidth _)).setWidth 64 = g l) : Completes s i cx d g 0 :=
  blocking_completes h hr (congrArg (cx.write cx.s d · noOrigin) (funext fun l => (lift1_eq f _ _).trans (hf l)))

/-- Two sources: what is written is right at the width of the operands. -/
theorem binary_completes {s : State} {cx : Ctx} {i : Instr} {d a b : Operand} {f : (w : Nat) → BitVec w → BitVec w → BitVec w}
    {g : Nat → W64} (h : Clear s i cx d [a, b]) (hi : rulesOf i = some (rules3 d a b)) (hr : resultOf cx i = cx.two f d a b)
    (hf : ∀ l, f (widthOf (wideOps [d, a, b])) ((cx.val a l).setWidth _) ((cx.val b l).setWidth _) = (g l).setWidth _) :
    Completes s i cx d g 0 :=
  blocking_completes h hr (write_congr_width h.ready hi (fun l => (setWidth_lift2 f _ _ _).trans (hf l)) _ _)

/-- Two sources, read as signed integers at the width of the operands. -/
theorem signed_completes {s : State} {cx : Ctx} {i : Instr} {d a b : Operand} {f : (w : Nat) → BitVec w → BitVec w → BitVec w}
    (v : Nat → Int → Int → Int) (h : Clear s i cx d [a, b]) (hi : rulesOf i = some (rules3 d a b)) (hr : resultOf cx i = cx.two f d a b)
    (hf : ∀ {w} (x y : BitVec w), f w x y = BitVec.ofInt w (v w x.toInt y.toInt)) :
    Completes s i cx d (fun l => BitVec.ofInt 64 (v (widthOf (wideOps [d, a, b])) (sintOf (wideOps [d, a, b]) (cx.val a l))
      (sintOf (wideOps [d, a, b]) (cx.val b l)))) 0 :=
  binary_completes h hi hr fun l => by rw [setWidth_ofInt (widthOf_le _), sintOf_eq, sintOf_eq]; exact hf _ _

/-- Two sources, read as unsigned integers at the width of the operands. -/
theorem unsigned_completes {s : State} {cx : Ctx} {i : Instr} {d a b : Operand} {f : (w : Nat) → BitVec w → BitVec w → BitVec w}
    (v : Nat → Int → Int → Int) (h : Clear s i cx d [a, b]) (hi : rulesOf i = some (rules3 d a b)) (hr : resultOf cx i = cx.two f d a b)
    (hf : ∀ {w} (x y : BitVec w), f w x y = BitVec.ofInt w (v w x.toNat y.toNat)) :
    Completes s i cx d (fun l => BitVec.ofInt 64 (v (widthOf (wideOps [d, a, b])) (uintOf (wideOps [d, a, b]) (cx.val a l))
      (uintOf (wideOps [d, a, b]) (cx.val b l)))) 0 :=
  binary_completes h hi hr fun l => by rw [setWidth_ofInt (widthOf_le _), uintOf_eq, uintOf_eq]; exact hf _ _

/-- A product or a shift by a uniform factor: the poison that passes is none (R70), whichever source is the factor. -/
theorem scaling_completes {s : State} {cx : Ctx} {i : Instr} {d a b x y : Operand} {f : W64 → W64 → W64} {g : Nat → W64}
    (h : Clear s i cx d [a, b]) (hi : rulesOf i = some (rules3 d a b)) (hx : x ∈ [a, b]) (hy : y ∈ [a, b])
    (hr : resultOf cx i = cx.passing f d x y)
    (hfg : ∀ l, (f (cx.val x l) (cx.val y l)).setWidth (widthOf (wideOps [d, a, b])) = (g l).setWidth _) : Completes s i cx d g 0 := by
  obtain ⟨hready, hplain, hfree⟩ := h
  obtain ⟨-, -, -, -, hact⟩ := ready_team hready
  have hpois (l : Nat) (hl : cx.act.getLsbD l = true) : joinOrigin ((cx.read x).pois l) ((cx.read y).pois l) = noOrigin l := by
    rw [plain_pois hplain hx hl, plain_pois hplain hy hl]; rfl
  have hknown : ∀ o ∈ [x, y], cx.symbolic o = false := by
    simpa using ⟨plain_symbolic hplain hx, plain_symbolic hplain hy⟩
  refine completes_of_result hready hr (Result.clear_iff.2 ⟨hfree, plain_nil cx, hknown⟩) ?_ rfl
  exact (Ctx.write_congr_pois hpois hact _ _ _).trans (write_congr_width hready hi hfg _ _)

/-! Products (R192). -/

theorem setWidth_mul_uintOf {wide : Bool} (x y : W64) :
    (x * y).setWidth (widthOf wide) = (BitVec.ofInt 64 ((uintOf wide x : Int) * uintOf wide y)).setWidth (widthOf wide) := by
  rw [setWidth_ofInt (widthOf_le wide), BitVec.setWidth_mul _ _ (widthOf_le wide), uintOf_eq, uintOf_eq]
  exact mul_eq_ofInt _ _

theorem mul_completes {s : State} {cx : Ctx} {d a b : Operand} (h : Clear s (.mul d a b) cx d [a, b]) :
    Completes s (.mul d a b) cx d (fun l => BitVec.ofInt 64
      ((uintOf (wideOps [d, a, b]) (cx.val a l) : Int) * uintOf (wideOps [d, a, b]) (cx.val b l))) 0 := by
  by_cases hb : cx.fixed b = true
  · exact scaling_completes h rfl (x := a) (y := b) (by simp) (by simp) (resultOf_integer (if_pos hb)) fun l => setWidth_mul_uintOf _ _
  · by_cases ha : cx.fixed a = true
    · refine scaling_completes h rfl (x := b) (y := a) (by simp) (by simp) (resultOf_integer ((if_neg hb).trans (if_pos ha))) fun l => ?_
      exact (congrArg _ (mul_comm _ _)).trans (setWidth_mul_uintOf _ _)
    · exact unsigned_completes (fun _ x y => x * y) h rfl (resultOf_integer ((if_neg hb).trans (if_neg ha))) mul_eq_ofInt

theorem mad_completes {s : State} {cx : Ctx} {d a b : Operand} (h : Clear s (.mad d a b) cx d [a, b, cx.mods.s3]) :
    Completes s (.mad d a b) cx d
      (fun l => BitVec.ofInt 64 ((cx.val a l).toNat * (cx.val b l).toNat + (cx.val cx.mods.s3 l).toNat)) 0 := by
  obtain ⟨cy, hcy, hok⟩ := ready_ok h.ready rfl
  simp only [rules4, Bool.and_eq_true] at hok
  obtain ⟨⟨⟨⟨hd, ha⟩, hb⟩, hc⟩, hmix⟩ := hok
  have hmods : cx.mods = cy.mods := by rw [hcy]; rfl
  refine blocking_completes h rfl (write_congr_operands (os := [a, b, cx.mods.s3]) hd ?_ (hmods ▸ hmix) (fun l => ?_) _ _)
  · simpa [hmods] using ⟨ha, hb, hc⟩
  · rw [lift1_eq, BitVec.setWidth_setWidth_of_le _ (widthOf_le _), BitVec.setWidth_eq, BitVec.ofInt_add, BitVec.ofInt_mul]
    simp only [ofInt_toNat]

/-- Settles O36: each product is an integer formula at the width of its operands, which is all that its destination takes (R188). -/
theorem products : Obligations.Products := by
  unfold Obligations.Products
  intro s cx d a b w S U
  refine ⟨mul_completes, fun h => ?_, fun h => ?_, mad_completes⟩
  · exact signed_completes (fun w x y => x * y / 2 ^ w) h rfl rfl mulhiSigned_eq
  · exact unsigned_completes (fun w x y => x * y / 2 ^ w) h rfl rfl mulhiUnsigned_eq

/-! Quotients and remainders (R193). -/

/-- Settles O37: each case of the corner cases is one of the operation's own, at the width of the operands. -/
theorem divisionsAndRemainders : Obligations.DivisionsAndRemainders := by
  unfold Obligations.DivisionsAndRemainders
  intro s cx d a b w S U
  refine ⟨fun h => ?_, fun h => ?_, fun h => ?_, fun h => ?_⟩
  · exact binary_completes h rfl rfl fun l => divSigned_eq w _ _
  · exact binary_completes h rfl rfl fun l => divUnsigned_eq w _ _
  · exact binary_completes h rfl rfl fun l => remSigned_eq w _ _
  · exact binary_completes h rfl rfl fun l => remUnsigned_eq w _ _

/-! Bitwise operations, minima and maxima (R194). -/

/-- Settles O38: the bitwise operations act on every bit alike, so on those of the width, and an extreme is that of the integers. -/
theorem bitwiseAndExtremes : Obligations.BitwiseAndExtremes := by
  unfold Obligations.BitwiseAndExtremes
  intro s cx d a b w S U
  refine ⟨fun h => ?_, fun h => ?_, fun h => ?_, fun h => ?_, fun h => ?_, fun h => ?_, fun h => ?_, fun h => ?_⟩
  · exact binary_completes h rfl rfl fun l => BitVec.setWidth_and.symm
  · exact binary_completes h rfl rfl fun l => BitVec.setWidth_or.symm
  · exact binary_completes h rfl rfl fun l => BitVec.setWidth_xor.symm
  · exact binary_completes h rfl rfl fun l => by rw [BitVec.setWidth_and, BitVec.setWidth_not (widthOf_le _)]
  · exact signed_completes (fun _ x y => min x y) h rfl rfl minSigned_ofInt
  · exact signed_completes (fun _ x y => max x y) h rfl rfl maxSigned_ofInt
  · exact unsigned_completes (fun _ x y => min x y) h rfl rfl minUnsigned_ofInt
  · exact unsigned_completes (fun _ x y => max x y) h rfl rfl maxUnsigned_ofInt

/-! Shifts and rotation (R195). -/

theorem shl_completes {s : State} {cx : Ctx} {d a b : Operand} (h : Clear s (.shl d a b) cx d [a, b]) :
    Completes s (.shl d a b) cx d (fun l => BitVec.ofNat 64 (uintOf (wideOps [d, a, b]) (cx.val a l) *
      2 ^ (uintOf (wideOps [d, a, b]) (cx.val b l) % widthOf (wideOps [d, a, b])))) 0 := by
  by_cases hb : cx.fixed b = true
  · refine scaling_completes (f := fun x _ => x <<< ((cx.val b 0).toNat % widthOf (wideOps [d, a, b]))) h rfl (x := a) (y := b)
      (by simp) (by simp) (resultOf_integer (if_pos hb)) fun l => ?_
    have hu : uniformOp b = true := (Bool.and_eq_true_iff.1 hb).1
    rw [uintOf_mod_widthOf, val_uniform cx hu l 0, setWidth_shiftLeft (widthOf_le _), BitVec.setWidth_ofNat_of_le (widthOf_le _),
      uintOf_eq]
    exact shiftLeft_eq_ofNat _ _
  · refine binary_completes h rfl (resultOf_integer (if_neg hb)) fun l => ?_
    rw [BitVec.setWidth_ofNat_of_le (widthOf_le _), uintOf_eq, uintOf_eq]
    exact shiftLeft_eq_ofNat _ _

/-- Settles O39: each shift is a product or a quotient by a power of two at the width of the operands; a rotation is two shifts. -/
theorem shiftsAndRotations : Obligations.ShiftsAndRotations := by
  unfold Obligations.ShiftsAndRotations
  intro s cx d a b w S U n
  have hn : ∀ l, n l = ((cx.val b l).setWidth (widthOf w)).toNat % widthOf w := fun l => congrArg (· % widthOf w) (uintOf_eq w _)
  have hU : ∀ l, U l = ((cx.val a l).setWidth (widthOf w)).toNat := fun l => uintOf_eq w _
  have hS : ∀ l, S l = ((cx.val a l).setWidth (widthOf w)).toInt := fun l => sintOf_eq w _
  refine ⟨shl_completes, fun h => ?_, fun h => ?_, fun h => ?_⟩
  · refine binary_completes h rfl rfl fun l => ?_
    rw [BitVec.setWidth_ofNat_of_le (widthOf_le w), hU, hn]
    exact ushiftRight_eq_ofNat _ _
  · refine binary_completes h rfl rfl fun l => ?_
    rw [setWidth_ofInt (widthOf_le w), hS, hn]
    exact sshiftRight_eq_ofInt _ _
  · refine binary_completes h rfl rfl fun l => ?_
    rw [BitVec.setWidth_or, BitVec.setWidth_ofNat_of_le (widthOf_le w), BitVec.setWidth_ofNat_of_le (widthOf_le w), hU, hn]
    exact rotateLeft_eq _ _

/-! Bit counts (R196). -/

theorem testBit_setWidth {n i : Nat} (x : W64) (h : i < n) : (x.setWidth n).toNat.testBit i = x.getLsbD i := by
  rw [BitVec.testBit_toNat, BitVec.getLsbD_setWidth, decide_eq_true h, Bool.true_and]

theorem toNat_setWidth_eq_zero {n : Nat} (x : W64) : (x.setWidth n).toNat = 0 ↔ ∀ i, i < n → x.getLsbD i = false := by
  rw [toNat_eq_zero_iff]
  constructor
  · intro h i hi
    rw [← testBit_setWidth x hi, h]
    simp
  · intro h
    ext i hi
    simpa [hi] using h i hi

theorem countZeros_setWidth (wide : Bool) (y : BitVec (widthOf wide)) :
    (countZeros (widthOf wide) y).setWidth 64 = BitVec.ofNat 64 (clzNat (widthOf wide) y.toNat) := by
  refine setWidth64_ofNat ?_
  have hle : clzNat (widthOf wide) y.toNat ≤ widthOf wide := by unfold clzNat; split <;> omega
  exact Nat.lt_of_le_of_lt hle Nat.lt_two_pow_self

theorem clz_of_bits {n : Nat} (x : W64) (h : ¬ ∀ i, i < n → x.getLsbD i = false) :
    clzNat n (x.setWidth n).toNat < n ∧ x.getLsbD (n - 1 - clzNat n (x.setWidth n).toNat) = true ∧
      ∀ i, n - 1 - clzNat n (x.setWidth n).toNat < i → i < n → x.getLsbD i = false := by
  obtain ⟨hlt, hone, habove⟩ := clzNat_spec (mt (toNat_setWidth_eq_zero x).1 h) (x.setWidth n).isLt
  exact ⟨hlt, (testBit_setWidth x (by omega)).symm.trans hone, fun i hi hn => (testBit_setWidth x hn).symm.trans (habove i hi)⟩

theorem countOnes_setWidth (wide : Bool) (x : W64) : (countOnes (widthOf wide) (x.setWidth (widthOf wide))).setWidth 64 =
    BitVec.ofNat 64 ((List.range (widthOf wide)).filter fun i => x.getLsbD i).length := by
  have hbits : ((List.range (widthOf wide)).filter fun i => (x.setWidth (widthOf wide)).toNat.testBit i) =
      (List.range (widthOf wide)).filter fun i => x.getLsbD i :=
    List.filter_congr fun i hi => testBit_setWidth x (List.mem_range.1 hi)
  rw [countOnes, popNat_eq, hbits]
  refine setWidth64_ofNat (Nat.lt_of_le_of_lt (List.length_filter_le _ _) ?_)
  rw [List.length_range]
  exact Nat.lt_two_pow_self

theorem getLsbD_bitReverse (wide : Bool) (x : W64) {i : Nat} (hi : i < widthOf wide) :
    ((bitReverse (widthOf wide) (x.setWidth (widthOf wide))).setWidth 64).getLsbD i = x.getLsbD (widthOf wide - 1 - i) := by
  have hle := widthOf_le wide
  rw [BitVec.getLsbD_setWidth, bitReverse, BitVec.getLsbD_ofNat, testBit_reverseBits, if_pos hi, testBit_setWidth x (by omega),
    decide_eq_true (by omega : i < 64), decide_eq_true hi, Bool.true_and, Bool.true_and]

theorem firstSet_zero (wide : Bool) (x : W64) (h : ∀ i, i < widthOf wide → x.getLsbD i = false) :
    (firstSet (widthOf wide) (x.setWidth (widthOf wide))).setWidth 64 = BitVec.ofNat 64 (2 ^ widthOf wide - 1) := by
  unfold firstSet
  split
  next k hk =>
    obtain ⟨j, hj, -, hone, -⟩ := ffsNat_some hk
    rw [testBit_setWidth x hj, h j hj] at hone
    cases hone
  next => cases wide <;> decide

theorem firstSet_spec (wide : Bool) (x : W64) (h : ¬ ∀ i, i < widthOf wide → x.getLsbD i = false) :
    ∃ i, i < widthOf wide ∧ (firstSet (widthOf wide) (x.setWidth (widthOf wide))).setWidth 64 = BitVec.ofNat 64 i ∧
      x.getLsbD i = true ∧ ∀ j, j < i → x.getLsbD j = false := by
  unfold firstSet
  split
  next k hk =>
    obtain ⟨j, hj, rfl, hone, hlow⟩ := ffsNat_some hk
    rw [Nat.zero_add]
    refine ⟨j, hj, setWidth64_ofNat (Nat.lt_trans hj Nat.lt_two_pow_self), testBit_setWidth x hj ▸ hone, fun m hm => ?_⟩
    exact testBit_setWidth x (Nat.lt_trans hm hj) ▸ hlow m hm
  next hk => exact absurd (fun i hi => testBit_setWidth x hi ▸ ffsNat_none hk i hi) h

/-- Settles O40: each count, as the function that computes it at the width of the operands, has the bits that the statement names. -/
theorem bitCounts : Obligations.BitCounts := by
  unfold Obligations.BitCounts
  intro s cx d a w bit zero
  refine ⟨fun h => ?_, fun h => ?_, fun h => ?_, fun h => ?_⟩
  · refine ⟨fun l => clzNat (widthOf w) ((cx.val a l).setWidth (widthOf w)).toNat,
      unary_completes h rfl fun l => countZeros_setWidth w _, fun l => ⟨fun hz => ?_, clz_of_bits _⟩⟩
    exact congrArg (clzNat _) ((toNat_setWidth_eq_zero _).2 hz)
  · exact unary_completes h rfl fun l => countOnes_setWidth w _
  · exact ⟨_, unary_completes h rfl fun _ => rfl, fun l i hi => getLsbD_bitReverse w _ hi⟩
  · exact ⟨_, unary_completes h rfl fun _ => rfl, fun l => ⟨firstSet_zero w _, firstSet_spec w _⟩⟩

/-! Compares and tests (R202). -/

theorem compare_completes {s : State} {cx : Ctx} {i : Instr} {d a b : Operand} {f : (w : Nat) → BitVec w → BitVec w → Bool} {p : Nat → Bool}
    (h : Clear s i cx d [a, b]) (hr : resultOf cx i = cx.cmp f d a b)
    (hf : ∀ l, f (widthOf (wideOps [a, b])) ((cx.val a l).setWidth _) ((cx.val b l).setWidth _) = p l) :
    Completes s i cx d (fun l => if p l then 1 else 0) 0 := by
  have hval (l : Nat) : (if wideOps [a, b] then f 64 (cx.val a l) (cx.val b l) else f 32 (cx.low a l) (cx.low b l)) = p l := by
    refine Eq.trans ?_ (hf l)
    cases wideOps [a, b] with
    | true => simp [widthOf]
    | false => rfl
  exact blocking_completes h hr (congrArg (cx.write cx.s d · noOrigin) (funext fun l => by rw [hval]))

/-- A compare of the signed integers that the sources stand for at their width. -/
theorem signedCompare_completes {s : State} {cx : Ctx} {i : Instr} {d a b : Operand} {f : (w : Nat) → BitVec w → BitVec w → Bool}
    (p : Int → Int → Bool) (h : Clear s i cx d [a, b]) (hr : resultOf cx i = cx.cmp f d a b)
    (hf : ∀ {w} (x y : BitVec w), f w x y = p x.toInt y.toInt) : Completes s i cx d (fun l =>
      if p (sintOf (wideOps [a, b]) (cx.val a l)) (sintOf (wideOps [a, b]) (cx.val b l)) then 1 else 0) 0 :=
  compare_completes h hr fun l => by rw [sintOf_eq, sintOf_eq]; exact hf _ _

/-- A compare of the unsigned integers that the sources stand for at their width. -/
theorem unsignedCompare_completes {s : State} {cx : Ctx} {i : Instr} {d a b : Operand} {f : (w : Nat) → BitVec w → BitVec w → Bool}
    (p : Nat → Nat → Bool) (h : Clear s i cx d [a, b]) (hr : resultOf cx i = cx.cmp f d a b)
    (hf : ∀ {w} (x y : BitVec w), f w x y = p x.toNat y.toNat) : Completes s i cx d (fun l =>
      if p (uintOf (wideOps [a, b]) (cx.val a l)) (uintOf (wideOps [a, b]) (cx.val b l)) then 1 else 0) 0 :=
  compare_completes h hr fun l => by rw [uintOf_eq, uintOf_eq]; exact hf _ _

theorem beq_toNat {w : Nat} (x y : BitVec w) : (x == y) = decide (x.toNat = y.toNat) := by
  simp only [beq_eq_decide, BitVec.toNat_inj]

/-- Settles O41: a compare of words is the compare of the integers that they stand for at the width of the sources. -/
theorem comparesWritePredicates : Obligations.ComparesWritePredicates := by
  unfold Obligations.ComparesWritePredicates
  intro s cx d a b w S U P
  refine ⟨fun h => ?_, fun h => ?_, fun h => ?_, fun h => ?_, fun h => ?_, fun h => ?_, fun h => ?_, fun h => ?_⟩
  · exact unsignedCompare_completes (fun x y => x = y) h rfl beq_toNat
  · exact unsignedCompare_completes (f := fun _ x y => x != y) (fun x y => x ≠ y) h rfl fun x y => by rw [bne, beq_toNat, ← decide_not]
  · exact signedCompare_completes (fun x y => x < y) h rfl fun _ _ => BitVec.slt_eq_decide
  · exact signedCompare_completes (fun x y => x ≤ y) h rfl fun _ _ => BitVec.sle_eq_decide
  · exact unsignedCompare_completes (fun x y => x < y) h rfl fun _ _ => BitVec.ult_eq_decide
  · exact unsignedCompare_completes (fun x y => x ≤ y) h rfl fun _ _ => BitVec.ule_eq_decide
  · exact unsignedCompare_completes (f := fun _ x y => x &&& y != 0) (fun x y => x &&& y ≠ 0) h rfl fun x y => by
      rw [bne, beq_toNat, ← decide_not, BitVec.toNat_and]; rfl
  · exact unsignedCompare_completes (f := fun _ x y => x &&& y == 0) (fun x y => x &&& y = 0) h rfl fun x y => by
      rw [beq_toNat, BitVec.toNat_and]; rfl

/-! Predicates (R203). -/

theorem bit_completes {s : State} {cx : Ctx} {i : Instr} {d a b : Operand} {f : Bool → Bool → Bool} {B : Operand → Nat → Bool}
    (h : Clear s i cx d []) (hi : rulesOf i = some (predRules d a b)) (hr : resultOf cx i = cx.bit f d a b)
    (hB : ∀ o l, isPz o = true → (cx.val o l == 1) = B o l) : Completes s i cx d (fun l => if f (B a l) (B b l) then 1 else 0) 0 := by
  obtain ⟨cy, -, hok⟩ := ready_ok h.ready hi
  simp only [predRules, Bool.and_eq_true] at hok
  obtain ⟨⟨-, ha⟩, hb⟩ := hok
  exact blocking_completes h hr (congrArg (cx.write cx.s d · noOrigin) (funext fun l => by rw [hB a l ha, hB b l hb]))

/-- Settles O42: an operand that the instruction admits is a predicate register, whose bit is read, or 0xFF, which reads 0. -/
theorem predicatesCombine : Obligations.PredicatesCombine := by
  unfold Obligations.PredicatesCombine
  intro s cx d a b B P
  have hB : ∀ o l, isPz o = true → (cx.val o l == 1) = B o l := by
    intro o l ho
    cases o with
    | p n =>
      change ((if (cx.x.pred n.val).getLsbD l then 1 else 0 : W64) == 1) = (cx.x.pred n.val).getLsbD l
      cases (cx.x.pred n.val).getLsbD l <;> rfl
    | zero => rfl
    | _ => cases ho
  refine ⟨fun h => ?_, fun h => ?_, fun h => ?_, fun h => ?_⟩
  · exact bit_completes (f := fun x y => x && y) h rfl rfl hB
  · exact bit_completes (f := fun x y => x || y) h rfl rfl hB
  · exact bit_completes (f := fun x y => x != y) h rfl rfl hB
  · exact bit_completes (f := fun x y => x && !y) h rfl rfl hB

end Sys2Proof.Machine

end

section

/-! Shuffles, lists, symbol instructions, `refill`, `yield` and `nop` (R212, R213, R259, R262-R264). -/

namespace Sys2Proof.Machine
open Sys2Proof

theorem source_eq (cx : Ctx) (o : Option Nat) : cx.source o = match o with
    | none => none
    | some k => if k < cx.x.width && cx.x.live.getLsbD k then some k else none := by
  cases o <;> rfl

/-- A shuffle whose operands and moved values are free of poison writes what the table gives (R259). -/
theorem shuffle_done {cx : Ctx} {j : Nat → W64 → Option Nat} {d a b : Operand} {t : State} {g : Nat → FlagSet}
    (he : cx.shuffled j d a b = some (t, g)) : cx.shuffle j d a b = .done t g := by
  obtain ⟨hc, hg⟩ := need_some.1 he
  obtain ⟨rfl, rfl⟩ := gives_some.1 hg
  simp only [Bool.and_eq_true, Bool.not_eq_true'] at hc
  obtain ⟨⟨⟨ha, hb⟩, hd⟩, hp⟩ := hc
  simp only [Ctx.shuffle, List.any_cons, List.any_nil, ha, hb, hd, Bool.or_self, Bool.false_eq_true, if_false]
  simp only [source_eq, Ctx.val] at hp ⊢
  exact use_clear (k := fun cy => .done (cy.write cy.s d _ noOrigin) 0) hp

theorem laneInstruction_completes {i : Instr} {s t : State} {cx : Ctx} {g : Nat → FlagSet} (h : s.ready? i = some cx)
    (he : laneEffect cx i = some (t, g)) : exec i s = .next (cx.finish i t g) := by
  cases i <;> simp only [laneEffect, reduceCtorEq] at he
  case shfl d a b | shflX d a b | shflUp d a b | shflDn d a b => exact exec_done rfl rfl h (shuffle_done he)
  case topkIns d a b =>
    obtain ⟨hc, hg⟩ := need_some.1 he
    obtain ⟨rfl, rfl⟩ := gives_some.1 hg
    obtain ⟨hd, hp⟩ := Bool.and_eq_true_iff.1 hc
    refine exec_done rfl rfl h ((if_neg (by simpa using hd)).trans ?_)
    exact blockOn_clear hp
  case topkClr d code =>
    obtain ⟨hc, hg⟩ := need_some.1 he
    obtain ⟨rfl, rfl⟩ := gives_some.1 hg
    exact exec_done rfl rfl h (if_neg (by simpa using hc))
  case symQ d a =>
    obtain ⟨hc, hg⟩ := need_some.1 he
    obtain ⟨rfl, rfl⟩ := gives_some.1 hg
    exact exec_done rfl rfl h (if_neg (by simpa using hc))
  case symWait a =>
    obtain ⟨hc, hg⟩ := need_some.1 he
    obtain ⟨rfl, rfl⟩ := gives_some.1 hg
    exact exec_done rfl rfl h (if_neg (by simpa using hc))
  case symWall =>
    obtain ⟨hc, hg⟩ := need_some.1 he
    obtain ⟨rfl, rfl⟩ := gives_some.1 hg
    exact exec_done rfl rfl h (if_neg (by simpa using hc))
  case refill | yield | nop =>
    obtain ⟨rfl, rfl⟩ := gives_some.1 he
    exact exec_done rfl rfl h rfl

/-- Settles O12, instruction by instruction: what the table asks for is what keeps the instruction from waiting and from meeting poison. -/
theorem laneInstructionsComplete : Obligations.LaneInstructionsComplete := by
  unfold Obligations.LaneInstructionsComplete
  exact fun _ _ _ _ _ => laneInstruction_completes

end Sys2Proof.Machine

end

section

/-! Branches, calls, jumps and joins: what they leave as it was, and what they do not (R47, R48, R205-R210). -/

namespace Sys2Proof.Machine
open Sys2Proof

/-- One team of one lane, which join 0 expects, with a store in its queue. -/
def storeWaits : State :=
  { State.reset with
    cores := [(0, { teams := [(0, { items := [{ width := 1 }], splinters := [{ mask := 1 }], joins := [(0, 1)]
                                    queue := [{ op := .store 4, lanes := 1 }] })] })]
    cur := { valid := true } }

/-- The lane arrives, its join completes at once, and the team's queue is another one. -/
theorem storeWaits_joins : (storeWaits.ready? (.joinArr (.j 0) 1)).any (fun cx => (movedBy cx (.joinArr (.j 0) 1)).any fun t =>
    (t.team? cx.c cx.t).any fun y => decide (y.queue ≠ cx.x.queue)) = true := by decide +kernel

/-- Refutes O32: where accesses of the team wait, a join that completes puts a marker into the team's queue (`State.settleJoins`, R167), and the
statement has the queue kept. Of a team none of whose accesses waits it holds (`controlInstruction_keepsTheRest`). -/
theorem not_controlInstructionsKeepTheRest : ¬ Obligations.ControlInstructionsKeepTheRest := by
  unfold Obligations.ControlInstructionsKeepTheRest
  intro h
  obtain ⟨cx, hcx, hany⟩ := (Option.any_eq_true ..).1 storeWaits_joins
  obtain ⟨t, ht, hany⟩ := (Option.any_eq_true ..).1 hany
  obtain ⟨y, hy, hqueue⟩ := (Option.any_eq_true ..).1 hany
  obtain ⟨z, -, hz, -, -, -, hkeeps, -⟩ := h _ _ t cx _ _ hcx rfl ht
  cases hy.symm.trans hz
  exact of_decide_eq_true hqueue hkeeps.queue

/-! The splinters of a team divided, and its register written before (R47, R205, R206). -/

theorem Team.keeps_goTo (x : Team) {z : SysCtx} (pc : W64) (half : Bool) (d : Operand) (wide : Bool) (hz : x.sys = some z) :
    x.Keeps { x with sys := some (z.goTo pc half) } d wide where
  __ := Team.Keeps.refl x d wide
  bank v hv := by
    obtain rfl : z = v := Option.some.inj (hz.symm.trans hv)
    exact ⟨_, rfl, fun _ _ => rfl, fun _ _ _ => rfl, rfl, rfl, rfl, rfl, rfl, rfl⟩

theorem Ctx.step_divide {cx : Ctx} {s : State} {x : Team} (d : Operand) (wide : Bool) (passes : Nat) (parts : List (Mask × Splinter))
    (h : s.team? cx.c cx.t = some x) :
    ∃ y, s.Step (cx.divide s passes parts) cx.c cx.t d wide x y ∧ s.Quiet (cx.divide s passes parts) cx.c x y := by
  refine ⟨_, State.step_onTeam h ?_, State.quiet_onTeam h ?_⟩
  · split
    next z hz => exact x.keeps_goTo _ _ d wide hz
    next hz => exact { Team.Keeps.refl x d wide with }
  · split
    next z hz => simp [Team.inSys, hz]
    next hz => rfl

/-- A branch, behind what it writes. -/
theorem Ctx.step_then_divide {cx : Ctx} {s : State} {y : Team} {d : Operand} {wide : Bool} (passes : Nat) (parts : List (Mask × Splinter))
    (h : cx.s.Step s cx.c cx.t d wide cx.x y) (q : cx.s.Quiet s cx.c cx.x y) : ∃ z,
      cx.s.Step (cx.divide s passes parts) cx.c cx.t d wide cx.x z ∧ cx.s.Quiet (cx.divide s passes parts) cx.c cx.x z := by
  obtain ⟨z, hz, qz⟩ := cx.step_divide d wide passes parts h.team
  exact ⟨z, h.trans hz, q.trans qz⟩

theorem Ctx.step_jumped {cx : Ctx} {t : State} {d a : Operand} {wide : Bool} {passes : Nat} (h : cx.s.team? cx.c cx.t = some cx.x)
    (hd : wide = true ∨ d = .zero) (hm : cx.jumped passes d a = some t) :
    ∃ y, cx.s.Step t cx.c cx.t d wide cx.x y ∧ cx.s.Quiet t cx.c cx.x y := by
  simp only [jumped, need_some, Option.some.injEq] at hm
  obtain ⟨-, -, rfl⟩ := hm
  generalize cx.act &&& cx.placed _ = went
  split
  · exact step_then_divide _ _ (.refl h) (.refl _ _ _)
  · rcases hd with rfl | rfl
    · obtain ⟨y, hy, qy⟩ := step_write64 (cx := { cx with act := went }) d (fun _ => cx.link) noOrigin h
      exact step_then_divide _ _ hy qy
    · exact step_then_divide _ _ (.refl h) (.refl _ _ _)

theorem Ctx.step_called {cx : Ctx} (cond : Operand) (off : BitVec 18) (h : cx.s.team? cx.c cx.t = some cx.x) :
    ∃ y, cx.s.Step (cx.branched (if cx.holds cond = 0 then cx.s else cx.s.writeU cx.c cx.t 62 (cx.base + 4) none) cond off)
        cx.c cx.t (.w 62) false cx.x y ∧
      cx.s.Quiet (cx.branched (if cx.holds cond = 0 then cx.s else cx.s.writeU cx.c cx.t 62 (cx.base + 4) none) cond off) cx.c cx.x y := by
  split
  · exact step_then_divide _ _ (.refl h) (.refl _ _ _)
  · obtain ⟨y, hy, qy⟩ := cx.step_write (.w 62) false (fun _ => cx.base + 4) noOrigin h
    exact step_then_divide _ _ hy qy

/-! The joins of a team changed (R48, R209, R210). -/

/-- A team that differs in its joins and its splinters alone. -/
def Team.Rejoined (x y : Team) : Prop := ∃ js ss, y = { x with joins := js, splinters := ss }

theorem Team.Rejoined.refl (x : Team) : x.Rejoined x := ⟨x.joins, x.splinters, rfl⟩

theorem Team.Rejoined.trans {x y z : Team} (h : x.Rejoined y) (k : y.Rejoined z) : x.Rejoined z := by
  obtain ⟨_, _, rfl⟩ := h
  obtain ⟨js, ss, rfl⟩ := k
  exact ⟨js, ss, rfl⟩

theorem Team.rejoined_settleJoins (x : Team) : x.Rejoined x.settleJoins := by
  have hfold (js : List Nat) : ∀ y : Team, x.Rejoined y → x.Rejoined (js.foldl (fun x j =>
      let w := x.waiters j
      if w != 0 && SMap.atD x.joins j 0 &&& x.live &&& ~~~w == 0 then x.releaseJoin j else x) y) := by
    induction js with
    | nil => exact fun y h => h
    | cons j js ih =>
      intro y h
      refine ih _ ?_
      dsimp only
      split
      · exact h.trans ⟨_, _, rfl⟩
      · exact h
  exact hfold _ x (.refl x)

theorem Team.Keeps.rejoined {x y z : Team} {d : Operand} {wide : Bool} (h : x.Keeps y d wide) (k : y.Rejoined z) :
    x.KeepsRegisters z d wide := by
  obtain ⟨js, ss, rfl⟩ := k
  exact ⟨h.vregs, h.uregs, h.preds, h.bank, h.part, h.entry, h.items, h.tiles, h.accs, h.batch, h.queue, h.pend⟩

/-- A step that changes the joins and the splinters of a team alone. -/
structure State.Rejoins (s t : State) (c u : Nat) (x y : Team) : Prop where
  team : t.team? c u = some y
  rejoined : x.Rejoined y
  device : s.SameDevice t
  others : s.SameOthers t c u
  cache : s.SameCache t c
  flags : ∀ p, t.flags c p = s.flags c p
  vreg : ∀ n, t.vreg c y n = s.vreg c x n

namespace State

variable {s t : State} {c u : Nat} {x y : Team}

theorem Rejoins.trans {v : State} {z : Team} (h : s.Rejoins t c u x y) (k : t.Rejoins v c u y z) : s.Rejoins v c u x z :=
  ⟨k.team, h.rejoined.trans k.rejoined, h.device.trans k.device, h.others.trans k.others, h.cache.trans k.cache,
    fun p => (k.flags p).trans (h.flags p), fun n => (k.vreg n).trans (h.vreg n)⟩

theorem rejoins_refl (h : s.team? c u = some x) : s.Rejoins s c u x x :=
  ⟨h, .refl x, .refl s, .refl s c u, .refl s c, fun _ => rfl, fun _ => rfl⟩

theorem rejoins_setTeam (s : State) (c u : Nat) (h : x.Rejoined y) : s.Rejoins (s.setTeam c u y) c u x y where
  team := by simp
  rejoined := h
  device := sameDevice_onCore s c _
  others := sameOthers_setTeam s c u y
  cache := sameCache_setTeam s c u y
  flags p := by simp [flags]
  vreg n := by
    obtain ⟨_, _, rfl⟩ := h
    simp [State.vreg]

theorem rejoins_onTeam {f : Team → Team} (h : s.team? c u = some x) (hf : x.Rejoined (f x)) : s.Rejoins (s.onTeam c u f) c u x (f x) := by
  rw [onTeam_of_some f h]; exact rejoins_setTeam s c u hf

theorem waitingOf_eq (h : s.team? c u = some x) (ht : t.team? c u = some y) (hq : y.queue = x.queue) (ho : s.SameOthers t c u)
    (hc : s.SameCache t c) : t.waitingOf c u = s.waitingOf c u := by
  simp only [waitingOf, h, ht, hq, ho.fbuf, hc.txs]

theorem Rejoins.waitingOf (k : s.Rejoins t c u x y) (h : s.team? c u = some x) : t.waitingOf c u = s.waitingOf c u := by
  obtain ⟨_, _, hy⟩ := k.rejoined
  exact waitingOf_eq h k.team (by rw [hy]) k.others k.cache

/-- Where none of the team's accesses waits, joins that complete leave no marker. -/
theorem rejoins_settleJoins (h : s.team? c u = some x) (hw : ((s.waitingOf c u).all fun e => e.op.marks || e.sys) = true) :
    s.Rejoins (s.settleJoins c u) c u x x.settleJoins := by
  have hset := rejoins_setTeam s c u x.rejoined_settleJoins
  have hquiet : (x.settleJoins.splinters == x.splinters ||
      ((s.setTeam c u x.settleJoins).waitingOf c u).all fun e => e.op.marks || e.sys) = true := by
    rw [hset.waitingOf h, hw, Bool.or_true]
  have heq : s.settleJoins c u = s.setTeam c u x.settleJoins := by
    simp only [settleJoins, h]
    exact if_pos hquiet
  exact heq ▸ hset

end State

/-- A control instruction is a step that writes one register and moves the splinter, then one that changes the joins. -/
theorem controlInstruction_steps {i : Instr} {t : State} {cx : Ctx} {d : Operand} {wide : Bool} (hx : cx.s.team? cx.c cx.t = some cx.x)
    (hd : controlDest i = some (d, wide)) (hm : movedBy cx i = some t)
    (hw : ((cx.s.waitingOf cx.c cx.t).all fun e => e.op.marks || e.sys) = true) :
    ∃ u y z, cx.s.Step u cx.c cx.t d wide cx.x y ∧ cx.s.Quiet u cx.c cx.x y ∧ u.Rejoins t cx.c cx.t y z := by
  have hstep (h : ∃ y, cx.s.Step t cx.c cx.t d wide cx.x y ∧ cx.s.Quiet t cx.c cx.x y) :
      ∃ u y z, cx.s.Step u cx.c cx.t d wide cx.x y ∧ cx.s.Quiet u cx.c cx.x y ∧ u.Rejoins t cx.c cx.t y z :=
    h.elim fun y hy => ⟨t, y, y, hy.1, hy.2, State.rejoins_refl hy.1.team⟩
  obtain ⟨y, hret, qret⟩ := cx.step_retire d wide cx.wordPasses hx
  have hwait {u : State} {y : Team} (h : cx.s.Step u cx.c cx.t d wide cx.x y) (q : cx.s.Quiet u cx.c cx.x y) :
      ((u.waitingOf cx.c cx.t).all fun e => e.op.marks || e.sys) = true := by
    rw [State.waitingOf_eq hx h.team h.keeps.queue h.others q.cache, hw]
  cases i <;> simp only [controlDest, reduceCtorEq, Option.some.injEq, Prod.mk.injEq] at hd
  case br cond off =>
    cases hm
    exact hstep (cx.step_divide d wide _ _ hx)
  case call cond off =>
    obtain ⟨rfl, rfl⟩ := hd
    simp only [movedBy, need_some, Option.some.injEq] at hm
    obtain ⟨-, rfl⟩ := hm
    exact hstep (cx.step_called cond off hx)
  case brx a | ret a =>
    obtain ⟨rfl, rfl⟩ := hd
    exact hstep (Ctx.step_jumped hx (.inr rfl) hm)
  case callx e a =>
    obtain ⟨rfl, rfl⟩ := hd
    exact hstep (Ctx.step_jumped hx (.inl rfl) hm)
  case joinSet e a | joinAdd e a | joinClr e =>
    cases hm
    exact ⟨_, y, _, hret, qret, State.rejoins_onTeam hret.team ⟨_, _, rfl⟩⟩
  case joinRem e a =>
    cases hm
    have hjoin := State.rejoins_onTeam (f := fun x =>
      { x with joins := SMap.store 0 x.joins (joinOf e) (SMap.atD x.joins (joinOf e) 0 &&& ~~~cx.holds a) }) hret.team ⟨_, _, rfl⟩
    refine ⟨_, y, _, hret, qret, hjoin.trans (State.rejoins_settleJoins hjoin.team ?_)⟩
    rw [hjoin.waitingOf hret.team, hwait hret qret]
  case joinArr cond off =>
    cases hm
    obtain ⟨z, hz, qz⟩ := cx.step_divide d wide _ _ hx
    exact ⟨_, z, _, hz, qz, State.rejoins_settleJoins hz.team (hwait hz qz)⟩

/-- What O32 says holds of a team none of whose accesses waits. -/
theorem controlInstruction_keepsTheRest {i : Instr} {s t : State} {cx : Ctx} {d : Operand} {wide : Bool} (h : s.ready? i = some cx)
    (hd : controlDest i = some (d, wide)) (hm : movedBy cx i = some t)
    (hw : ((s.waitingOf cx.c cx.t).all fun e => e.op.marks || e.sys) = true) :
    ∃ y, exec i s = .next t ∧ t.team? cx.c cx.t = some y ∧ s.SameDevice t ∧ s.SameOthers t cx.c cx.t ∧ s.SameCache t cx.c ∧
      cx.x.KeepsRegisters y d wide ∧ (∀ p, t.flags cx.c p = s.flags cx.c p) ∧
      ∀ n, writesV d wide n = false → t.vreg cx.c y n = s.vreg cx.c cx.x n := by
  obtain ⟨rfl, hx, -⟩ := ready_team h
  obtain ⟨u, y, z, hstep, hquiet, hjoin⟩ := controlInstruction_steps hx hd hm hw
  exact ⟨z, placingInstruction_moves h hm, hjoin.team, hstep.device.trans hjoin.device, hstep.others.trans hjoin.others,
    hquiet.cache.trans hjoin.cache, hstep.keeps.rejoined hjoin.rejoined, fun p => (hjoin.flags p).trans (hquiet.flags p),
    fun n hn => (hjoin.vreg n).trans (hstep.vreg n hn)⟩

end Sys2Proof.Machine

end

section

/-! Votes, reductions and `sq` (R236, R260, R261). -/

namespace Sys2Proof.Machine
open Sys2Proof

/-- The instructions of the lane table stand in neither of the tables before it. -/
theorem resultOf_lane {cx : Ctx} {i : Instr} {r : Result} (h : laneResult cx i = some r) : resultOf cx i = some r := by
  cases i with
  | voteAny | voteAll | ballot | voteEq | redwAdd | redwFadd | redwFmax | redwFmin | sq => exact h
  | _ => cases h

/-- Settles O11: what the table gives to a vote, a reduction or `sq` is its result, and a computing instruction whose result is clear is done
with it. -/
theorem votesAndReductionsComplete : Obligations.VotesAndReductionsComplete := by
  unfold Obligations.VotesAndReductionsComplete
  intro i s cx r h hr hc
  exact exec_result h (resultOf_lane hr) hc

end Sys2Proof.Machine

end

section

/-! The wait on p15 (R218). -/

namespace Sys2Proof.Machine
open Sys2Proof

/-- A guard of p15 waits for a pending write of it, before it is applied. -/
theorem judge_guard_waits {r : Rules} {body : Ctx → Did} {cx : Ctx} {b : Bool} (hi : cx.illegal r = false)
    (hp : (r.priv && !cx.sys) = false) (ho : r.ok cx = true) (hq : cx.p15Pending = true) (hg : cx.h.guard = some (b, 15)) :
    cx.judge r body = .wait cx.s .issue := by
  simp [Ctx.judge, hi, hp, ho, hq, hg]

/-- With a lane that passes the guard, every use of p15 waits for a pending write of it. -/
theorem judge_p15_waits {r : Rules} {body : Ctx → Did} {cx : Ctx} (hi : cx.illegal r = false) (hp : (r.priv && !cx.sys) = false)
    (ho : r.ok cx = true) (hw : cx.awaitsP15 r = true) (hg : cx.guarded ≠ 0) : cx.judge r body = .wait cx.s .issue := by
  obtain ⟨hq, huse⟩ := Bool.and_eq_true_iff.1 hw
  by_cases hguard : ∃ b, cx.h.guard = some (b, 15)
  · obtain ⟨b, hb⟩ := hguard
    exact judge_guard_waits hi hp ho hq hb
  · have hlive : cx.live.p15Pending = true := hq
    have hact : ¬cx.live.act = 0 := hg
    cases hgd : cx.h.guard with
    | none =>
      simp only [hgd, Bool.or_false] at huse
      simp only [Ctx.judge, hi, hp, ho, hgd, hlive, hact, huse, Bool.not_true, Bool.and_false, Bool.and_self, Bool.false_eq_true, if_false,
        if_true]
      rfl
    | some a =>
      have hne : (a.2.val == 15) = false := beq_false_of_ne fun h => hguard ⟨a.1, by rw [hgd, ← show a.2 = 15 from Fin.ext h]⟩
      simp only [hgd, hne, Bool.or_false] at huse
      simp only [Ctx.judge, hi, hp, ho, hgd, hne, hlive, hact, huse, Bool.not_true, Bool.and_false, Bool.and_self, Bool.false_eq_true,
        if_false, if_true]
      rfl

/-- Settles O25: an instruction that waits for p15 comes to neither its guard nor its body. -/
theorem pendingP15IsAwaited : Obligations.PendingP15IsAwaited := by
  unfold Obligations.PendingP15IsAwaited
  intro i r s cx hc hr hi hpriv ho
  obtain ⟨body, he⟩ := exec_performs hr
  have hp : (r.priv && !cx.sys) = false := by
    cases h : r.priv with
    | false => rfl
    | true => simp [hpriv h]
  have hwait (hj : cx.judge r body = .wait cx.s .issue) : exec i s = .next (cx.live.stay .issue) := by
    simp only [he, perform, hc, hj]
    rfl
  exact ⟨fun hq ⟨_, hg⟩ => hwait (judge_guard_waits hi hp ho hq hg), fun hw hg => hwait (judge_p15_waits hi hp ho hw hg)⟩

end Sys2Proof.Machine

end

section

/-! Tensor instructions that nothing holds up (R265-R281). -/

namespace Sys2Proof

/-- Of two entries written at one key the later one stands. -/
theorem SMap.put_put {α : Type} (m : SMap α) (k : Nat) (v w : α) : SMap.put (SMap.put m k v) k w = SMap.put m k w := by
  induction m with
  | nil => simp [SMap.put]
  | cons e m ih =>
    obtain ⟨j, u⟩ := e
    by_cases h1 : k < j
    · simp [SMap.put, h1]
    · by_cases h2 : k = j
      · simp [SMap.put, h2]
      · simp [SMap.put, h1, h2, ih]

end Sys2Proof

namespace Sys2Proof.Machine
open Sys2Proof

/-- Two changes of a team are one. -/
theorem State.onTeam_onTeam (s : State) (c t : Nat) (f g : Team → Team) :
    (s.onTeam c t f).onTeam c t g = s.onTeam c t fun x => g (f x) := by
  cases h : s.team? c t with
  | none => rw [onTeam_of_none f h, onTeam_of_none g h, onTeam_of_none _ h]
  | some x =>
    rw [onTeam_of_some f h, onTeam_of_some _ h, onTeam_of_some g (team?_setTeam_self ..)]
    simp only [setTeam, onCore, core_setCore_self]
    simp only [setCore, SMap.put_put]

/-- A change of a team changes of its core the teams alone. -/
theorem State.core_onTeam_teams (s : State) (c t : Nat) (f : Team → Team) : ∃ ts, (s.onTeam c t f).core c = { s.core c with teams := ts } := by
  unfold State.onTeam State.setTeam
  split
  · exact ⟨(s.core c).teams, rfl⟩
  · exact ⟨_, core_onCore_self ..⟩

theorem State.tq_onTeam (s : State) (c t : Nat) (f : Team → Team) : ((s.onTeam c t f).core c).tq = (s.core c).tq := by
  obtain ⟨ts, h⟩ := s.core_onTeam_teams c t f
  rw [h]

theorem State.groups_onTeam (s : State) (c t : Nat) (f : Team → Team) : ((s.onTeam c t f).core c).groups = (s.core c).groups := by
  obtain ⟨ts, h⟩ := s.core_onTeam_teams c t f
  rw [h]

theorem State.enabled_onTeam (s : State) (c t p : Nat) (f : Team → Team) : (s.onTeam c t f).enabled c p = s.enabled c p := by
  obtain ⟨ts, h⟩ := s.core_onTeam_teams c t f
  rw [enabled, h, enabled]

/-- Flags that become visible do not change which traps are enabled (R366). -/
theorem State.enabled_setFlags (s : State) (c p : Nat) (g : FlagSet) : (s.setFlags c p g).enabled c p = s.enabled c p := by
  unfold setFlags enabled
  split <;> simp

/-- A name that is bound, or that is bound in its turn: the instruction goes on with its accumulator, and of its team only the names have
changed (R270). -/
theorem withAcc_boundAcc {cx : Ctx} {n : Nat} {k : Ctx → Nat → Did} {e : State × Nat} (h : cx.boundAcc n = some e) :
    ∃ accs, cx.withAcc n k = k { cx with s := e.1, x := { cx.x with accs := accs } } e.2 := by
  unfold Ctx.boundAcc at h
  unfold Ctx.withAcc
  cases hx : SMap.at? cx.x.accs n with
  | some i =>
    simp only [hx, Option.some.injEq] at h
    subst h
    exact ⟨cx.x.accs, rfl⟩
  | none =>
    simp only [hx, need_some, Option.map_eq_some_iff, decide_eq_true_eq] at h
    obtain ⟨hroom, i, hi, rfl⟩ := h
    simp only [if_neg (Nat.not_le.2 hroom), hi]
    exact ⟨_, rfl⟩

/-- What the binding of an accumulator's name leaves as it was (R270). -/
structure Ctx.Binds (cx : Ctx) (t : State) : Prop where
  mem : t.mem = cx.s.mem
  clock : t.clock = cx.s.clock
  devid : t.devid = cx.s.devid
  tq : (t.core cx.c).tq = (cx.s.core cx.c).tq
  groups : (t.core cx.c).groups = (cx.s.core cx.c).groups

theorem boundAcc_binds {cx : Ctx} {n : Nat} {e : State × Nat} (h : cx.boundAcc n = some e) : cx.Binds e.1 := by
  unfold Ctx.boundAcc at h
  cases hx : SMap.at? cx.x.accs n with
  | some i =>
    simp only [hx, Option.some.injEq] at h
    subst h
    exact ⟨rfl, rfl, rfl, rfl, rfl⟩
  | none =>
    simp only [hx, need_some, Option.map_eq_some_iff] at h
    obtain ⟨-, i, -, rfl⟩ := h
    refine ⟨by simp, by simp, by simp, (State.tq_onTeam ..).trans ?_, (State.groups_onTeam ..).trans ?_⟩ <;>
      rw [State.core_onCore_self] <;> rfl

/-- An operand reads the same with an accumulator's name bound. -/
theorem Ctx.Binds.read {cx : Ctx} {t : State} (h : cx.Binds t) (accs : SMap Nat) (o : Operand) :
    Ctx.read { cx with s := t, x := { cx.x with accs := accs } } o = cx.read o := by
  cases o with
  | v n => simp [Ctx.read, Ctx.vreg, State.prior?, State.vreg, h.groups, h.clock]
  | dev => simp [Ctx.read, h.devid]
  | clock => simp [Ctx.read, h.clock]
  | _ => rfl

/-- The operations of the team that are not finished are the same with an accumulator's name bound. -/
theorem Ctx.Binds.pendingOp {cx : Ctx} {t : State} (h : cx.Binds t) (x : Team) (p : TensorKind → Bool) :
    Ctx.pendingOp { cx with s := t, x := x } p = cx.pendingOp p := by
  simp only [Ctx.pendingOp, h.tq]

/-- An operation for an accumulator that is bound, or bound in its turn, is put into the queue (R271). -/
theorem withAcc_accept {cx : Ctx} {n : Nat} {e : State × Nat} (f : State → State) (k : TensorKind) (h : cx.boundAcc n = some e) :
    (cx.withAcc n fun cy _ => cy.accept (f cy.s) k) = .done (cx.queuedOp (f e.1) k) 0 := by
  obtain ⟨accs, hk⟩ := withAcc_boundAcc (k := fun cy _ => cy.accept (f cy.s) k) h
  exact hk

/-- `acc.ld` and `acc.st` whose range is free are put into the queue, and their range is locked (R279). -/
theorem accMemory_done {cx : Ctx} {acc base : Operand} {dst : Bool} {kind : Nat → W64 → Nat → TensorKind} {t : State} {g : Nat → FlagSet}
    (he : cx.accMoved acc base dst kind = some (t, g)) : cx.accMemory acc base dst kind = .done t g := by
  obtain ⟨hc, he⟩ := need_some.1 he
  obtain ⟨l, hl, he⟩ := Option.bind_eq_some_iff.1 he
  obtain ⟨e, hb, hg⟩ := Option.bind_eq_some_iff.1 he
  obtain ⟨rfl, rfl⟩ := gives_some.1 hg
  simp only [Bool.and_eq_true, beq_iff_eq, Bool.not_eq_true'] at hc
  obtain ⟨⟨⟨⟨⟨hm, hp⟩, haligned⟩, hin⟩, hfree⟩, hroom⟩ := hc
  obtain ⟨ls, hls⟩ : ∃ ls, cx.freeLocks = l :: ls := List.head?_eq_some_iff.1 hl
  rw [Ctx.accMemory, behind_unmarked hm, blockOn_clear hp]
  simp only [haligned, hin, hfree, hroom, hls, bne_self_eq_false, Bool.not_true, Bool.false_eq_true, if_false]
  obtain ⟨accs, hk⟩ := withAcc_boundAcc hb
  exact hk

/-- The write form of `acc.mv` (R280). -/
theorem accWrite_done {cx : Ctx} {x y : Operand} {vi : BitVec 6} {e : State × Nat} (hp : cx.plain [y, indexReg vi] = true)
    (ho : cx.pendingOp (fun k => k.namesAcc (bankNumber x)) = false) (hb : cx.boundAcc (bankNumber x) = some e) :
    cx.accWrite x y vi = .done (e.1.onCore cx.c fun k =>
      { k with accs := k.accs.put e.2 { k.accs.atD e.2 {} with
          words := (lanesOf cx.act).foldl (fun m l => SMap.store 0 m (cx.accIndex vi l) (cx.low y l)) (k.accs.atD e.2 {}).words } }) 0 := by
  have hbinds := boundAcc_binds hb
  rw [Ctx.accWrite, blockOn_clear hp]
  obtain ⟨accs, hk⟩ := withAcc_boundAcc hb
  refine hk.trans ?_
  simp only [hbinds.pendingOp, ho, Bool.false_eq_true, if_false, Ctx.accIndex, hbinds.read]
  rfl

/-- The read form of `acc.mv` (R280). -/
theorem accRead_done {cx : Ctx} {x y : Operand} {vi : BitVec 6} {e : State × Nat} (hd : cx.destWaits x = false)
    (hp : cx.plain [indexReg vi] = true) (ho : cx.pendingOp (fun k => k.writesAcc (bankNumber y)) = false)
    (hb : cx.boundAcc (bankNumber y) = some e) :
    cx.accRead x y vi = .done (cx.write e.1 x
      (fun l => (SMap.atD ((e.1.core cx.c).accs.atD e.2 {}).words (cx.accIndex vi l) 0).setWidth 64)
      fun _ => ((e.1.core cx.c).accs.atD e.2 {}).pois) 0 := by
  have hbinds := boundAcc_binds hb
  simp only [Ctx.accRead, hd, Bool.false_eq_true, if_false, blockOn_clear hp]
  obtain ⟨accs, hk⟩ := withAcc_boundAcc hb
  refine hk.trans ?_
  simp only [hbinds.pendingOp, ho, Bool.false_eq_true, if_false, Ctx.accIndex, hbinds.read]
  rfl

/-- An `mwait` whose batches set no flag whose trap is enabled returns with their flags visible (R120, R272). -/
theorem batchReturn_quiet {cx : Ctx} {n : BitVec 32} (h : cx.flagsUpTo n &&& cx.s.enabled cx.c cx.part = 0) : cx.batchReturn n =
    .done ((cx.s.onTeam cx.c cx.t fun y => { y with batchFlags := beyond n y.batchFlags }).setFlags cx.c cx.part (cx.flagsUpTo n)) 0 := by
  refine if_pos ?_
  rw [State.enabled_setFlags, State.enabled_onTeam]
  exact h

/-- `mwait` for batches that have completed without poison and without a flag whose trap is enabled takes their flags (R120, R272, R278). -/
theorem exec_mwait {s t : State} {cx : Ctx} {x : Operand} {g : Nat → FlagSet} (h : s.ready? (.mwait x) = some cx)
    (he : tensorEffect cx (.mwait x) = some (t, g)) : exec (.mwait x) s = .next (cx.finish (.mwait x) t g) := by
  obtain ⟨hc, hg⟩ := need_some.1 he
  obtain ⟨rfl, rfl⟩ := gives_some.1 hg
  simp only [Bool.and_eq_true, beq_iff_eq] at hc
  obtain ⟨⟨⟨⟨hp, hup⟩, hdone⟩, hpois⟩, hflags⟩ := hc
  refine exec_done rfl rfl h ((blockOn_clear hp).trans ?_)
  have hnone : upTo ((cx.uval x).setWidth 32) cx.x.batchPois = [] := List.isEmpty_iff.1 hpois
  rw [← State.enabled_onTeam cx.s cx.c cx.t cx.part fun y =>
    { y with batchPois := beyond ((cx.uval x).setWidth 32) y.batchPois }] at hflags
  simp only [hup, hdone, hnone, List.map_nil, List.any_nil, Bool.not_true, Bool.false_eq_true, if_false]
  refine (batchReturn_quiet (cx := { cx with
    s := cx.s.onTeam cx.c cx.t fun y => { y with batchPois := beyond ((cx.uval x).setWidth 32) y.batchPois } }) hflags).trans ?_
  dsimp only
  rw [State.onTeam_onTeam]
  rfl

theorem tensorInstruction_completes {i : Instr} {s t : State} {cx : Ctx} {g : Nat → FlagSet} (h : s.ready? i = some cx)
    (he : tensorEffect cx i = some (t, g)) : exec i s = .next (cx.finish i t g) := by
  cases i
  case tclaim x y =>
    obtain ⟨hc, he⟩ := need_some.1 he
    obtain ⟨e, hplace, hg⟩ := Option.bind_eq_some_iff.1 he
    obtain ⟨rfl, rfl⟩ := gives_some.1 hg
    simp only [Bool.and_eq_true, Bool.not_eq_true', Option.isNone_iff_eq_none] at hc
    obtain ⟨⟨hp, hok⟩, hnone⟩ := hc
    refine exec_done rfl rfl h ((blockOn_clear hp).trans ?_)
    simp only [hok, hnone, Option.isSome_none, Bool.or_self, Bool.false_eq_true, if_false, hplace]
  case trel x =>
    refine exec_done rfl rfl h ?_
    simp only [tensorEffect] at he
    split at he
    next ht =>
      obtain ⟨hc, hg⟩ := need_some.1 he
      obtain ⟨rfl, rfl⟩ := gives_some.1 hg
      exact (if_pos ht).trans (if_neg (by simpa using hc))
    next ht =>
      obtain ⟨hc, hg⟩ := need_some.1 he
      obtain ⟨rfl, rfl⟩ := gives_some.1 hg
      exact (if_neg ht).trans (if_neg (by simpa using hc))
  case tload x n =>
    obtain ⟨hc, he⟩ := need_some.1 he
    obtain ⟨k, hk, he⟩ := Option.bind_eq_some_iff.1 he
    obtain ⟨hr, he⟩ := need_some.1 he
    obtain ⟨l, hl, hg⟩ := Option.bind_eq_some_iff.1 he
    obtain ⟨rfl, rfl⟩ := gives_some.1 hg
    simp only [Bool.and_eq_true, beq_iff_eq] at hc
    obtain ⟨⟨hm, hown⟩, hfull⟩ := hc
    simp only [Bool.and_eq_true, Bool.not_eq_true', decide_eq_true_eq] at hr
    obtain ⟨⟨⟨hlen, hin⟩, hfree⟩, hroom⟩ := hr
    obtain ⟨ls, hls⟩ : ∃ ls, cx.freeLocks = l :: ls := List.head?_eq_some_iff.1 hl
    refine exec_done rfl rfl h ((behind_unmarked hm).trans ((withHandle_owned hown).trans ?_))
    simp only [hfull, hk, hin, hfree, hroom, hls, decide_eq_false (Nat.not_lt.2 hlen), bne_self_eq_false, Bool.not_true, Bool.or_self,
      Bool.false_eq_true, if_false]
    rfl
  case mma x y zc nb na acc =>
    obtain ⟨a, ha, he⟩ := Option.bind_eq_some_iff.1 he
    obtain ⟨b, hb, he⟩ := Option.bind_eq_some_iff.1 he
    obtain ⟨hc, he⟩ := need_some.1 he
    obtain ⟨e, hacc, hg⟩ := Option.bind_eq_some_iff.1 he
    obtain ⟨rfl, rfl⟩ := gives_some.1 hg
    simp only [Bool.and_eq_true] at hc
    obtain ⟨⟨hm, hpair⟩, hroom⟩ := hc
    refine exec_done rfl rfl h ((behind_unmarked hm).trans ?_)
    simp only [ha, hb, hpair, hroom, Bool.not_true, Bool.false_eq_true, if_false]
    exact withAcc_accept id _ hacc
  case accZero x =>
    obtain ⟨hc, he⟩ := need_some.1 he
    obtain ⟨e, hacc, hg⟩ := Option.bind_eq_some_iff.1 he
    obtain ⟨rfl, rfl⟩ := gives_some.1 hg
    obtain ⟨hm, hroom⟩ := Bool.and_eq_true_iff.1 hc
    refine exec_done rfl rfl h ((behind_unmarked hm).trans ?_)
    simp only [hroom, Bool.not_true, Bool.false_eq_true, if_false]
    exact withAcc_accept id _ hacc
  case accLd x y => exact exec_done rfl rfl h (accMemory_done he)
  case accSt x y => exact exec_done rfl rfl h (accMemory_done he)
  case mfence x =>
    obtain ⟨hc, hg⟩ := need_some.1 he
    obtain ⟨rfl, rfl⟩ := gives_some.1 hg
    exact exec_done rfl rfl h (if_neg (by simpa using hc))
  case mwait x => exact exec_mwait h he
  case accMv x y vi =>
    refine exec_done rfl rfl h ?_
    simp only [tensorEffect] at he
    split at he
    next ha =>
      obtain ⟨hc, he⟩ := need_some.1 he
      obtain ⟨e, hb, hg⟩ := Option.bind_eq_some_iff.1 he
      obtain ⟨rfl, rfl⟩ := gives_some.1 hg
      obtain ⟨hp, ho⟩ := Bool.and_eq_true_iff.1 hc
      exact (if_pos ha).trans (accWrite_done hp ((Bool.not_eq_true' _).mp ho) hb)
    next ha =>
      obtain ⟨hc, he⟩ := need_some.1 he
      obtain ⟨e, hb, hg⟩ := Option.bind_eq_some_iff.1 he
      obtain ⟨rfl, rfl⟩ := gives_some.1 hg
      simp only [Bool.and_eq_true, Bool.not_eq_true'] at hc
      obtain ⟨⟨hd, hp⟩, ho⟩ := hc
      exact (if_neg ha).trans (accRead_done hd hp ho hb)
  case tinfo x y =>
    obtain ⟨hc, hg⟩ := need_some.1 he
    obtain ⟨rfl, rfl⟩ := gives_some.1 hg
    refine exec_done rfl rfl h ((if_neg (by simpa using hc)).trans ?_)
    cases y with
    | t n => cases cx.tile? (.t n) <;> rfl
    | _ => rfl
  all_goals cases he

end Sys2Proof.Machine

end

section

/-! What an instruction that stores nothing leaves of memory (R231, R245, R259, R271, R279). -/

namespace Sys2Proof.Machine
open Sys2Proof

/-- An effect, where there is one, leaves this memory and sets no flag. -/
def Effect.Keeps (m : List Host.Cell) (e : Effect) : Prop := ∀ t g, e = some (t, g) → t.mem = m ∧ g = 0

section
variable {m : List Host.Cell}

theorem keeps_none : Effect.Keeps m none := by
  intro t g he
  cases he

theorem keeps_gives {s : State} (h : s.mem = m) : Effect.Keeps m (gives s) := by
  intro t g he
  obtain ⟨rfl, rfl⟩ := gives_some.1 he
  exact ⟨h, rfl⟩

theorem keeps_need {b : Bool} {e : Effect} (h : e.Keeps m) : Effect.Keeps m (need b e) := fun t g he => h t g (need_some.1 he).2

theorem keeps_bind {α : Type} {o : Option α} {f : α → Effect} (h : ∀ a, o = some a → (f a).Keeps m) : Effect.Keeps m (o.bind f) := by
  intro t g he
  obtain ⟨a, ha, hf⟩ := Option.bind_eq_some_iff.1 he
  exact h a ha t g hf

theorem keeps_ite {p : Prop} [Decidable p] {e f : Effect} (he : e.Keeps m) (hf : f.Keeps m) : Effect.Keeps m (if p then e else f) := by
  split
  · exact he
  · exact hf

end

/-- Of the lane table `refill` alone changes memory. -/
theorem laneEffect_keeps {i : Instr} (cx : Ctx) (hi : i ≠ .refill) : (laneEffect cx i).Keeps cx.s.mem := by
  cases i
  case refill => exact absurd rfl hi
  case nop | yield => exact keeps_gives (by simp)
  case shfl | shflX | shflUp | shflDn | topkIns | topkClr | symQ | symWait | symWall =>
    exact keeps_need (keeps_gives (by simp))
  all_goals exact keeps_none

theorem syncEffect_keeps (i : Instr) (cx : Ctx) : (syncEffect cx i).Keeps cx.s.mem := by
  cases i
  case fence pred succ scope =>
    have hfenced : Effect.Keeps cx.s.mem (gives (cx.fenced (cx.s.nextOrder cx.c cx.t) succ scope)) :=
      keeps_gives (by simp [Ctx.fenced, apply_ite State.mem])
    exact keeps_ite (keeps_gives rfl) (keeps_ite hfenced (keeps_need (keeps_gives (by simp))))
  case barWait =>
    unfold syncEffect
    dsimp only
    split
    · exact keeps_gives (by simp)
    · exact keeps_need (keeps_bind fun _ _ => keeps_need (keeps_gives (by simp)))
  case barInit | barInitForce | barArr | barInv | barQ | sput | sgetC | sget => exact keeps_need (keeps_gives (by simp [foldl_mem]))
  all_goals exact keeps_none

theorem queuedOp_mem (cx : Ctx) (s : State) (k : TensorKind) : (cx.queuedOp s k).mem = s.mem := State.onCore_mem ..

/-- The binding of an accumulator's name, where there is one, and a change of the core or of a register after it. -/
theorem keeps_boundAcc {cx : Ctx} {n : Nat} {f : State × Nat → State} (h : ∀ e, (f e).mem = e.1.mem) :
    Effect.Keeps cx.s.mem ((cx.boundAcc n).bind fun e => gives (f e)) :=
  keeps_bind fun e hb => keeps_gives ((h e).trans (boundAcc_binds hb).mem)

theorem accMoved_keeps (cx : Ctx) (acc base : Operand) (dst : Bool) (kind : Nat → W64 → Nat → TensorKind) :
    (cx.accMoved acc base dst kind).Keeps cx.s.mem :=
  keeps_need (keeps_bind fun _ _ => keeps_boundAcc fun _ => by simp [queuedOp_mem])

theorem tensorEffect_keeps (i : Instr) (cx : Ctx) : (tensorEffect cx i).Keeps cx.s.mem := by
  cases i
  case tclaim => exact keeps_need (keeps_bind fun _ _ => keeps_gives (by simp))
  case trel x =>
    refine keeps_ite (keeps_need (keeps_gives (by simp))) (keeps_need (keeps_gives ?_))
    cases SMap.at? cx.x.accs (bankNumber x) <;> simp
  case tload => exact keeps_need (keeps_bind fun _ _ => keeps_need (keeps_bind fun _ _ => keeps_gives (by simp [queuedOp_mem])))
  case mma => exact keeps_bind fun _ _ => keeps_bind fun _ _ => keeps_need (keeps_boundAcc fun _ => queuedOp_mem ..)
  case accZero => exact keeps_need (keeps_boundAcc fun _ => queuedOp_mem ..)
  case accLd | accSt => exact accMoved_keeps _ _ _ _ _
  case mfence | mwait | tinfo => exact keeps_need (keeps_gives (by simp))
  case accMv =>
    exact keeps_ite (keeps_need (keeps_boundAcc fun _ => State.onCore_mem ..)) (keeps_need (keeps_boundAcc fun _ => Ctx.write_mem ..))
  all_goals exact keeps_none

/-- Settles O33: the instructions of the three tables complete, what they leave has the memory that they found, and, setting no flag, they go
on without a trap. -/
theorem instructionsThatStoreNothingKeepMemory : Obligations.InstructionsThatStoreNothingKeepMemory := by
  unfold Obligations.InstructionsThatStoreNothingKeepMemory
  intro i s t cx g h hi he
  obtain ⟨hs, -⟩ := ready_team h
  have hcompletes : exec i s = .next (cx.finish i t g) := by
    rcases he with he | he | he
    · exact laneInstruction_completes h he
    · exact syncInstruction_completes h he
    · exact tensorInstruction_completes h he
  obtain ⟨hmem, rfl⟩ : t.mem = cx.s.mem ∧ g = 0 := by
    rcases he with he | he | he
    · exact laneEffect_keeps cx hi t g he
    · exact syncEffect_keeps i cx t g he
    · exact tensorEffect_keeps i cx t g he
  refine ⟨hcompletes, fun a => ?_⟩
  rw [State.byte, finish_quiet, Ctx.retire_mem, hmem, hs]
  rfl

end Sys2Proof.Machine

end

section

/-! Bytes that a lane's store changes (R73, R216, R220, R224, R228). -/

namespace Sys2Proof.Machine
open Sys2Proof

/-- States of one memory read the same bytes. -/
theorem State.byte_congr {s t : State} (h : t.mem = s.mem) (pa : Nat) : t.byte pa = s.byte pa := by
  rw [State.byte, h, State.byte]

/-- A physical address that lies in none of some parts. -/
def Misses (pa : Nat) (ps : List (Nat × Nat)) : Prop := ∀ p ∈ ps, ¬(p.1 ≤ pa ∧ pa < p.1 + p.2)

/-- A byte stored over one part, as far as the data reaches. -/
theorem byte_storePart (s : State) (w : Who) (a n pa : Nat) (bs : List Byte) : (s.storeParts w [(a, n)] bs).byte pa =
    if a ≤ pa ∧ pa < a + (bs.take n).length then (bs.take n).getD (pa - a) 0 else s.byte pa :=
  (State.byte_congr (State.patchLine_mem ..) pa).trans (byte_write s a pa (bs.take n))

theorem byte_storeParts_of_misses {s : State} {w : Who} {ps : List (Nat × Nat)} {bs : List Byte} {pa : Nat} (h : Misses pa ps) :
    (s.storeParts w ps bs).byte pa = s.byte pa := by
  induction ps generalizing s bs with
  | nil => rfl
  | cons p ps ih =>
    obtain ⟨a, n⟩ := p
    have hout : ¬(a ≤ pa ∧ pa < a + (bs.take n).length) := fun hin =>
      h (a, n) List.mem_cons_self ⟨hin.1, Nat.lt_of_lt_of_le hin.2 (Nat.add_le_add_left (List.length_take_le ..) a)⟩
    exact (ih fun p hp => h p (List.mem_cons_of_mem _ hp)).trans ((byte_storePart s w a n pa bs).trans (if_neg hout))

/-- Only the lanes of stores are held back for a release (R39, R221). -/
def Access.HoldsStores (a : Access) : Prop := a.hold = [] ∨ ∃ n, a.op = .store n

/-- A lane of an access, with what becomes of it, stores to no byte at an address: it is held back, or reaches other bytes. -/
def Access.Spares (a : Access) (pa : Nat) (e : Nat × Fate) : Prop :=
  (a.hold.at? e.1).isNone = true → ∀ ps, e.2 = .memory ps → Misses pa ps

/-- A lane that is performed leaves the bytes that it does not store to. -/
theorem byte_performLane {s u : State} {w : Who} {t : Nat} {a : Access} {l : Nat} {ps : List (Nat × Nat)} {pa : Nat}
    (hp : s.performLane w t a l ps = some u) (hold : a.HoldsStores) (hpa : (a.hold.at? l).isNone = true → Misses pa ps) :
    u.byte pa = s.byte pa := by
  have hmiss (hop : ∀ n, a.op ≠ .store n) : Misses pa ps := by
    rcases hold with h | ⟨n, h⟩
    · exact hpa (by rw [h]; rfl)
    · exact absurd h (hop n)
  unfold State.performLane at hp
  dsimp only at hp
  split at hp
  case h_3 n hop =>
    split at hp
    · exact State.byte_congr (State.holdParts_mem hp) pa
    next hnone =>
      cases hp
      exact byte_storeParts_of_misses (hpa (by rw [hnone]; rfl))
  case h_4 hop =>
    cases hp
    exact byte_storeParts_of_misses (hmiss (by simp [hop]))
  case h_5 op n hop =>
    cases hp
    exact (byte_storeParts_of_misses (hmiss (by simp [hop]))).trans (State.byte_congr (by simp) pa)
  all_goals
    cases hp
    exact State.byte_congr (by simp) pa

/-- Of a lane that is not held back, what it performs at its core is what it reaches in memory. -/
theorem here_of_not_held {a : Access} {l : Nat} {f : Fate} {ps : List (Nat × Nat)} (h : (a.hold.at? l).isNone = true)
    (hh : a.here l f = some ps) : f = .memory ps := by
  cases f with
  | memory qs => exact congrArg Fate.memory (Option.some.inj hh)
  | remote d o x => simp [Access.here, Option.isNone_iff_eq_none.1 h] at hh
  | _ => cases hh

/-- Lanes that are performed leave the bytes that none of them stores to. -/
theorem byte_performLanes {s : State} {w : Who} {t : Nat} {a : Access} {ls : List (Nat × Fate)} {pa : Nat} (hold : a.HoldsStores)
    (hpa : ∀ e ∈ ls, a.Spares pa e) : (s.performLanes w t a ls).1.byte pa = s.byte pa := by
  induction ls generalizing s with
  | nil => rfl
  | cons e ls ih =>
    obtain ⟨l, f⟩ := e
    have hrest (v : State) := ih (s := v) fun e he => hpa e (List.mem_cons_of_mem _ he)
    unfold State.performLanes
    split
    · exact hrest s
    next ps hhere =>
      split
      · rfl
      next u hu =>
        exact (hrest u).trans (byte_performLane hu hold fun hn => hpa (l, f) List.mem_cons_self hn ps (here_of_not_held hn hhere))

/-- Where every lane is performed, of the lanes that store to a byte the last one's data remains (R216, R220). -/
theorem byte_performLanes_last {s : State} {w : Who} {t : Nat} {a : Access} {pre post : List (Nat × Fate)} {l n base pa : Nat}
    (hop : a.op = .store n) (hn : a.hold.at? l = none) (hpre : ∀ e ∈ pre, e.1 ≠ l)
    (hdone : (s.performLanes w t a (pre ++ (l, .memory [(base, n)]) :: post)).2.1.getLsbD l = true)
    (hpost : ∀ e ∈ post, a.Spares pa e) (hlo : base ≤ pa) (hhi : pa < base + n) :
    (s.performLanes w t a (pre ++ (l, .memory [(base, n)]) :: post)).1.byte pa = (leBytes n (a.dataAt l).toNat).getD (pa - base) 0 := by
  induction pre generalizing s with
  | nil =>
    have hlane : s.performLane w t a l [(base, n)] = some (s.storeParts w [(base, n)] (leBytes n (a.dataAt l).toNat)) := by
      simp only [State.performLane, hop, hn, Access.bytes, AccessOp.size]
    simp only [List.nil_append, State.performLanes, Access.here, hlane]
    have htake : (leBytes n (a.dataAt l).toNat).take n = leBytes n (a.dataAt l).toNat := List.take_of_length_le (by simp)
    rw [byte_performLanes (.inr ⟨n, hop⟩) hpost, byte_storePart, htake, length_leBytes, if_pos ⟨hlo, hhi⟩]
  | cons e pre ih =>
    obtain ⟨m, f⟩ := e
    have hne : m ≠ l := hpre (m, f) List.mem_cons_self
    have hrest (v : State) := ih (s := v) fun e he => hpre e (List.mem_cons_of_mem _ he)
    simp only [List.cons_append, State.performLanes] at hdone ⊢
    cases hhere : a.here m f with
    | none =>
      simp only [hhere] at hdone
      exact hrest s hdone
    | some ps =>
      cases hu : s.performLane w t a m ps with
      | none => simp [hhere, hu] at hdone
      | some u =>
        simp only [hhere, hu, BitVec.getLsbD_or, getLsbD_laneBit, decide_eq_false (Ne.symm hne), Bool.and_false, Bool.or_false] at hdone
        simp only [hu]
        exact hrest u hdone

/-! Fates (R76, R78). -/

/-- What several parts give together is memory only where each of them is, and then it has a part of each one's size. -/
theorem joinParts_memory {s : State} {w : Who} {k : AccessKind} {lane : Nat} {ps : List (Nat × Nat)} {acc : Target} {qs : List (Nat × Nat)}
    (h : s.joinParts w k lane acc ps = .memory qs) :
    ∃ rs, acc = .memory rs ∧ qs.map Prod.snd = rs.map Prod.snd ++ ps.map Prod.snd := by
  induction ps generalizing acc with
  | nil => exact ⟨qs, h, by simp⟩
  | cons p ps ih =>
    obtain ⟨a, n⟩ := p
    obtain ⟨rs, hjoin, hsizes⟩ := ih h
    cases hspot : s.spot w k lane a <;> cases acc <;> simp [hspot, Spot.target, Target.join] at hjoin
    case memory.memory pa ts => exact ⟨ts, rfl, by simp [hsizes, ← hjoin]⟩
    all_goals split at hjoin <;> cases hjoin

/-- Where parts that are translated together are memory, there is a part of each one's size. -/
theorem targetParts_memory {s : State} {w : Who} {k : AccessKind} {lane : Nat} {ps qs : List (Nat × Nat)}
    (h : s.targetParts w k lane ps = .memory qs) : qs.map Prod.snd = ps.map Prod.snd := by
  cases ps with
  | nil => cases h; rfl
  | cons p ps =>
    obtain ⟨a, n⟩ := p
    obtain ⟨rs, hacc, hsizes⟩ := joinParts_memory h
    cases hspot : s.spot w k lane a <;> simp [hspot, Spot.target] at hacc
    simp [hsizes, ← hacc]

/-- The parts of an access make up the whole of it. -/
theorem lineParts_total (a n : Nat) : ((lineParts a n).map Prod.snd).sum = n := by
  unfold lineParts
  dsimp only
  split
  · simp
  · simp; omega

/-- A store that reaches memory in one part has it whole. -/
theorem fate_store_whole {s : State} {w : Who} {a : Access} {l n base len : Nat} (hop : a.op = .store n)
    (h : (s.fate w a l).1 = .memory [(base, len)]) : len = n := by
  have hparts : s.targetParts w .store l (lineParts (a.addr l).toNat n) = .memory [(base, len)] := by
    unfold State.fate at h
    split at h
    · cases h
    · split at h
      · cases h
      · simp only [hop] at h
        split at h <;> simp at h
        next ps hps =>
          subst h
          simpa [Access.parts, hop, AccessOp.size, AccessOp.kind] using hps
  have hsum := congrArg List.sum (targetParts_memory hparts)
  rw [lineParts_total] at hsum
  simpa using hsum

end Sys2Proof.Machine

end

section

/-! A store or atomic that is performed on lanes that all reach memory or a peer (R69, R216, R228). -/

namespace Sys2Proof.Machine
open Sys2Proof

theorem and_not_zero {n : Nat} (x : BitVec n) : x &&& ~~~0#n = x := by simp

/-- A fate that is neither poison nor refused nor a fault. -/
def Fate.arrives : Fate → Bool
  | .memory _ | .remote _ _ _ => true
  | _ => false

/-- The lanes that an access performs, with what becomes of each. -/
def State.fates (s : State) (w : Who) (a : Access) : List (Nat × Fate) := (lanesOf a.lanes).map fun l => (l, (s.fate w a l).1)

theorem reaches_iff {s : State} {w : Who} {a : Access} : s.reaches w a = true ↔
    ∀ l ∈ lanesOf a.lanes, (s.fate w a l).2 = [] ∧ (s.fate w a l).1.arrives = true := by
  simp only [State.reaches, List.all_eq_true, Bool.and_eq_true, List.isEmpty_iff] <;> rfl

theorem recordsOf_nil (w : Who) (t : Nat) (a : Access) (info : Bool) (fbi fgen : Nat) : recordsOf w t a info fbi fgen [] = [] := by
  simp [recordsOf, causesOf]

/-- Lanes of which none is outside a mask are in it. -/
theorem getLsbD_of_maskOf_covered {ls : List Nat} {m : Mask} {l : Nat} (h : maskOf ls &&& ~~~m = 0) (hl : l ∈ ls) (hlt : l < 1024) :
    m.getLsbD l = true := by
  have hbit := congrArg (fun b : Mask => b.getLsbD l) h
  simpa [getLsbD_maskOf, hl, hlt] using hbit

/-- An access of which every lane reaches memory or a peer, with no poisoned operand: its memory is that of its lanes performed, and the lanes
are left that would perform at its core and are not performed. -/
theorem passAccess_performs {s : State} {w : Who} {t : Nat} {a : Access} {pending : Bool} (hop : a.op.changes = true) (hos : a.origins = [])
    (hdone : a.done = 0) (hr : s.reaches w a = true) : ∃ u : State, u.mem = s.mem ∧
      (s.passAccess w t a none pending).s.mem = (u.performLanes w t a (s.fates w a)).1.mem ∧
      (s.passAccess w t a none pending).left = maskOf (((s.fates w a).filter fun e => (a.here e.1 e.2).isSome).map fun e => e.1) &&&
        ~~~(u.performLanes w t a (s.fates w a)).2.1 := by
  have hleft : a.left = a.lanes := by rw [Access.left, hdone]; exact and_not_zero _
  have hmcst : (a.op == .mcst) = false := by cases h : a.op <;> simp_all [AccessOp.changes]
  rw [reaches_iff] at hr
  unfold State.passAccess
  extract_lets os fs faults e tags s1 s2 ls refused badLanes s3 s4 s5 s6 remote trapLanes
  have hls : ls = s.fates w a := by simp [ls, fs, State.fates, hleft]
  have hfate (l : Nat) (hl : l ∈ lanesOf a.left) : (s.fate w a l).2 = [] ∧ (s.fate w a l).1.arrives = true := hr l (hleft ▸ hl)
  have hfaults : faults = [] := by
    refine List.filterMap_eq_nil_iff.2 fun e he => ?_
    obtain ⟨l, hl, rfl⟩ := List.mem_map.1 he
    have := (hfate l hl).2
    dsimp only
    split <;> simp_all [Fate.arrives]
  have htags : tags = [] := by
    have hnone : fs.flatMap (fun e => e.2.2) = [] := by
      refine List.flatMap_eq_nil_iff.2 fun e he => ?_
      obtain ⟨l, hl, rfl⟩ := List.mem_map.1 he
      exact (hfate l hl).1
    simp [tags, hnone]
  have hrefused : refused = [] := by
    refine List.filterMap_eq_nil_iff.2 fun e he => ?_
    obtain ⟨k, hk, rfl⟩ := List.mem_map.1 he
    obtain ⟨l, hl, rfl⟩ := List.mem_map.1 hk
    have := (hfate l hl).2
    dsimp only
    split <;> simp_all [Fate.arrives]
  refine ⟨s6, ?_, ?_⟩
  · have h1 : s1.mem = s.mem := foldl_mem (fun s l => foldl_mem (fun _ _ => State.fillSpot_mem _ _ _ _) _ s) _ _
    have h2 : s2.mem = s1.mem := by simp only [s2, htags, State.consumeAll]
    have h3 : s3.mem = s2.mem := by simp only [s3, hrefused, recordsOf_nil, State.queueRecords, List.foldl_nil]
    have h4 : s4.mem = s3.mem := foldl_mem (fun s e => by split <;> simp) _ _
    have h6 : s6.mem = s4.mem := by simp [s6, s5]
    rw [h6, h4, h3, h2, h1]
  · have hpois : (a.op.writes && !os.isEmpty) = false := by simp [os, hos]
    have hsurv : teamSurvives w tags = true := by simp [teamSurvives, htags]
    rw [hls]
    clear_value s6
    simp only [hpois, hmcst, hfaults, hsurv, List.isEmpty_nil, Bool.not_true, Bool.and_false, Bool.false_and, Bool.false_eq_true, if_false]
    have htrap : trapLanes = 0 := by simp only [trapLanes, hrefused]; rfl
    refine ⟨?_, trivial⟩
    simp only [htrap, bne_self_eq_false, Bool.and_false, Bool.false_eq_true, if_false, if_true, apply_ite State.mem,
      State.finishAccess_mem, State.saturated_mem, State.sendPeers_mem, State.storedWhole_mem, ite_self]

end Sys2Proof.Machine

end

section

/-! Stores, zeroed lines and atomics performed at issue (R69, R216, R220, R224, R228). -/

namespace Sys2Proof.Machine
open Sys2Proof

/-- The modifier fields of an instruction that nothing holds up are among those that it admits (R181, R185). -/
theorem mods_of_ready {i : Instr} {r : Rules} {s : State} {cx : Ctx} (h : s.ready? i = some cx) (hr : rulesOf i = some r) :
    r.mods cx.mods = true := by
  obtain ⟨cy, q, -, hq, hp, rfl⟩ := ready_ctx h
  obtain rfl : q = r := Option.some.inj (hq.symm.trans hr)
  simp only [Ctx.passes, Ctx.illegal, Bool.and_eq_true, Bool.not_eq_true', Bool.or_eq_false_iff] at hp
  obtain ⟨⟨⟨⟨⟨⟨-, hmods⟩, -⟩, -⟩, -⟩, -⟩, -⟩ := hp
  exact (Bool.not_eq_false' _).mp hmods

/-- The field `.o` stands in no hint of an instruction that does not accept it (R217). -/
theorem o_of_memMods {k : MemMods} {m : ModHint} (h : k.ok m = true) (hk : k.o = false) : m.o = false := by
  cases ho : m.o with
  | false => rfl
  | true => simp [MemMods.ok, hk, ho] at h

/-- Without the field `.o` no lane is held back (R217, R221). -/
theorem holdOf_plain {cx : Ctx} (m : Mask) (h : cx.mods.o = false) : cx.holdOf m = [] := by
  simp [Ctx.holdOf, h]

/-- Neither a zeroed line nor an atomic admits the field `.o`, so of the operations that change memory a store alone is held back. -/
theorem accessOf_holdsStores {i : Instr} {s : State} {cx : Ctx} {r : Req} (h : s.ready? i = some cx) (hr : memReq cx i = some r)
    (hop : r.op.changes = true) : (cx.accessOf r).HoldsStores := by
  cases i
  case stB | stH | stW | stD => cases hr; exact .inr ⟨_, rfl⟩
  case zeroLine a b =>
    cases hr
    have hm := mods_of_ready h rfl
    exact .inl (holdOf_plain _ (by rw [eq_of_beq hm]))
  case atomAdd | atomAddSatN | atomFadd | atomXchg | atomMinI | atomMaxI | atomMinN | atomMaxN | atomAnd | atomOr | atomXor | atomCas =>
    cases hr
    exact .inl (holdOf_plain _ (o_of_memMods (mods_of_ready h rfl) rfl))
  all_goals cases hr <;> cases hop

theorem memoryEffect_access {i : Instr} {cx : Ctx} {r : Req} (h : memReq cx i = some r) : memoryEffect cx i = cx.accessEffect r := by
  cases i <;> cases h <;> rfl

/-- An access with its destination bound is the same but for the symbol that it resolves, and memory is as it was (R63). -/
theorem bound_access {cx : Ctx} {r : Req} {a : Access} {e : State × Access} (h : cx.bound r a = some e) :
    e.1.mem = cx.s.mem ∧ ∃ k, e.2 = { a with rsym := k } := by
  unfold Ctx.bound at h
  dsimp only at h
  split at h
  · obtain ⟨k, hk, rfl⟩ := Option.map_eq_some_iff.1 h
    exact ⟨(Ctx.bind_mem ..).trans (State.allocSym_mem hk), _, rfl⟩
  · cases h
    exact ⟨rfl, a.rsym, rfl⟩

/-- A store binds no destination. -/
theorem bound_store {i : Instr} {cx : Ctx} {r : Req} {n : Nat} (hr : memReq cx i = some r) (hop : r.op = .store n) (a : Access) :
    cx.bound r a = some (cx.s, a) := by
  cases i
  case stB | stH | stW | stD => cases hr; rfl
  all_goals cases hr <;> cases hop

theorem mem_fates {s : State} {w : Who} {a : Access} {e : Nat × Fate} :
    e ∈ s.fates w a ↔ a.lanes.getLsbD e.1 = true ∧ e.2 = (s.fate w a e.1).1 := by
  rw [← mem_lanesOf]
  constructor
  · intro h
    obtain ⟨l, hl, rfl⟩ := List.mem_map.1 h
    exact ⟨hl, rfl⟩
  · rintro ⟨hl, hf⟩
    exact List.mem_map.2 ⟨e.1, hl, by rw [← hf]⟩

/-- The lanes before one of an access are other ones, and those behind it are higher ones. -/
theorem fates_split {s : State} {w : Who} {a : Access} {l : Nat} (hl : a.lanes.getLsbD l = true) :
    ∃ pre post, s.fates w a = pre ++ (l, (s.fate w a l).1) :: post ∧ (∀ e ∈ pre, e.1 ≠ l) ∧
      ∀ e ∈ post, l < e.1 ∧ a.lanes.getLsbD e.1 = true ∧ e.2 = (s.fate w a e.1).1 := by
  obtain ⟨pre, post, hsplit⟩ := List.append_of_mem (mem_lanesOf.2 hl)
  have hsorted := lanesOf_sorted a.lanes
  rw [hsplit] at hsorted
  obtain ⟨-, htail, hbefore⟩ := List.pairwise_append.1 hsorted
  refine ⟨pre.map fun m => (m, (s.fate w a m).1), post.map fun m => (m, (s.fate w a m).1), ?_, fun e he => ?_, fun e he => ?_⟩
  · rw [State.fates, hsplit, List.map_append, List.map_cons]
  · obtain ⟨m, hm, rfl⟩ := List.mem_map.1 he
    exact Nat.ne_of_lt (hbefore m hm l List.mem_cons_self)
  · obtain ⟨m, hm, rfl⟩ := List.mem_map.1 he
    exact ⟨(List.pairwise_cons.1 htail).1 m hm, mem_lanesOf.1 (hsplit ▸ List.mem_append_right _ (List.mem_cons_of_mem _ hm)), rfl⟩

/-- A byte that no lane of an access stores to is spared by each of them. -/
theorem spares_of_storesTo {s : State} {w : Who} {a : Access} {pa : Nat} (h : s.storesTo w a pa = false) :
    ∀ e ∈ s.fates w a, a.Spares pa e := by
  intro e he
  obtain ⟨l, hl, rfl⟩ := List.mem_map.1 he
  intro hn ps (hps : (s.fate w a l).1 = .memory ps) p hp hin
  refine List.any_eq_false.1 h l hl ?_
  rw [show (a.hold.at? l).isNone = true from hn, hps]
  exact List.any_eq_true.2 ⟨p, hp, by simpa using hin⟩

/-- What an access leaves that changes memory, with no poisoned operand and with each lane of it, as it is performed, reaching memory or a
peer: the bytes that its lanes leave, every lane performed that performs at its core, and no flag. -/
theorem access_performs {i : Instr} {s t : State} {cx : Ctx} {r : Req} {e : State × Access} {g : Nat → FlagSet} (h : s.ready? i = some cx)
    (hr : memReq cx i = some r) (hb : cx.bound r (cx.accessOf r) = some e) (hop : r.op.changes = true)
    (hos : (cx.accessOf r).origins = []) (hnow : cx.atIssue (cx.accessOf r) = true)
    (hreach : (e.1.nextOrder cx.c cx.t).reaches cx.who (cx.accessOf r) = true) (he : memoryEffect cx i = some (t, g)) : g = 0 ∧
      ∃ (u : State) (b : Access), b = { cx.accessOf r with rsym := b.rsym } ∧ u.mem = s.mem ∧
        (∀ pa, t.byte pa = (u.performLanes cx.who cx.t b ((e.1.nextOrder cx.c cx.t).fates cx.who b)).1.byte pa) ∧
        ∀ l ∈ (e.1.nextOrder cx.c cx.t).fates cx.who b, (b.here l.1 l.2).isSome = true →
          (u.performLanes cx.who cx.t b ((e.1.nextOrder cx.c cx.t).fates cx.who b)).2.1.getLsbD l.1 = true := by
  rw [memoryEffect_access hr] at he
  obtain ⟨-, he⟩ := need_some.1 he
  obtain ⟨f, hf, hmap⟩ := Option.bind_eq_some_iff.1 he
  obtain rfl : e = f := Option.some.inj (hb.symm.trans hf)
  obtain ⟨v, hl, hv⟩ := Option.map_eq_some_iff.1 hmap
  obtain ⟨rfl, rfl⟩ := Prod.mk.inj hv
  obtain ⟨hmem, k, hk⟩ := bound_access hb
  obtain ⟨x, b⟩ := e
  dsimp only at hk hmem hreach hl ⊢
  subst hk
  refine ⟨rfl, ?_⟩
  have hnow' : cx.atIssue { cx.accessOf r with rsym := k } = true := hnow
  rw [Ctx.launched, if_pos hnow'] at hl
  obtain ⟨hleft, hl⟩ := need_some.1 hl
  cases hl
  obtain ⟨u, hu, hbytes, hstuck⟩ := passAccess_performs (s := x.nextOrder cx.c cx.t) (w := cx.who) (t := cx.t)
    (a := { cx.accessOf r with rsym := k }) (pending := false) hop hos rfl hreach
  obtain ⟨hs, -⟩ := ready_team h
  refine ⟨u, { cx.accessOf r with rsym := k }, rfl, ?_, fun pa => State.byte_congr ?_ pa, fun f hf hhere => ?_⟩
  · rw [hu, State.nextOrder_mem, hmem, hs]
  · exact (Ctx.pendP15_mem ..).trans hbytes
  · rw [eq_of_beq hleft] at hstuck
    exact getLsbD_of_maskOf_covered hstuck.symm (List.mem_map.2 ⟨f, List.mem_filter.2 ⟨hf, hhere⟩, rfl⟩)
      (BitVec.lt_of_getLsbD (mem_fates.1 hf).1)

/-- What O46 says, of the bytes that the lanes store to as they are performed. -/
theorem storesAtIssue_keepOtherBytes {i : Instr} {s t : State} {cx : Ctx} {r : Req} {e : State × Access} {g : Nat → FlagSet}
    (h : s.ready? i = some cx) (hr : memReq cx i = some r) (hb : cx.bound r (cx.accessOf r) = some e) (hop : r.op.changes = true)
    (hos : (cx.accessOf r).origins = []) (hnow : cx.atIssue (cx.accessOf r) = true)
    (hreach : (e.1.nextOrder cx.c cx.t).reaches cx.who (cx.accessOf r) = true) (he : memoryEffect cx i = some (t, g)) {pa : Nat}
    (hpa : (e.1.nextOrder cx.c cx.t).storesTo cx.who (cx.accessOf r) pa = false) : (cx.finish i t g).byte pa = s.byte pa := by
  obtain ⟨rfl, u, b, hbe, hu, hbytes, -⟩ := access_performs h hr hb hop hos hnow hreach he
  have hspares : ∀ l ∈ (e.1.nextOrder cx.c cx.t).fates cx.who b, b.Spares pa l := by
    rw [hbe]
    exact spares_of_storesTo (a := { cx.accessOf r with rsym := b.rsym }) hpa
  have hold : b.HoldsStores := by
    rw [hbe]
    exact accessOf_holdsStores h hr hop
  rw [finish_quiet, State.byte_congr (Ctx.retire_mem ..), hbytes, byte_performLanes hold hspares, State.byte_congr hu]

/-- What O47 says, of the bytes that the lanes store to as they are performed. -/
theorem lastLanesStoreAtIssue_remains {i : Instr} {s t : State} {cx : Ctx} {r : Req} {g : Nat → FlagSet} {n l pa base len : Nat}
    (h : s.ready? i = some cx) (hr : memReq cx i = some r) (hop : r.op = .store n) (hos : (cx.accessOf r).origins = [])
    (hnow : cx.atIssue (cx.accessOf r) = true) (hreach : (s.nextOrder cx.c cx.t).reaches cx.who (cx.accessOf r) = true)
    (he : memoryEffect cx i = some (t, g)) (hl : (cx.accessOf r).lanes.getLsbD l = true)
    (hn : ((cx.accessOf r).hold.at? l).isNone = true)
    (hfate : ((s.nextOrder cx.c cx.t).fate cx.who (cx.accessOf r) l).1 = .memory [(base, len)]) (hlo : base ≤ pa) (hhi : pa < base + len)
    (hlast : ∀ m, l < m → (s.nextOrder cx.c cx.t).storesTo cx.who
      { cx.accessOf r with lanes := (cx.accessOf r).lanes &&& laneBit m } pa = false) :
    (cx.finish i t g).byte pa = (leBytes n ((cx.accessOf r).dataAt l).toNat).getD (pa - base) 0 := by
  obtain ⟨hs, -⟩ := ready_team h
  have hb : cx.bound r (cx.accessOf r) = some (s, cx.accessOf r) := hs ▸ bound_store hr hop _
  obtain ⟨rfl, u, b, hbe, -, hbytes, hdone⟩ := access_performs h hr hb (by rw [hop]; rfl) hos hnow hreach he
  obtain rfl : len = n := fate_store_whole hop hfate
  have hlb : b.lanes.getLsbD l = true := by rw [hbe]; exact hl
  have hfb : ((s.nextOrder cx.c cx.t).fate cx.who b l).1 = .memory [(base, len)] := by rw [hbe]; exact hfate
  obtain ⟨pre, post, hsplit, hpre, hpost⟩ := fates_split (s := s.nextOrder cx.c cx.t) (w := cx.who) hlb
  rw [hfb] at hsplit
  have hnb : b.hold.at? l = none := by rw [hbe]; exact Option.isNone_iff_eq_none.1 hn
  have hbit := hdone (l, .memory [(base, len)]) (by rw [hsplit]; simp) rfl
  have hspares : ∀ e ∈ post, b.Spares pa e := by
    intro e he
    obtain ⟨hlt, hmem, hf⟩ := hpost e he
    rw [hbe] at hmem hf ⊢
    have hm : e ∈ (s.nextOrder cx.c cx.t).fates cx.who { cx.accessOf r with lanes := (cx.accessOf r).lanes &&& laneBit e.1 } :=
      mem_fates.2 ⟨by simp [getLsbD_laneBit, hmem, BitVec.lt_of_getLsbD hmem], hf⟩
    exact spares_of_storesTo (hlast e.1 hlt) e hm
  rw [hsplit] at hbytes hbit
  have hopb : b.op = .store len := by rw [hbe]; exact hop
  have hdata : b.dataAt l = (cx.accessOf r).dataAt l := by rw [hbe]; rfl
  rw [finish_quiet, State.byte_congr (Ctx.retire_mem ..), hbytes, ← hdata]
  exact byte_performLanes_last hopb hnb hpre hbit hspares hlo hhi

end Sys2Proof.Machine

end

section

/-! Translations and the counter of the model's free choices (R86, log entry 6). -/

namespace Sys2Proof.Machine
open Sys2Proof

/-- The next free choice between a cached translation and a walk comes out as this one, or no translation is cached (log entry 6). -/
def State.SteadyTlb (s : State) : Prop := s.tlb = [] ∨ ∀ va, Config.useTlb (s.fresh + 1) va = Config.useTlb s.fresh va

/-- The next number of an access changes the cores, and makes a free choice the next one. -/
theorem nextOrder_eq (s : State) (c t : Nat) : ∃ k, s.nextOrder c t = { s with cores := k, fresh := s.fresh + 1 } := by
  unfold State.nextOrder State.onTeam
  split
  · exact ⟨s.cores, rfl⟩
  · exact ⟨_, rfl⟩

/-- A walk reads memory and its poison alone (R84). -/
theorem walkFrom_congr {s t : State} (hm : t.mem = s.mem) (hp : t.poisoned = s.poisoned) (peer : Bool) (va table : Nat)
    (ls : List (Nat × Nat)) : walkFrom t peer va table ls = walkFrom s peer va table ls := by
  induction ls generalizing table with
  | nil => rfl
  | cons l ls ih =>
    simp only [walkFrom, State.lineBad, State.word, State.bytes, hm, hp, ih] <;> rfl

/-- A translation is the walk or the cached one, by the number of the choice (log entry 6). -/
theorem lookup_choice (s : State) (k : SMap Core) (n : Nat) (places : List TlbPlace) (space : Nat) (peer : Bool) (root va : Nat) :
    ({ s with cores := k, fresh := n } : State).lookup places space peer root va = match s.cached places space va with
      | none => walk s peer root va
      | some e => if walk s peer root va = .leaf e.base e.size e.frame e.w e.x e.s then walk s peer root va
        else if Config.useTlb n va then .leaf e.base e.size e.frame e.w e.x e.s else walk s peer root va := by
  have hwalk : walk { s with cores := k, fresh := n } peer root va = walk s peer root va := by
    unfold walk
    rw [walkFrom_congr (s := s) (t := { s with cores := k, fresh := n }) rfl rfl]
  have hcached : ({ s with cores := k, fresh := n } : State).cached places space va = s.cached places space va := rfl
  simp only [State.lookup, hwalk, hcached] <;> rfl

theorem lookup_nextChoice {s : State} (h : s.SteadyTlb) (k : SMap Core) (places : List TlbPlace) (space : Nat) (peer : Bool) (root va : Nat) :
    ({ s with cores := k, fresh := s.fresh + 1 } : State).lookup places space peer root va = s.lookup places space peer root va := by
  rw [lookup_choice, show s.lookup places space peer root va = _ from lookup_choice s s.cores s.fresh places space peer root va]
  rcases h with h | h
  · simp [State.cached, h]
  · rw [h]

/-- A part of an access is translated alike before and after the access takes its number. -/
theorem spot_nextOrder {s : State} (h : s.SteadyTlb) (c t : Nat) (w : Who) (k : AccessKind) (lane a : Nat) :
    (s.nextOrder c t).spot w k lane a = s.spot w k lane a := by
  obtain ⟨ks, hs⟩ := nextOrder_eq s c t
  rw [hs]
  simp only [State.spot, lookup_nextChoice h] <;> rfl

theorem joinParts_nextOrder {s : State} (h : s.SteadyTlb) (c t : Nat) (w : Who) (k : AccessKind) (lane : Nat) (acc : Target)
    (ps : List (Nat × Nat)) : (s.nextOrder c t).joinParts w k lane acc ps = s.joinParts w k lane acc ps := by
  induction ps generalizing acc with
  | nil => rfl
  | cons p ps ih => simp only [State.joinParts, spot_nextOrder h, ih]

theorem targetParts_nextOrder {s : State} (h : s.SteadyTlb) (c t : Nat) (w : Who) (k : AccessKind) (lane : Nat) (ps : List (Nat × Nat)) :
    (s.nextOrder c t).targetParts w k lane ps = s.targetParts w k lane ps := by
  cases ps with
  | nil => rfl
  | cons p ps => simp only [State.targetParts, spot_nextOrder h, joinParts_nextOrder h]

/-- What becomes of the lanes is the same before and after the access takes its number. -/
theorem fate_nextOrder {s : State} (h : s.SteadyTlb) (c t : Nat) (w : Who) (a : Access) (l : Nat) :
    (s.nextOrder c t).fate w a l = s.fate w a l := by
  have hdev : (s.nextOrder c t).devid = s.devid := by
    obtain ⟨k, hs⟩ := nextOrder_eq s c t
    rw [hs]
  simp only [State.fate, targetParts_nextOrder h, hdev]

theorem reaches_nextOrder {s : State} (h : s.SteadyTlb) (c t : Nat) (w : Who) (a : Access) :
    (s.nextOrder c t).reaches w a = s.reaches w a := by
  simp only [State.reaches, fate_nextOrder h]

theorem storesTo_nextOrder {s : State} (h : s.SteadyTlb) (c t : Nat) (w : Who) (a : Access) (pa : Nat) :
    (s.nextOrder c t).storesTo w a pa = s.storesTo w a pa := by
  simp only [State.storesTo, fate_nextOrder h]

end Sys2Proof.Machine

end

section

/-! O46 and O47 take the addresses that the lanes reach from before the access takes its number, and its performance from after it. That number
makes the next free choice between a cached translation and a walk (log entry 6): where the two choices agree the statements hold, and where
they differ on a translation that is out of date both fail. The model says nothing of the choices, so neither statement is settled. -/

namespace Sys2Proof.Machine
open Sys2Proof

/-- What O46 says where the translations are steady. -/
theorem storesKeepOtherBytes_of_steadyTlb {i : Instr} {s t : State} {cx : Ctx} {r : Req} {e : State × Access} {g : Nat → FlagSet}
    (hsteady : e.1.SteadyTlb) (h : s.ready? i = some cx) (hr : memReq cx i = some r) (hb : cx.bound r (cx.accessOf r) = some e)
    (hop : r.op.changes = true) (hos : (cx.accessOf r).origins = []) (hnow : cx.atIssue (cx.accessOf r) = true)
    (hreach : e.1.reaches cx.who (cx.accessOf r) = true) (he : memoryEffect cx i = some (t, g)) :
    exec i s = .next (cx.finish i t g) ∧
      ∀ pa, e.1.storesTo cx.who (cx.accessOf r) pa = false → (cx.finish i t g).byte pa = s.byte pa := by
  refine ⟨memoryInstructionsComplete i s t cx g h he, fun pa hpa => ?_⟩
  exact storesAtIssue_keepOtherBytes h hr hb hop hos hnow ((reaches_nextOrder hsteady ..).trans hreach) he
    ((storesTo_nextOrder hsteady ..).trans hpa)

/-- What O47 says where the translations are steady. -/
theorem lastLanesStoreRemains_of_steadyTlb {i : Instr} {s t : State} {cx : Ctx} {r : Req} {g : Nat → FlagSet} {n l pa base len : Nat}
    (hsteady : s.SteadyTlb) (h : s.ready? i = some cx) (hr : memReq cx i = some r) (hop : r.op = .store n)
    (hos : (cx.accessOf r).origins = []) (hnow : cx.atIssue (cx.accessOf r) = true) (hreach : s.reaches cx.who (cx.accessOf r) = true)
    (he : memoryEffect cx i = some (t, g)) (hl : (cx.accessOf r).lanes.getLsbD l = true)
    (hn : ((cx.accessOf r).hold.at? l).isNone = true) (hfate : (s.fate cx.who (cx.accessOf r) l).1 = .memory [(base, len)])
    (hlo : base ≤ pa) (hhi : pa < base + len)
    (hlast : ∀ m, l < m → s.storesTo cx.who { cx.accessOf r with lanes := (cx.accessOf r).lanes &&& laneBit m } pa = false) :
    exec i s = .next (cx.finish i t g) ∧
      (cx.finish i t g).byte pa = (leBytes n ((cx.accessOf r).dataAt l).toNat).getD (pa - base) 0 := by
  refine ⟨memoryInstructionsComplete i s t cx g h he, ?_⟩
  exact lastLanesStoreAtIssue_remains h hr hop hos hnow ((reaches_nextOrder hsteady ..).trans hreach) he hl hn
    ((congrArg Prod.fst (fate_nextOrder hsteady ..)).trans hfate) hlo hhi fun m hm => (storesTo_nextOrder hsteady ..).trans (hlast m hm)

/-- Where every choice comes out as the one before it, O46 holds. -/
theorem storesKeepOtherBytes_of_steady (hsteady : ∀ n va, Config.useTlb (n + 1) va = Config.useTlb n va) :
    Obligations.StoresKeepOtherBytes := by
  unfold Obligations.StoresKeepOtherBytes
  intro i s t cx r a e g h hr ha hb hop hos hnow hreach he
  subst ha
  exact storesKeepOtherBytes_of_steadyTlb (.inr (hsteady _)) h hr hb hop hos hnow hreach he

/-- Where every choice comes out as the one before it, O47 holds. -/
theorem lastLanesStoreRemains_of_steady (hsteady : ∀ n va, Config.useTlb (n + 1) va = Config.useTlb n va) :
    Obligations.LastLanesStoreRemains := by
  unfold Obligations.LastLanesStoreRemains
  intro i s t cx r a g n l pa base len h hr ha hop hos hnow hreach he hl hn hfate hlo hhi hlast
  subst ha
  exact lastLanesStoreRemains_of_steadyTlb (.inr (hsteady _)) h hr hop hos hnow hreach he hl hn hfate hlo hhi hlast

/-! A store through a translation that is out of date: where the choices of the first two accesses differ for its address, both statements
fail. -/

/-- The near page of partition 0, as another frame than that of the tables. -/
def staleEntry : TlbEntry :=
  { space := 0, place := .core 0, base := 0x400000000, size := 0x20000, frame := 0x20000, w := true, x := true, s := false }

/-- The small device of the tests, with a cached translation of its near page to another frame than its tables give. -/
@[irreducible] def stale : State := { Tests.small with tlb := [staleEntry] }

/-- It stores 3 at 0x400001000 on one lane. -/
def staleStore : Instr := .stW (.w 4) (.w 2) .zero

/-- What is needed of the store at issue. -/
structure StaleAccess (cx : Ctx) (r : Req) (a : Access) : Prop where
  ready : stale.ready? staleStore = some cx
  req : memReq cx staleStore = some r
  access : cx.accessOf r = a
  who : cx.who = { core := 0, part := 0 }
  op : a.op = .store 4
  lanes : a.lanes = laneBit 0
  addr : a.addr 0 = 0x400001000
  clean : a.addrPois 0 = none
  data : a.dataAt 0 = 3
  hold : a.hold = []
  origins : a.origins = []
  now : cx.atIssue a = true
  starts : (!cx.destBusy r && cx.accessClear a && !cx.sharedDest r.wide (r.dest.getD .zero)) = true

theorem staleStore_checks : (stale.ready? staleStore).any (fun cx => (memReq cx staleStore).any fun r => [cx.accessOf r].any fun a =>
    decide (cx.who = { core := 0, part := 0 } ∧ a.op = .store 4 ∧ a.lanes = laneBit 0 ∧ a.addr 0 = 0x400001000 ∧ a.addrPois 0 = none ∧
      a.dataAt 0 = 3 ∧ a.hold = [] ∧ a.origins = [] ∧ cx.atIssue a = true ∧
      (!cx.destBusy r && cx.accessClear a && !cx.sharedDest r.wide (r.dest.getD .zero)) = true)) = true := by decide +kernel

theorem exists_staleAccess : ∃ cx r a, StaleAccess cx r a := by
  obtain ⟨cx, hcx, h⟩ := (Option.any_eq_true ..).1 staleStore_checks
  obtain ⟨r, hr, h⟩ := (Option.any_eq_true ..).1 h
  obtain ⟨a, ha, h⟩ := List.any_eq_true.1 h
  obtain ⟨hwho, hop, hlanes, haddr, hclean, hdata, hhold, horigins, hnow, hstarts⟩ := of_decide_eq_true h
  exact ⟨cx, r, a, hcx, hr, (List.mem_singleton.1 ha).symm, hwho, hop, hlanes, haddr, hclean, hdata, hhold, horigins, hnow, hstarts⟩

/-- The physical address that the store reaches, by the choice between the cached translation and the walk. -/
def staleAddress (cached : Bool) : Nat := if cached then 0x21000 else 0x1000

/-- The translation of the store's address, by the number of the choice. -/
theorem lookup_stale (k : SMap Core) (n : Nat) : ({ stale with cores := k, fresh := n } : State).lookup (corePlaces 0) 0 false
    (({ stale with cores := k, fresh := n } : State).rootOf 0) 0x400001000 =
      if Config.useTlb n 0x400001000 then .leaf 0x400000000 0x20000 0x20000 true true false
      else .leaf 0x400000000 67108864 0 true true false := by
  have hwalk : walk stale false (stale.rootOf 0) 0x400001000 = .leaf 0x400000000 67108864 0 true true false := by decide +kernel
  have hcached : stale.cached (corePlaces 0) 0 0x400001000 = some staleEntry := by decide +kernel
  have hroot : ({ stale with cores := k, fresh := n } : State).rootOf 0 = stale.rootOf 0 := rfl
  rw [hroot, lookup_choice, hwalk, hcached]
  rfl

/-- An address that a leaf maps for an access is translated by it (R75, R85). -/
theorem spot_of_leaf {s : State} {w : Who} {k : AccessKind} {lane a va base size frame : Nat} {wr x sp : Bool}
    (hpower : (s.power == .stage1) = false) (hplace : w.place s.devid.toNat lane a = some va) (hregion : regionOf va ≠ .peer)
    {space : Nat} (hspace : w.space va = space)
    (hlookup : s.lookup (corePlaces w.core) space false (s.rootOf space) va = .leaf base size frame wr x sp)
    (hok : leafFault w.sys k wr x sp = none) : s.spot w k lane a = .memory (frame + (va - base)) := by
  simp [State.spot, hpower, hplace, hregion, hspace, hlookup, hok]

/-- The store's address is translated to the one or the other address, by the number of the choice. -/
theorem spot_stale (k : SMap Core) (n : Nat) : ({ stale with cores := k, fresh := n } : State).spot { core := 0, part := 0 } .store 0
    0x400001000 = .memory (staleAddress (Config.useTlb n 0x400001000)) := by
  have hpower : (stale.power == .stage1) = false := by decide +kernel
  have hplace : ({ core := 0, part := 0 } : Who).place stale.devid.toNat 0 0x400001000 = some 0x400001000 := by decide +kernel
  have hregion : regionOf 0x400001000 ≠ .peer := by decide +kernel
  have hspace : ({ core := 0, part := 0 } : Who).space 0x400001000 = 0 := by decide +kernel
  have hlookup := lookup_stale k n
  cases hb : Config.useTlb n 0x400001000 with
  | false =>
    rw [hb, if_neg Bool.false_ne_true] at hlookup
    exact (spot_of_leaf (s := { stale with cores := k, fresh := n }) hpower hplace hregion hspace hlookup (by rfl)).trans (by decide +kernel)
  | true =>
    rw [hb, if_pos rfl] at hlookup
    exact (spot_of_leaf (s := { stale with cores := k, fresh := n }) hpower hplace hregion hspace hlookup (by rfl)).trans (by decide +kernel)

/-- The store reaches the one or the other address, by the number of the choice. -/
theorem fate_stale {cx : Ctx} {r : Req} {a : Access} (h : StaleAccess cx r a) (k : SMap Core) (n : Nat) :
    ({ stale with cores := k, fresh := n } : State).fate cx.who a 0 =
      (.memory [(staleAddress (Config.useTlb n 0x400001000), 4)], []) := by
  have hparts : a.parts 0 = [(0x400001000, 4)] := by
    simp only [Access.parts, h.op, h.addr]
    decide +kernel
  have haligned : ((a.addr 0).toNat % (AccessOp.store 4).aligned != 0) = false := by
    rw [h.addr]
    decide +kernel
  simp only [State.fate, h.clean, h.op, haligned, AccessOp.kind, hparts, h.who, State.targetParts, spot_stale, Spot.target, State.joinParts,
    Bool.false_eq_true, if_false]

/-- The one lane of the store reaches memory, whichever the choice is. -/
theorem fates_stale {cx : Ctx} {r : Req} {a : Access} (h : StaleAccess cx r a) (k : SMap Core) (n : Nat) :
    ({ stale with cores := k, fresh := n } : State).fates cx.who a = [(0, .memory [(staleAddress (Config.useTlb n 0x400001000), 4)])] := by
  have hlanes : lanesOf a.lanes = [0] := by rw [h.lanes]; decide +kernel
  rw [State.fates, hlanes]
  simp only [List.map_cons, List.map_nil, fate_stale h]

theorem reaches_stale {cx : Ctx} {r : Req} {a : Access} (h : StaleAccess cx r a) (k : SMap Core) (n : Nat) :
    ({ stale with cores := k, fresh := n } : State).reaches cx.who a = true := by
  have hlanes : lanesOf a.lanes = [0] := by rw [h.lanes]; decide +kernel
  simp only [State.reaches, hlanes, List.all_cons, List.all_nil, fate_stale h] <;> rfl

theorem stale_fresh : stale.fresh = 0 := by decide +kernel

/-- The access takes its number: the choice that its performance sees is the next one. -/
theorem stale_nextOrder (c t : Nat) : ∃ k, stale.nextOrder c t = { stale with cores := k, fresh := 1 } := by
  obtain ⟨k, hk⟩ := nextOrder_eq stale c t
  exact ⟨k, by rw [hk, stale_fresh]⟩

/-- A lane that a store does not hold back is performed. -/
theorem performLanes_store {u : State} {w : Who} {t n l : Nat} {a : Access} {ps : List (Nat × Nat)} (hop : a.op = .store n)
    (hold : a.hold = []) : (u.performLanes w t a [(l, .memory ps)]).2.1 = laneBit l := by
  have hnone : a.hold.at? l = none := by rw [hold]; rfl
  simp [State.performLanes, Access.here, State.performLane, hop, hnone]

/-- The store is performed at issue. -/
theorem stale_effect {cx : Ctx} {r : Req} {a : Access} (h : StaleAccess cx r a) : ∃ t, memoryEffect cx staleStore = some (t, 0) := by
  have hop : r.op = .store 4 := (congrArg Access.op h.access).trans h.op
  obtain ⟨hs, -⟩ := ready_team h.ready
  obtain ⟨k, hk⟩ := stale_nextOrder cx.c cx.t
  obtain ⟨u, -, -, hleft⟩ := passAccess_performs (s := stale.nextOrder cx.c cx.t) (w := cx.who) (t := cx.t) (a := a) (pending := false)
    (by rw [h.op]; rfl) h.origins (by rw [← h.access]; rfl) (by rw [hk]; exact reaches_stale h k _)
  have hnone : ((stale.nextOrder cx.c cx.t).passAccess cx.who cx.t a none false).left = 0 := by
    rw [hleft, hk, fates_stale h, performLanes_store h.op h.hold]
    simp only [List.filter, Access.here, Option.isSome_some, List.map_cons, List.map_nil]
    decide +kernel
  rw [memoryEffect_access h.req, Ctx.accessEffect, h.access, need, if_pos h.starts, bound_store h.req hop, hs, Option.bind_some, Ctx.launched]
  simp only [h.now, hnone, beq_self_eq_true, need, if_true]
  exact ⟨_, rfl⟩

theorem stale_data {cx : Ctx} {r : Req} {a : Access} (h : StaleAccess cx r a) : (leBytes 4 (a.dataAt 0).toNat).getD 0 0 = 3 := by
  rw [h.data]
  decide +kernel

/-- No lane follows the store's one. -/
theorem storesTo_stale_after {cx : Ctx} {r : Req} {a : Access} {u : State} {m pa : Nat} (h : StaleAccess cx r a) (hm : 0 < m) :
    u.storesTo cx.who { a with lanes := a.lanes &&& laneBit m } pa = false := by
  have hnone : lanesOf (a.lanes &&& laneBit m) = [] := by
    refine List.eq_nil_iff_forall_not_mem.2 fun l hl => ?_
    have hin := mem_lanesOf.1 hl
    simp only [h.lanes, BitVec.getLsbD_and, getLsbD_laneBit, Bool.and_eq_true, decide_eq_true_eq] at hin
    omega
  simp only [State.storesTo, hnone, List.any_nil]

/-- The store leaves its data where the choice at its performance puts it. -/
theorem byte_stale_written {cx : Ctx} {r : Req} {a : Access} {t : State} (h : StaleAccess cx r a) (he : memoryEffect cx staleStore = some (t, 0)) :
    (cx.finish staleStore t 0).byte (staleAddress (Config.useTlb 1 0x400001000)) = 3 := by
  have hop : r.op = .store 4 := (congrArg Access.op h.access).trans h.op
  obtain ⟨k, hk⟩ := stale_nextOrder cx.c cx.t
  have hlast := lastLanesStoreAtIssue_remains (pa := staleAddress (Config.useTlb 1 0x400001000)) h.ready h.req hop (by rw [h.access, h.origins])
    (by rw [h.access, h.now]) (by rw [h.access, hk]; exact reaches_stale h k 1) he (l := 0) (by rw [h.access, h.lanes]; decide +kernel)
    (by rw [h.access, h.hold]; rfl) (by rw [h.access, hk, fate_stale h]) (Nat.le_refl _) (by omega)
    (fun m hm => by rw [h.access]; exact storesTo_stale_after h hm)
  rw [hlast, h.access, Nat.sub_self, stale_data h]

/-- Each of the two bytes is 0 before the store. -/
theorem stale_bytes (b : Bool) : stale.byte (staleAddress b) = 0 := by
  cases b <;> decide +kernel

/-- The store reaches no byte of the address that the other choice gives. -/
theorem storesTo_stale {cx : Ctx} {r : Req} {a : Access} (h : StaleAccess cx r a) (k : SMap Core) (n : Nat) {b : Bool}
    (hb : Config.useTlb n 0x400001000 = !b) : ({ stale with cores := k, fresh := n } : State).storesTo cx.who a (staleAddress b) = false := by
  have hlanes : lanesOf a.lanes = [0] := by rw [h.lanes]; decide +kernel
  simp only [State.storesTo, hlanes, List.any_cons, List.any_nil, fate_stale h, hb]
  cases b <;> simp [staleAddress]

/-- Where the choices differ, the store changes a byte that it did not reach when it began. -/
theorem not_storesKeepOtherBytes_of_ne (hne : Config.useTlb 0 0x400001000 ≠ Config.useTlb 1 0x400001000) :
    ¬ Obligations.StoresKeepOtherBytes := by
  unfold Obligations.StoresKeepOtherBytes
  intro hall
  obtain ⟨cx, r, a, h⟩ := exists_staleAccess
  obtain ⟨t, he⟩ := stale_effect h
  obtain ⟨hs, -⟩ := ready_team h.ready
  have hbound : cx.bound r a = some (stale, a) := hs ▸ bound_store h.req ((congrArg Access.op h.access).trans h.op) a
  have hreach : stale.reaches cx.who a = true := reaches_stale h stale.cores stale.fresh
  have hkept := (hall staleStore stale t cx r a (stale, a) 0 h.ready h.req h.access hbound (by rw [h.op]; rfl) h.origins h.now hreach he).2
    (staleAddress (Config.useTlb 1 0x400001000)) (storesTo_stale h stale.cores stale.fresh (by rw [stale_fresh]; exact Bool.eq_not.2 hne))
  rw [byte_stale_written h he, stale_bytes] at hkept
  exact absurd hkept (by decide)

/-- Where the choices differ, the store does not leave its data where it reached when it began. -/
theorem not_lastLanesStoreRemains_of_ne (hne : Config.useTlb 0 0x400001000 ≠ Config.useTlb 1 0x400001000) :
    ¬ Obligations.LastLanesStoreRemains := by
  unfold Obligations.LastLanesStoreRemains
  intro hall
  obtain ⟨cx, r, a, h⟩ := exists_staleAccess
  obtain ⟨t, he⟩ := stale_effect h
  obtain ⟨k, hk⟩ := stale_nextOrder cx.c cx.t
  obtain ⟨hs, -⟩ := ready_team h.ready
  have hop : r.op = .store 4 := (congrArg Access.op h.access).trans h.op
  have hreach : stale.reaches cx.who a = true := reaches_stale h stale.cores stale.fresh
  have hfate : (stale.fate cx.who a 0).1 = .memory [(staleAddress (Config.useTlb 0 0x400001000), 4)] :=
    (congrArg Prod.fst (fate_stale h stale.cores stale.fresh)).trans (by rw [stale_fresh])
  have hstored := (hall staleStore stale t cx r a 0 4 0 (staleAddress (Config.useTlb 0 0x400001000)) _ _ h.ready h.req h.access h.op h.origins
    h.now hreach he (by rw [h.lanes]; decide +kernel) (by rw [h.hold]; rfl) hfate (Nat.le_refl _) (by omega)
    fun m hm => storesTo_stale_after h hm).2
  have hkept := storesAtIssue_keepOtherBytes h.ready h.req (hs ▸ bound_store h.req hop _) (by rw [hop]; rfl) (by rw [h.access, h.origins])
    (by rw [h.access, h.now]) (by rw [h.access, hk]; exact reaches_stale h k 1) he
    (pa := staleAddress (Config.useTlb 0 0x400001000)) (by rw [h.access, hk]; exact storesTo_stale h k 1 (Bool.eq_not.2 hne.symm))
  rw [hkept, stale_bytes, Nat.sub_self, stale_data h] at hstored
  exact absurd hstored (by decide)

end Sys2Proof.Machine

end

section

/-! Floating-point, conversion and quantisation instructions whose operands are clear (R248-R257). -/

namespace Sys2Proof.Machine
open Sys2Proof

/-- No instruction stands in both the table of the floating-point instructions and that of the integer ones, which `resultOf` asks first. -/
theorem integerResult_of_float {cx : Ctx} {i : Instr} {r : Result} (h : floatResult cx i = some r) : integerResult cx i = none := by
  cases i with
  | fadd | fsub | fmul | ffma | fmin | fmax | fdiv | fcpsgn => rfl
  | frcp | frsq | fsqrt | fexp2 | flog2 | fsin | fcos | ftanh => rfl
  | fcmpEq | fcmpLt | fcmpLe | fcmpUn => rfl
  | cvtRn | cvtRz | cvtRd | cvtRu => rfl
  | qblk | qmx | dqblk => rfl
  | _ => cases h

theorem resultOf_float {cx : Ctx} {i : Instr} {r : Result} (h : floatResult cx i = some r) : resultOf cx i = some r := by
  rw [resultOf, integerResult_of_float h, h]; rfl

/-- Settles O10: what the table gives to a floating-point, conversion or quantisation instruction is its result, and a computing instruction
whose result is clear is done with it. -/
theorem floatInstructionsComplete : Obligations.FloatInstructionsComplete := by
  unfold Obligations.FloatInstructionsComplete
  intro i s cx r h hr hc
  exact exec_result h (resultOf_float hr) hc

end Sys2Proof.Machine

end

section

/-! Tensor instructions that nothing holds up, and `trel` (R265-R281, R275). -/

namespace Sys2Proof.Machine
open Sys2Proof

/-- Settles O17: each instruction of the table, its conditions met, is done with what the table gives. -/
theorem tensorInstructionsComplete : Obligations.TensorInstructionsComplete := by
  unfold Obligations.TensorInstructionsComplete
  intro i s t cx g h he
  exact tensorInstruction_completes h he

/-- An instruction whose body waits leaves the state as it was, and its splinter waits (R180). -/
theorem exec_stays {i : Instr} {r : Rules} {body : Ctx → Did} {s : State} {cx : Ctx} {w : Wait} (hr : rulesOf i = some r)
    (he : exec i = perform r body) (h : s.ready? i = some cx) (hb : body cx = .wait cx.s w) : exec i s = .next (cx.stay w) :=
  exec_ready hr he h hb

theorem isTile_of_isAcc {x : Operand} (h : isAcc x = true) : isTile x = false := by
  cases x with
  | a => rfl
  | _ => cases h

/-- The claim of a tile register of the team at issue given up (R275). -/
def Ctx.emptied (cx : Ctx) (n : Nat) : State := cx.s.onTeam cx.c cx.t fun z => { z with tiles := z.tiles.del n }

/-- The physical accumulator of a name of the team at issue, where it is bound, given back to the core (R275). -/
def Ctx.freed (cx : Ctx) (n : Nat) : State :=
  match SMap.at? cx.x.accs n with
  | none => cx.s
  | some i => cx.s.onCore cx.c fun k => { k with accs := k.accs.del i }

/-- A name of the team at issue unbound (R275). -/
def Ctx.unbound (cx : Ctx) (n : Nat) : State := (cx.freed n).onTeam cx.c cx.t fun z => { z with accs := z.accs.del n }

section
variable {s : State} {cx : Ctx} {x : Operand} (h : s.ready? (.trel x) = some cx)
include h

theorem exec_trel_tile_waits (hx : isTile x = true) (hp : cx.pendingOp (fun k => k.namesTile (bankNumber x)) = true) :
    exec (.trel x) s = .next (cx.stay .issue) :=
  exec_stays rfl rfl h ((if_pos hx).trans (if_pos hp))

theorem exec_trel_acc_waits (hx : isAcc x = true) (hp : cx.pendingOp (fun k => k.namesAcc (bankNumber x)) = true) :
    exec (.trel x) s = .next (cx.stay .issue) :=
  exec_stays rfl rfl h ((if_neg (by simp [isTile_of_isAcc hx])).trans (if_pos hp))

theorem exec_trel_tile (hx : isTile x = true) (hp : cx.pendingOp (fun k => k.namesTile (bankNumber x)) = false) :
    exec (.trel x) s = .next (cx.finish (.trel x) (cx.emptied (bankNumber x)) 0) :=
  tensorInstruction_completes h ((if_pos hx).trans (need_some.2 ⟨by simp [hp], rfl⟩))

theorem exec_trel_acc (hx : isAcc x = true) (hp : cx.pendingOp (fun k => k.namesAcc (bankNumber x)) = false) :
    exec (.trel x) s = .next (cx.finish (.trel x) (cx.unbound (bankNumber x)) 0) :=
  tensorInstruction_completes h ((if_neg (by simp [isTile_of_isAcc hx])).trans (need_some.2 ⟨by simp [hp], rfl⟩))

end

section
variable {cx : Ctx} (n : Nat) (h : cx.s.team? cx.c cx.t = some cx.x)
include h

theorem Ctx.team?_emptied : (cx.emptied n).team? cx.c cx.t = some { cx.x with tiles := cx.x.tiles.del n } := by
  rw [emptied, State.team?_onTeam_self, h]
  rfl

/-- The core's accumulators stand apart from its teams. -/
theorem Ctx.team?_freed : (cx.freed n).team? cx.c cx.t = some cx.x := by
  unfold freed
  split
  · exact h
  · rw [← h]
    exact State.team?_onCore_of_teams cx.s cx.c cx.c cx.t fun _ => rfl

theorem Ctx.team?_unbound : (cx.unbound n).team? cx.c cx.t = some { cx.x with accs := cx.x.accs.del n } := by
  rw [unbound, State.team?_onTeam_self, team?_freed n h]
  rfl

end

/-- The physical accumulator of a name that is unbound is free. -/
theorem Ctx.accs_unbound {cx : Ctx} {n k : Nat} (h : cx.x.accs.at? n = some k) : ((cx.unbound n).core cx.c).accs.at? k = none := by
  obtain ⟨ts, hcore⟩ := (cx.freed n).core_onTeam_teams cx.c cx.t fun z => { z with accs := z.accs.del n }
  rw [unbound, hcore]
  simp only [freed, h, State.core_onCore_self, SMap.at?_del_self]

/-- Settles O52: while an operation of the team names the operand `trel` stays at issue; else its claim, or its name with the physical
accumulator, is deleted from its table, which leaves every other entry, and a table without it as it is. -/
theorem releaseWaitsThenEmpties : Obligations.ReleaseWaitsThenEmpties := by
  unfold Obligations.ReleaseWaitsThenEmpties
  intro s cx x h
  obtain ⟨rfl, hteam, -⟩ := ready_team h
  refine ⟨exec_trel_tile_waits h, exec_trel_acc_waits h, fun hx hp => ?_, fun hx hp => ?_⟩
  · exact ⟨_, _, exec_trel_tile h hx hp, Ctx.team?_emptied _ hteam, SMap.at?_del_self .., fun n hn => SMap.at?_del_ne _ hn, rfl⟩
  · exact ⟨_, _, exec_trel_acc h hx hp, Ctx.team?_unbound _ hteam, SMap.at?_del_self .., fun n hn => SMap.at?_del_ne _ hn, rfl,
      fun k hk => Ctx.accs_unbound hk⟩

end Sys2Proof.Machine

end

section

/-! Copy, handle, pull and sampler instructions that nothing holds up (R286-R309, R335-R338). -/

namespace Sys2Proof.Machine
open Sys2Proof

/-- Acquires that stay within their core discard no lines (R109). -/
theorem State.discardLines_core {s : State} {c p : Nat} {sc : Scope} (h : beyondCore sc = false) : s.discardLines c p sc = s := by
  simp only [discardLines, h, Bool.not_false, if_true]

/-- A copy command that waits for nothing and traps on nothing is refused in its handle, complete at once, or in its queue (R288-R290). -/
theorem runCopy_done {cx : Ctx} {h : Nat} {d : CopyDesc} {plan : Bool} {e : StageEnd} {t : State} (hc : cx.copied h d plan = some t) :
    cx.runCopy h d plan e = .done (e.issued t) 0 := by
  obtain ⟨hn, hc⟩ := need_some.1 hc
  simp only [Bool.and_eq_true, Bool.not_eq_true'] at hn
  obtain ⟨⟨⟨howns, hstates⟩, hbar⟩, hfree⟩ := hn
  simp only [Ctx.runCopy, howns, hstates, hbar, hfree, Bool.false_eq_true, if_false]
  split at hc
  next hrefused =>
    cases hc
    exact if_pos hrefused
  next hrefused =>
    obtain ⟨hroom, hc⟩ := need_some.1 hc
    simp only [if_neg hrefused, hroom, Bool.not_true, Bool.false_eq_true, if_false]
    split at hc
    next hlen =>
      cases hc
      exact if_pos hlen
    next hlen =>
      rw [if_neg hlen]
      split at hc
      next l1 l2 ls hlocks =>
        cases hc
        rfl
      · cases hc

/-- `cp` and `cp.sg` whose descriptor has been read (R286-R290). -/
theorem copyAt_done {cx : Ctx} {x : Operand} {h : Nat} {sg : Bool} {t : State} {g : Nat → FlagSet}
    (he : cx.copyEffect x h sg = some (t, g)) : cx.copyAt x h sg = .done t g := by
  obtain ⟨hn, he⟩ := need_some.1 he
  obtain ⟨r, hread, he⟩ := Option.bind_eq_some_iff.1 he
  obtain ⟨u, hcopied, hg⟩ := Option.map_eq_some_iff.1 he
  cases hg
  simp only [Bool.and_eq_true] at hn
  obtain ⟨⟨hm, hp⟩, hown⟩ := hn
  rw [Ctx.copyAt, behind_unmarked hm, blockOn_clear hp, withHandle_owned hown]
  exact (readOwn_read hread).trans (runCopy_done hcopied)

/-- `cp.step` whose plan and stage have been read (R292). -/
theorem exec_cpStep {s t : State} {cx : Ctx} {x : Operand} {g : Nat → FlagSet} (h : s.ready? (.cpStep x) = some cx)
    (he : cx.stepEffect x = some (t, g)) : exec (.cpStep x) s = .next (cx.finish (.cpStep x) t g) := by
  obtain ⟨hn, he⟩ := need_some.1 he
  obtain ⟨r, hhead, he⟩ := Option.bind_eq_some_iff.1 he
  obtain ⟨hrest, he⟩ := need_some.1 he
  obtain ⟨q, hstage, he⟩ := Option.bind_eq_some_iff.1 he
  obtain ⟨u, hcopied, hg⟩ := Option.bind_eq_some_iff.1 he
  obtain ⟨rfl, rfl⟩ := gives_some.1 hg
  simp only [Bool.and_eq_true, Bool.not_eq_true', bne_iff_ne, ne_eq] at hn
  obtain ⟨⟨hm, hplan⟩, hd⟩ := hn
  refine exec_done rfl rfl h ((behind_unmarked hm).trans ?_)
  simp only [hplan, hd, Bool.false_eq_true, if_false]
  refine (readOwn_read hhead).trans ?_
  refine (if_neg fun hbad => bne_iff_ne.1 hbad (beq_iff_eq.1 hrest)).trans ?_
  exact (readOwn_read hstage).trans (runCopy_done hcopied)

/-- A job that its queue has room for is in it, with X symbolic where it takes a symbol (R63, R336). -/
theorem enterJob_done {cx : Ctx} {x : Operand} {j : SamplerJob} {t : State} {g : Nat → FlagSet} (he : cx.entered x j = some (t, g)) :
    cx.enterJob x j = .done t g := by
  obtain ⟨hroom, he⟩ := need_some.1 he
  rw [Ctx.enterJob, if_neg (Nat.not_le.2 (of_decide_eq_true hroom))]
  split at he
  next hsym =>
    obtain ⟨e, hn, hg⟩ := Option.bind_eq_some_iff.1 he
    obtain ⟨rfl, rfl⟩ := gives_some.1 hg
    simp only [hsym, hn, Bool.not_true, Bool.false_eq_true, if_false]
  next hsym =>
    obtain ⟨rfl, rfl⟩ := gives_some.1 he
    simp only [Bool.eq_false_iff.2 hsym, Bool.not_false, if_true]

/-- `smp` whose handles and ranges are free, or whose job has been registered before (R336). -/
theorem exec_smp {s t : State} {cx : Ctx} {x y : Operand} {h : BitVec 6} {g : Nat → FlagSet} (hr : s.ready? (.smp x y h) = some cx)
    (he : cx.smpEffect x y h.toNat = some (t, g)) : exec (.smp x y h) s = .next (cx.finish (.smp x y h) t g) := by
  obtain ⟨hn, he⟩ := need_some.1 he
  simp only [Bool.and_eq_true, beq_iff_eq, bne_iff_ne, ne_eq] at hn
  obtain ⟨⟨⟨⟨⟨⟨hm, hp⟩, hown⟩, hhigh⟩, hlow⟩, hother⟩, hlogits⟩ := hn
  have hword : (bits (cx.uval y).toNat 56 8 != 0 || bits (cx.uval y).toNat 0 4 != 0 || bits (cx.uval y).toNat 4 6 == h.toNat) = false := by
    simp [hhigh, hlow, hother]
  refine exec_done rfl rfl hr ((behind_unmarked hm).trans ((blockOn_clear hp).trans ((withHandle_owned hown).trans ?_)))
  refine (if_neg (Bool.eq_false_iff.1 hword)).trans ((withHandle_owned hlogits).trans ?_)
  dsimp only at he ⊢
  cases hj : cx.offeredJob (cx.jobOf (cx.uval y).toNat h.toNat) with
  | some j =>
    rw [hj] at he
    simp only [Ctx.jobOf] at hj
    rw [hj]
    exact enterJob_done he
  | none =>
    rw [hj] at he
    obtain ⟨hc, he⟩ := need_some.1 he
    simp only [Bool.and_eq_true, beq_iff_eq, Bool.not_eq_true'] at hc
    obtain ⟨⟨⟨hfull, hempty⟩, hsrc⟩, hdst⟩ := hc
    simp only [Ctx.jobOf] at hj hdst
    rw [hj]
    simp only [hfull, hempty, hsrc, hdst, bne_self_eq_false, Bool.or_self, Bool.false_eq_true, if_false]
    split at he
    · next l1 l2 ls hlocks => exact enterJob_done he
    · cases he

/-- A handle that is FULL, or posted with no access of the team waiting, is given up (R294). -/
theorem exec_hSetFree {s t : State} {cx : Ctx} {n : BitVec 6} {g : Nat → FlagSet} (h : s.ready? (.hSetFree n) = some cx)
    (he : engineEffect cx (.hSetFree n) = some (t, g)) : exec (.hSetFree n) s = .next (cx.finish (.hSetFree n) t g) := by
  obtain ⟨hown, he⟩ := need_some.1 he
  refine exec_done rfl rfl h ((withHandle_owned hown).trans ?_)
  dsimp only at he ⊢
  split at he
  next hfull =>
    obtain ⟨rfl, rfl⟩ := gives_some.1 he
    rw [hfull]
  next hfull =>
    obtain ⟨hc, hg⟩ := need_some.1 he
    obtain ⟨rfl, rfl⟩ := gives_some.1 hg
    simp only [Bool.and_eq_true, beq_iff_eq, Bool.not_eq_true'] at hc
    obtain ⟨⟨hfilling, hposted⟩, hsettled⟩ := hc
    simp only [hfilling, hposted, hsettled, Bool.not_true, Bool.false_eq_true, if_false]

/-- A FULL handle of the partition lets `h.wait` return, an acquire at its scope (R109, R293). -/
theorem exec_hWait_full {s : State} {cx : Ctx} {n : BitVec 6} (h : s.ready? (.hWait n) = some cx) (hown : cx.ownsHandle n.toNat = true)
    (hfull : (cx.s.handle cx.c n.toNat).st = .full) :
    exec (.hWait n) s = .next (cx.finish (.hWait n) (cx.writeP15 (cx.s.discardLines cx.c cx.who.part (cx.s.handle cx.c n.toNat).scope)
      fun _ => (cx.s.handle cx.c n.toNat).err != 0) 0) :=
  exec_done rfl rfl h ((withHandle_owned hown).trans (if_neg fun hne => bne_iff_ne.1 hne hfull))

/-- A message over a path that the team's handle can start leaves by it, or ends at once where its endpoint has no entry (R298). -/
theorem exec_pullReq {s t : State} {cx : Ctx} {x : Operand} {n : BitVec 6} {g : Nat → FlagSet} (h : s.ready? (.pullReq x n) = some cx)
    (he : engineEffect cx (.pullReq x n) = some (t, g)) : exec (.pullReq x n) s = .next (cx.finish (.pullReq x n) t g) := by
  obtain ⟨hc, he⟩ := need_some.1 he
  simp only [Bool.and_eq_true, beq_iff_eq, Bool.not_eq_true'] at hc
  obtain ⟨⟨⟨⟨⟨hm, hp⟩, hown⟩, hfull⟩, hok⟩, hfree⟩ := hc
  refine exec_done rfl rfl h ((behind_unmarked hm).trans ((blockOn_clear hp).trans ((withHandle_owned hown).trans ?_)))
  simp only [hfull, hok, hfree, bne_self_eq_false, Bool.false_eq_true, if_false]
  split at he
  next hnone =>
    obtain ⟨rfl, rfl⟩ := gives_some.1 he
    exact if_pos hnone
  next hnone =>
    obtain ⟨l, hl, hg⟩ := Option.bind_eq_some_iff.1 he
    obtain ⟨rfl, rfl⟩ := gives_some.1 hg
    obtain ⟨ls, hls⟩ : ∃ ls, cx.freeLocks = l :: ls := List.head?_eq_some_iff.1 hl
    rw [if_neg hnone, hls]

/-- A FREE handle whose range lies in the core's slice and is free is posted (R300). -/
theorem exec_grantCfg {s t : State} {cx : Ctx} {x y : Operand} {n : BitVec 6} {g : Nat → FlagSet}
    (h : s.ready? (.grantCfg x y n) = some cx) (he : engineEffect cx (.grantCfg x y n) = some (t, g)) :
    exec (.grantCfg x y n) s = .next (cx.finish (.grantCfg x y n) t g) := by
  obtain ⟨hc, he⟩ := need_some.1 he
  obtain ⟨sc, hsc, he⟩ := Option.bind_eq_some_iff.1 he
  simp only [Bool.and_eq_true, beq_iff_eq, Bool.not_eq_true', bne_iff_ne, ne_eq] at hc
  obtain ⟨⟨⟨⟨⟨⟨hp, hown⟩, hempty⟩, hcount⟩, hword⟩, hin⟩, hfree⟩ := hc
  refine exec_done rfl rfl h ((blockOn_clear hp).trans ((withHandle_owned hown).trans ?_))
  simp only [hempty, hsc, hword, hin, hfree, beq_false_of_ne hcount, bne_self_eq_false, Bool.not_true, Bool.or_self, Bool.false_eq_true,
    if_false]
  split at he
  next hlen =>
    obtain ⟨rfl, rfl⟩ := gives_some.1 he
    exact if_pos hlen
  next hlen =>
    obtain ⟨l, hl, hg⟩ := Option.bind_eq_some_iff.1 he
    obtain ⟨rfl, rfl⟩ := gives_some.1 hg
    obtain ⟨ls, hls⟩ : ∃ ls, cx.freeLocks = l :: ls := List.head?_eq_some_iff.1 hl
    rw [if_neg hlen, hls]

theorem engineInstruction_completes {i : Instr} {s t : State} {cx : Ctx} {g : Nat → FlagSet} (h : s.ready? i = some cx)
    (he : engineEffect cx i = some (t, g)) : exec i s = .next (cx.finish i t g) := by
  cases i
  case cp x n => exact exec_done rfl rfl h (copyAt_done he)
  case cpSg x n => exact exec_done rfl rfl h (copyAt_done he)
  case cpStep x => exact exec_cpStep h he
  case hWait n =>
    obtain ⟨hc, hg⟩ := need_some.1 he
    obtain ⟨rfl, rfl⟩ := gives_some.1 hg
    obtain ⟨hown, hfull⟩ := Bool.and_eq_true_iff.1 hc
    exact exec_hWait_full h hown (beq_iff_eq.1 hfull)
  case hSet x y n =>
    obtain ⟨hc, he⟩ := need_some.1 he
    obtain ⟨sc, hsc, hg⟩ := Option.bind_eq_some_iff.1 he
    obtain ⟨rfl, rfl⟩ := gives_some.1 hg
    simp only [Bool.and_eq_true, beq_iff_eq, Bool.not_eq_true'] at hc
    obtain ⟨⟨⟨⟨hp, hown⟩, hword⟩, hempty⟩, hsettled⟩ := hc
    refine exec_done rfl rfl h ((blockOn_clear hp).trans ((withHandle_owned hown).trans ?_))
    simp only [hsc, hword, hempty, hsettled, bne_self_eq_false, Bool.or_self, Bool.false_eq_true, if_false]
  case hSetFree n => exact exec_hSetFree h he
  case hQ x n | xferQ x n | smpQ x n =>
    obtain ⟨hc, hg⟩ := need_some.1 he
    obtain ⟨rfl, rfl⟩ := gives_some.1 hg
    obtain ⟨hown, hd⟩ := Bool.and_eq_true_iff.1 hc
    exact exec_done rfl rfl h ((withHandle_owned hown).trans (if_neg (by simpa using hd)))
  case pullReq x n => exact exec_pullReq h he
  case grantCfg x y n => exact exec_grantCfg h he
  case smp x y n => exact exec_smp h he
  all_goals cases he

/-- Settles O16, instruction by instruction: what the table asks for is what the instruction's own checks ask for. -/
theorem engineInstructionsComplete : Obligations.EngineInstructionsComplete := by
  unfold Obligations.EngineInstructionsComplete
  exact fun _ _ _ _ _ => engineInstruction_completes

/-- Settles O53: `h.wait` looks at the state of its handle alone, and the return from a handle whose scope stays within the core discards no
line. -/
theorem handleWaitHoldsUntilFull : Obligations.HandleWaitHoldsUntilFull := by
  unfold Obligations.HandleWaitHoldsUntilFull
  intro s cx n h hown k
  obtain ⟨rfl, -⟩ := ready_team h
  refine ⟨fun hk => ?_, fun hk hsc => ?_⟩
  · exact exec_ready rfl rfl h ((withHandle_owned hown).trans (if_pos (bne_iff_ne.2 hk)))
  · rw [exec_hWait_full h hown hk, State.discardLines_core hsc]

end Sys2Proof.Machine

end

section

/-! The handler's instructions that nothing holds up (R363-R377). -/

namespace Sys2Proof.Machine
open Sys2Proof

/-- A write of a control register by an instruction of any of its names (R371). -/
theorem ctlWriteAs_done {i : Instr} {s t : State} {cx : Ctx} {d : Operand} {r : Option Ctl} {g : Nat → FlagSet}
    (h : s.ready? i = some cx) (he : cx.ctlEffect d r = some (t, g)) (hx : exec i = ctlWriteAs d r)
    (hr : rulesOf i = some { ops := [d], priv := true, wf := r.isSome, ok := fun cx => cx.isU d }) :
    exec i s = .next (cx.finish i t g) := by
  obtain ⟨hp, he⟩ := need_some.1 he
  obtain ⟨q, rfl, hg⟩ := Option.bind_eq_some_iff.1 he
  obtain ⟨rfl, rfl⟩ := gives_some.1 hg
  exact exec_done hr hx h (blockOn_clear hp)

/-- The oldest record of a queue that translates and is not poisoned is taken (R373). -/
theorem takeRecord_done {cx : Ctx} {d : Operand} {p : Nat} {t : State} {g : Nat → FlagSet} (he : cx.popEffect d p = some (t, g)) :
    cx.takeRecord d p = .done t g := by
  unfold Ctx.popEffect at he
  unfold Ctx.takeRecord
  dsimp only at he ⊢
  split at he
  · cases he
  next ps hps =>
    obtain ⟨hbad, hg⟩ := need_some.1 he
    obtain ⟨rfl, rfl⟩ := gives_some.1 hg
    simp only [hps, Option.isNone_iff_eq_none.1 hbad]

/-- Bytes of an area that translates are stored, and the instruction goes on (R376). -/
theorem writeArea_ok {cx : Ctx} {s : State} {a : Nat} {bs : List Byte} {ps : List (Nat × Nat)} {k : State → Did}
    (h : s.rangeParts cx.who .store (chunksOf a bs.length) = .ok ps) : cx.writeArea s a bs k = k (s.storeParts cx.who ps bs) := by
  simp only [Ctx.writeArea, h]

/-- Bytes of an area that can be read are, and the instruction goes on (R376). -/
theorem readArea_bytes {cx : Ctx} {a n : Nat} {bs : List Byte} {k : List Byte → Did} (h : cx.areaBytes a n = some bs) :
    cx.readArea a n k = k bs := by
  unfold Ctx.areaBytes at h
  unfold Ctx.readArea
  split at h
  · cases h
  next ps hps =>
    obtain ⟨hbad, hbs⟩ := need_some.1 h
    cases hbs
    simp only [hps, Option.isNone_iff_eq_none.1 hbad]

/-- A team that nothing keeps on its core is saved (R376, R385). -/
theorem saveTeam_done {cx : Ctx} {w : Nat} {t : State} {g : Nat → FlagSet} (he : cx.saveTeamEffect w = some (t, g)) :
    cx.saveTeam w = .done t g := by
  obtain ⟨x, hx, he⟩ := Option.bind_eq_some_iff.1 he
  obtain ⟨hc, he⟩ := need_some.1 he
  simp only [Bool.and_eq_true, Bool.not_eq_true'] at hc
  obtain ⟨⟨hout, hother⟩, hready⟩ := hc
  simp only [Ctx.saveTeam, hx, hout, hother, hready, Bool.false_and, Bool.or_self, Bool.false_eq_true, if_false, if_true]
  dsimp only at he
  split at he
  · cases he
  next ps hps =>
    obtain ⟨rfl, rfl⟩ := gives_some.1 he
    exact writeArea_ok hps

/-- A partition whose teams and Caller have stopped is saved (R308, R376). -/
theorem savePart_done {cx : Ctx} {w : Nat} {t : State} {g : Nat → FlagSet} (he : cx.savePartEffect w = some (t, g)) :
    cx.savePart w = .done t g := by
  obtain ⟨hc, he⟩ := need_some.1 he
  simp only [Bool.and_eq_true, Bool.not_eq_true'] at hc
  obtain ⟨⟨⟨hsaver, hload⟩, hstopped⟩, hcaller⟩ := hc
  have hready : cx.savePart w = cx.writeArea (cx.s.preempt (bits w 0 3) cx.agent) (areaAddr w)
      ((cx.s.preempt (bits w 0 3) cx.agent).partArea (bits w 0 3)) fun s => .done (cx.writeP15 (s.removePart (bits w 0 3)) fun _ => true) 0 := by
    cases hs : (cx.s.part (bits w 0 3)).saver with
    | none => simp only [Ctx.savePart, hs, hload, hstopped, hcaller, Bool.and_self, Bool.or_self, Bool.false_eq_true, if_false, if_true]
    | some n =>
      rw [hs] at hsaver
      have hmine : (n != cx.agent) = false := bne_eq_false_iff_eq.2 (beq_iff_eq.1 hsaver)
      simp only [Ctx.savePart, hs, hmine, hload, hstopped, hcaller, Bool.and_self, Bool.or_self, Bool.false_eq_true, if_false, if_true]
  dsimp only at he
  split at he
  · cases he
  next ps hps =>
    obtain ⟨rfl, rfl⟩ := gives_some.1 he
    exact hready.trans (writeArea_ok hps)

/-- A team whose area can be read, and is refused nowhere, is restored (R376, R396, R397). -/
theorem loadTeam_done {cx : Ctx} {w : Nat} {t : State} {g : Nat → FlagSet} (he : cx.loadTeamEffect w = some (t, g)) :
    cx.loadTeam w = .done t g := by
  obtain ⟨h, hh, he⟩ := Option.bind_eq_some_iff.1 he
  obtain ⟨hsize, he⟩ := need_some.1 he
  obtain ⟨bs, hbs, he⟩ := Option.bind_eq_some_iff.1 he
  obtain ⟨r, hr, he⟩ := Option.bind_eq_some_iff.1 he
  obtain ⟨hc, he⟩ := need_some.1 he
  obtain ⟨e, hentry, he⟩ := Option.bind_eq_some_iff.1 he
  obtain ⟨u, hplace, hg⟩ := Option.bind_eq_some_iff.1 he
  obtain ⟨rfl, rfl⟩ := gives_some.1 hg
  simp only [Bool.and_eq_true, Bool.not_eq_true', decide_eq_true_eq] at hsize hc
  obtain ⟨hidle, hok⟩ := hc
  obtain ⟨hlow, hhigh⟩ := hsize
  simp only [Ctx.loadTeam, readArea_bytes hh, readArea_bytes hbs, hr, hidle, hok, hentry, hplace, Ctx.finishLoad, Nat.not_lt.2 hlow,
    Nat.not_lt.2 hhigh, decide_false, Bool.or_self, Bool.false_eq_true, if_false]

/-- A partition whose area can be read, and is refused nowhere, is restored (R308, R376, R398). -/
theorem loadPart_done {cx : Ctx} {w : Nat} {t : State} {g : Nat → FlagSet} (he : cx.loadPartEffect w = some (t, g)) :
    cx.loadPart w = .done t g := by
  obtain ⟨hidle, he⟩ := need_some.1 he
  obtain ⟨h, hh, he⟩ := Option.bind_eq_some_iff.1 he
  obtain ⟨hsize, he⟩ := need_some.1 he
  obtain ⟨bs, hbs, he⟩ := Option.bind_eq_some_iff.1 he
  obtain ⟨e, hcut, he⟩ := Option.bind_eq_some_iff.1 he
  obtain ⟨r, hr, he⟩ := Option.bind_eq_some_iff.1 he
  obtain ⟨hok, he⟩ := need_some.1 he
  obtain ⟨u, hplace, hg⟩ := Option.bind_eq_some_iff.1 he
  obtain ⟨rfl, rfl⟩ := gives_some.1 hg
  simp only [Bool.and_eq_true, beq_iff_eq, Bool.not_eq_true', decide_eq_true_eq] at hidle hsize hok
  obtain ⟨⟨hlow, hhigh⟩, hpart⟩ := hsize
  simp only [Ctx.loadPart, hidle, readArea_bytes hh, readArea_bytes hbs, hcut, hr, hok, hplace, Ctx.finishLoad, Bool.or_eq_true, decide_eq_true_eq,
    Nat.not_lt.2 hlow, Nat.not_lt.2 hhigh, hpart, bne_self_eq_false, or_self, Bool.false_eq_true, if_false]

theorem handlerInstruction_completes {i : Instr} {s t : State} {cx : Ctx} {g : Nat → FlagSet} (h : s.ready? i = some cx)
    (he : systemEffect cx i = some (t, g)) : exec i s = .next (cx.finish i t g) := by
  cases i
  case ctlR d n =>
    obtain ⟨rfl, rfl⟩ := gives_some.1 he
    exact exec_done rfl rfl h rfl
  case ctlW d n => exact ctlWriteAs_done h he rfl rfl
  case devid d => exact ctlWriteAs_done h he rfl rfl
  case fqhead d p => exact ctlWriteAs_done h he rfl rfl
  case fqbase d p => exact ctlWriteAs_done h he rfl rfl
  case tlbInv d k p =>
    obtain ⟨hc, hg⟩ := need_some.1 he
    obtain ⟨rfl, rfl⟩ := gives_some.1 hg
    simp only [Bool.and_eq_true, Bool.not_eq_true'] at hc
    obtain ⟨⟨hp, hleft⟩, hheld⟩ := hc
    refine exec_done rfl rfl h ((blockOn_clear hp).trans (if_neg (Bool.eq_false_iff.1 ?_)))
    exact Bool.or_eq_false_iff.2 ⟨hleft, hheld⟩
  case faultPop d p =>
    refine exec_done rfl rfl h ?_
    simp only [systemEffect] at he
    split at he
    next hempty =>
      obtain ⟨rfl, rfl⟩ := gives_some.1 he
      exact if_pos hempty
    next hempty => exact (if_neg hempty).trans (takeRecord_done he)
  case faultPopW d p =>
    obtain ⟨hc, he⟩ := need_some.1 he
    exact exec_done rfl rfl h ((if_neg (bne_iff_ne.1 hc)).trans (takeRecord_done he))
  case faultDone d ans =>
    obtain ⟨hc, hg⟩ := need_some.1 he
    obtain ⟨rfl, rfl⟩ := gives_some.1 hg
    obtain ⟨hp, hleft⟩ := Bool.and_eq_true_iff.1 hc
    exact exec_done rfl rfl h ((blockOn_clear hp).trans (if_neg (by simpa using hleft)))
  case teamPark d | teamWake d =>
    obtain ⟨hp, hg⟩ := need_some.1 he
    obtain ⟨rfl, rfl⟩ := gives_some.1 hg
    exact exec_done rfl rfl h (blockOn_clear hp)
  case ctxSave d k =>
    obtain ⟨hc, he⟩ := need_some.1 he
    obtain ⟨hp, hword⟩ := Bool.and_eq_true_iff.1 hc
    refine exec_done rfl rfl h ((blockOn_clear hp).trans ((if_neg (Bool.eq_false_iff.1 ((Bool.not_eq_true' _).mp hword))).trans ?_))
    cases k
    · exact saveTeam_done he
    · exact savePart_done he
  case ctxLoad d k =>
    obtain ⟨hc, he⟩ := need_some.1 he
    obtain ⟨hp, hword⟩ := Bool.and_eq_true_iff.1 hc
    refine exec_done rfl rfl h ((blockOn_clear hp).trans ((if_neg (Bool.eq_false_iff.1 ((Bool.not_eq_true' _).mp hword))).trans ?_))
    cases k
    · exact loadTeam_done he
    · exact loadPart_done he
  case halt =>
    obtain ⟨rfl, rfl⟩ := gives_some.1 he
    exact exec_done rfl rfl h rfl
  all_goals cases he

/-- Settles O18, instruction by instruction: what the table asks for is what the instruction's own checks ask for. -/
theorem handlerInstructionsComplete : Obligations.HandlerInstructionsComplete := by
  unfold Obligations.HandlerInstructionsComplete
  exact fun _ _ _ _ _ => handlerInstruction_completes

end Sys2Proof.Machine

end

section

/-! What system mode refuses (R357, R359). -/

namespace Sys2Proof.Machine
open Sys2Proof

/-- The instructions of the majors that system mode does not admit, but for those that act for ACTP, are ones whose rules do not admit
it (R357). -/
theorem inSys_of_sysIllegal {i : Instr} {r : Rules} {w : BitVec 32} (hw : encode i = some w) (hr : rulesOf i = some r)
    (hm : sysIllegal (w.extractLsb' 26 6).toNat = true) (ha : actsForActp i = false) : r.inSys = false := by
  cases i with
  | joinArr | joinSet | joinAdd | joinClr | joinRem | shfl | shflX | shflUp | shflDn | voteAny | voteAll | ballot | voteEq | redwAdd
  | redwFadd | redwFmax | redwFmin | topkIns | topkClr
  | sput | sgetC | sget | sq | flowRel | tclaim | trel | tload | mma | mfence | mwait | accZero | accLd | accSt | accMv | tinfo =>
    cases hr
    rfl
  | flowSet | flowQ => cases ha
  | _ => cases hw <;> simp [sysIllegal] at hm

/-- A group that is illegal in system mode meets a double trap, with the address of the group (R359). -/
theorem exec_illegal_sys {i : Instr} {r : Rules} {s : State} {cx : Ctx} (hr : rulesOf i = some r) (hc : s.ctx? = some cx)
    (hsys : cx.sys = true) (hi : cx.illegal r = true) : exec i s = .next (cx.s.doubleTrap cx.c cx.t .illegal 0xF cx.iaddr) := by
  obtain ⟨body, he⟩ := exec_performs hr
  obtain ⟨-, hs, -, -, -, hx, -, hmode⟩ := ctx_some hc
  have hin : cx.x.inSys = true := hmode ▸ hsys
  rw [he, perform_illegal hc hi, hs]
  simp only [Ctx.settle, Ctx.live, hsys, if_true, State.trapOn, hx, hin, Option.getD_none]

/-- Settles O23: each of these instructions is illegal by its rules, and what is illegal in system mode is a double trap. -/
theorem systemModeRefusesTheseInstructions : Obligations.SystemModeRefusesTheseInstructions := by
  unfold Obligations.SystemModeRefusesTheseInstructions
  intro i r w s cx hw hr hc hsys hrefused
  refine exec_illegal_sys hr hc hsys ?_
  rcases hrefused with ⟨hm, ha⟩ | rfl | ⟨rfl, hformed⟩
  · simp [Ctx.illegal, hsys, inSys_of_sysIllegal hw hr hm ha]
  · cases hr
    simp [Ctx.illegal, hsys]
  · cases hr
    simp [Ctx.illegal, hsys, hformed]

end Sys2Proof.Machine

end

section

/-! Traps and returns (R355-R356, R364-R365, R369-R370). -/

namespace Sys2Proof.Machine
open Sys2Proof

/-! ESTAT (R365). -/

/-- ESTAT as a number, for a partition and a code that fit their fields. -/
theorem toNat_estatOf_eq {part glen : Nat} {cd : Condition} (hp : part < 8) (hg : glen < 8) (hc : cd.code < 4096) :
    (estatOf part cd glen).toNat = (maskWord cd.lanes (lowWord cd.lanes)).toNat * 2 ^ 32 + lowWord cd.lanes * 2 ^ 27 +
      (if cd.deferred then 0 else glen) * 2 ^ 24 + part * 2 ^ 17 + (if cd.deferred then 2 ^ 16 else 0) + cd.code * 2 ^ 4 +
      cd.cause.code := by
  have hlow := lowWord_lt cd.lanes
  have hcause := cd.cause.code_lt
  have hmask := (maskWord cd.lanes (lowWord cd.lanes)).isLt
  refine (BitVec.toNat_ofNat ..).trans (Nat.mod_eq_of_lt ?_)
  split <;> omega

/-- A field of a word that holds a number, from the word as a number. -/
theorem field_eq_ofNat {e : W64} {v x : Nat} (h : e.toNat = v) {lo n : Nat} (hx : v / 2 ^ lo % 2 ^ n = x % 2 ^ n) :
    e.extractLsb' lo n = BitVec.ofNat n x :=
  BitVec.eq_of_toNat_eq ((toNat_field h lo n).trans (hx.trans (BitVec.toNat_ofNat ..).symm))

/-- A bit of a word, from the word as a number. -/
theorem bit_eq_decide {e : W64} {v : Nat} (h : e.toNat = v) (n : Nat) : e.getLsbD n = decide (v / 2 ^ n % 2 = 1) := by
  rw [BitVec.getLsbD, h, Nat.testBit_eq_decide_div_mod_eq]

/-- Settles O56: the parts of ESTAT fit the fields between their places, so none reaches into another. -/
theorem estatFields : Obligations.EstatFields := by
  unfold Obligations.EstatFields
  intro part glen cd hp hg hc e
  have he : e.toNat = _ := toNat_estatOf_eq hp hg hc
  have hlow := lowWord_lt cd.lanes
  have hcause := cd.cause.code_lt
  have hmask := (maskWord cd.lanes (lowWord cd.lanes)).isLt
  have hglen : (if cd.deferred then 0 else BitVec.ofNat 3 glen) = BitVec.ofNat 3 (if cd.deferred then 0 else glen) := by split <;> rfl
  rw [bit_eq_decide he 16, hglen]
  cases hd : cd.deferred
  all_goals
    simp only [hd, Bool.false_eq_true, if_false, if_true] at he ⊢
    refine ⟨BitVec.eq_of_toNat_eq ((toNat_field he 32 32).trans ?_), field_eq_ofNat he ?_, field_eq_ofNat he ?_,
      field_eq_ofNat (x := 0) he ?_, field_eq_ofNat he ?_, ?_, field_eq_ofNat he ?_, field_eq_ofNat he ?_⟩
    case refine_6 => simp only [decide_eq_true_eq, decide_eq_false_iff_not]; omega
    all_goals omega

/-- CAUSE and CODE of ESTAT, for any partition: what a partition's number carries into lies above them. -/
theorem estatOf_lowFields {part glen : Nat} {cd : Condition} (hd : cd.deferred = false) (hc : cd.code < 4096) :
    ((estatOf part cd glen).extractLsb' 0 4).toNat = cd.cause.code ∧ ((estatOf part cd glen).extractLsb' 4 12).toNat = cd.code := by
  have hcause := cd.cause.code_lt
  have he : (estatOf part cd glen).toNat = _ := BitVec.toNat_ofNat ..
  simp only [hd, Bool.false_eq_true, if_false] at he
  rw [toNat_field he, toNat_field he]
  omega

/-! The entry into the handler (R109, R110, R355, R356). -/

/-- A team that enters the handler at an address with a condition met in one of its splinters (R355, R356, R362, R364). -/
def Team.enters (x : Team) (tvec : W64) (cd : Condition) (p : Splinter) : Team :=
  { x with
    trap := none, parked := false
    sys := some { pc := tvec, epc := if p.half then p.pc ||| 1 else p.pc, estat := estatOf x.part cd cd.glen, eaddr := cd.eaddr
                  eiaddr := cd.eiaddr, actp := x.part, spl := x.trapSpl } }

namespace State

variable {s : State} {c t : Nat} {x : Team}

/-- The handler is entered for a condition other than ARITH, whose length is its group's. -/
theorem enterTrap_eq {cd : Condition} {p : Splinter} (h : s.team? c t = some x) (ht : x.trap = some cd) (hc : cd.cause ≠ .arith)
    (hp : x.splinters[x.trapSpl]? = some p) :
    s.enterTrap c t = (s.discardLines c x.part .sys).setTeam c t (x.enters s.tvec cd p) := by
  obtain ⟨hline, -⟩ := step_discardLines x.part .sys .zero false h
  simp only [enterTrap, h, ht, hp, if_neg hc, hline.device.tvec, Team.enters]

/-- A discard at sys scope leaves no line of the partition in the core's read cache (R109). -/
theorem cache_discardLines_sys (s : State) (c p : Nat) :
    ((s.discardLines c p .sys).core c).cache = (s.core c).cache.filter fun e => e.1 != p := by
  have hstop (u : State) (f : Nat → Bool) : (u.stopFills c p f).core c = u.core c := rfl
  simp [discardLines, beyondCore, hstop]

/-- A condition met outside system mode other than ARITH: the team enters the handler where memory is settled, else it waits (R110, R354, R355). -/
theorem trapOn_outside {n : Nat} {cd : Condition} {p : Splinter} (h : s.team? c t = some x) (hx : x.inSys = false)
    (hp : x.splinters[n]? = some p) (hc : cd.cause ≠ .arith) (he : cd.eaddr = 0) :
    (s.trapOn c t n cd none).team? c t =
      some (if s.settled c t then ({ x with trap := some cd, trapSpl := n } : Team).enters s.tvec cd p
        else { x with trap := some cd, trapSpl := n }) := by
  have hcd : { cd with eaddr := (none : Option W64).getD 0 } = cd := by rw [Option.getD_none, ← he]
  have hteam : (s.onTeam c t fun x => { x with trap := some cd, trapSpl := n }).team? c t =
      some { x with trap := some cd, trapSpl := n } := by rw [team?_onTeam_self, h]; rfl
  have hset := settled_congr h hteam rfl (by simp)
  simp only [trapOn, h, hx, hcd, takeTrap, hset, Bool.false_eq_true, if_false]
  split
  · rw [enterTrap_eq hteam rfl hc hp, team?_setTeam_self, onTeam_tvec]
  · exact hteam

end State

/-- Settles O55: the entry discards lines and writes the team, and nothing else. -/
theorem trapEntrySavesAndEnters : Obligations.TrapEntrySavesAndEnters := by
  unfold Obligations.TrapEntrySavesAndEnters
  intro s c t x cd p h ht hc hp
  obtain ⟨hline, -⟩ := State.step_discardLines x.part .sys .zero false h
  rw [State.enterTrap_eq h ht hc hp]
  refine ⟨x.enters s.tvec cd p, _, State.team?_setTeam_self .., rfl, rfl, rfl, rfl, rfl, rfl, rfl, rfl, rfl, rfl, rfl, rfl, rfl, rfl, rfl, rfl,
    hline.device.trans (State.sameDevice_onCore ..), hline.others.trans (State.sameOthers_setTeam ..), ?_⟩
  exact (State.sameCache_setTeam ..).cache.trans (State.cache_discardLines_sys s c x.part)

/-! `trap` (R369). -/

/-- The address of the group at issue is that of its splinter, with the half bit. -/
theorem ctx_iaddr {s : State} {cx : Ctx} (h : s.ctx? = some cx) : cx.iaddr = if cx.p.half then cx.p.pc ||| 1 else cx.p.pc := by
  unfold State.ctx? at h
  dsimp only at h
  split at h
  · cases h
  · split at h
    · cases h
    · split at h
      · cases h
      · cases h
        rfl

theorem ready_iaddr {i : Instr} {s : State} {cx : Ctx} (h : s.ready? i = some cx) :
    cx.iaddr = if cx.p.half then cx.p.pc ||| 1 else cx.p.pc := by
  obtain ⟨cy, -, hc, -, -, rfl⟩ := ready_ctx h
  exact ctx_iaddr (cx := cy) hc

/-- The condition that `trap` raises (R369). -/
def Ctx.softCondition (cx : Ctx) (n : BitVec 12) : Condition :=
  { cause := .soft, code := n.toNat, eiaddr := cx.iaddr, lanes := cx.act, glen := cx.len }

/-- `trap` in system mode (R359, R369). -/
theorem exec_trap_sys {s : State} {cx : Ctx} {n : BitVec 12} (h : s.ready? (.trapInstr n) = some cx) (hsys : cx.sys = true) :
    exec (.trapInstr n) s = .next (s.doubleTrap cx.c cx.t .soft 0xF cx.iaddr) := by
  obtain ⟨rfl, hx, -, hmode, -⟩ := ready_team h
  rw [exec_ready rfl rfl h rfl]
  simp only [Ctx.settle, hsys, if_true, State.trapOn, hx, ← hmode, Option.getD_none]

@[simp] theorem State.onSplinter_tvec (s : State) (c t n : Nat) (f : Splinter → Splinter) : (s.onSplinter c t n f).tvec = s.tvec :=
  onTeam_tvec ..

/-- A splinter whose instruction has met a condition. -/
def Splinter.interrupted (p : Splinter) : Splinter := { p with st := .able, reads := [], readBad := [], wrote := 0 }

/-- The team at issue with a condition that its instruction has met (R354). -/
def Ctx.trapping (cx : Ctx) (cd : Condition) : Team :=
  { cx.x with splinters := modAt Splinter.interrupted cx.x.splinters cx.n, trap := some cd, trapSpl := cx.n }

/-- `trap` outside system mode: the team enters the handler where memory is settled, else it waits (R110, R355, R369). -/
theorem exec_trap_outside {s : State} {cx : Ctx} {n : BitVec 12} (h : s.ready? (.trapInstr n) = some cx) (hout : cx.sys = false) :
    ∃ t, exec (.trapInstr n) s = .next t ∧ t.team? cx.c cx.t = some (if s.settled cx.c cx.t then
      (cx.trapping (cx.softCondition n)).enters s.tvec (cx.softCondition n) cx.p.interrupted else cx.trapping (cx.softCondition n)) := by
  obtain ⟨rfl, hx, hspl, hmode, -⟩ := ready_team h
  have hnone : cx.x.sys = none := sys_none_of_inSys (hmode ▸ hout)
  have hp : cx.x.splinters[cx.n]? = some cx.p := by simpa [Team.splinterAt, hnone] using hspl
  have hteam : (cx.s.onSplinter cx.c cx.t cx.n Splinter.interrupted).team? cx.c cx.t =
      some { cx.x with splinters := modAt Splinter.interrupted cx.x.splinters cx.n } :=
    (State.team?_onTeam_self ..).trans (congrArg _ hx)
  have hset := State.settled_congr hx hteam rfl (State.onTeam_txs ..)
  have htrap := State.trapOn_outside (cd := cx.softCondition n) hteam (hmode ▸ hout) ((getElem?_modAt ..).trans (congrArg _ hp))
    (by simp [Ctx.softCondition]) rfl
  rw [hset, State.onSplinter_tvec] at htrap
  refine ⟨_, exec_ready rfl rfl h rfl, ?_⟩
  simp only [Ctx.settle, hout, Bool.false_eq_true, if_false]
  exact htrap

/-- Settles O54: the condition is that of the statement, and the team has entered the handler or waits. CAUSE and CODE stand in the lowest
bits of ESTAT, which no other part reaches. -/
theorem softTraps : Obligations.SoftTraps := by
  unfold Obligations.SoftTraps
  intro s cx n h cd
  refine ⟨exec_trap_sys h, fun hout => ?_⟩
  obtain ⟨t, hexec, hteam⟩ := exec_trap_outside h hout
  obtain ⟨-, -, -, hmode, -⟩ := ready_team h
  refine ⟨t, _, hexec, hteam, fun hset => ?_, fun hset => ?_⟩
  · obtain ⟨hcause, hcode⟩ := estatOf_lowFields (part := cx.x.part) (glen := cx.len) (cd := cd) rfl n.isLt
    rw [if_pos hset]
    exact ⟨_, rfl, (ready_iaddr h).symm, rfl, BitVec.eq_of_toNat_eq hcause, BitVec.eq_of_toNat_eq hcode⟩
  · rw [if_neg (Bool.eq_false_iff.1 hset)]
    exact ⟨sys_none_of_inSys (hmode ▸ hout), rfl⟩

end Sys2Proof.Machine

end

section

/-! The return from the handler, and the partitions that are terminated while it runs (R360, R370, R381, R382). -/

namespace Sys2Proof.Machine
open Sys2Proof

/-! The return (R370). -/

theorem getElem?_modAt_ne {α : Type} (f : α → α) (xs : List α) {n k : Nat} (h : k ≠ n) : (modAt f xs n)[k]? = xs[k]? := by
  induction xs generalizing n k with
  | nil => rfl
  | cons a xs ih =>
    cases n with
    | zero =>
      cases k with
      | zero => exact absurd rfl h
      | succ k => rfl
    | succ n =>
      cases k with
      | zero => rfl
      | succ k => exact ih fun e => h (congrArg _ e)

/-- A splinter that resumes where the handler's EPC says: it goes on at another place, and is as it was at its own (R370, log entry 59). -/
def SysCtx.resumes (z : SysCtx) (p : Splinter) : Splinter :=
  if p.pc = z.epc &&& ~~~3#64 && p.half = z.epc.getLsbD 0 then p else p.goTo (z.epc &&& ~~~3#64) (z.epc.getLsbD 0)

theorem SysCtx.resumes_place (z : SysCtx) (p : Splinter) :
    (z.resumes p).pc = z.epc &&& ~~~3#64 ∧ (z.resumes p).half = z.epc.getLsbD 0 ∧ (z.resumes p).mask = p.mask := by
  unfold resumes
  split
  next h => simpa using h
  · exact ⟨rfl, rfl, rfl⟩

/-- A trapped team leaves the handler: the splinter that trapped resumes, and the bank is gone (R370). -/
theorem State.leaveTrap_resumes {s : State} {c t : Nat} {x : Team} {z : SysCtx} (h : s.team? c t = some x) (hz : x.sys = some z)
    (hf : z.formed = false) (hd : x.dead = false) :
    s.leaveTrap c t = s.setTeam c t { x with sys := none, splinters := modAt z.resumes x.splinters z.spl } := by
  simp only [leaveTrap, h, hz, hf, hd, Bool.or_self, Bool.false_eq_true, if_false]
  rfl

/-- A team of a terminated partition ends as it leaves the handler (R382). -/
theorem State.leaveTrap_ends {s : State} {c t : Nat} {x : Team} {z : SysCtx} (h : s.team? c t = some x) (hz : x.sys = some z)
    (hf : z.formed = false) (hd : x.dead = true) : s.leaveTrap c t = (s.returnBlock x).closeTeam c t := by
  simp only [leaveTrap, h, hz, hf, hd, Bool.or_true, Bool.false_eq_true, if_true, if_false]

theorem exec_sret {s : State} {cx : Ctx} (h : s.ready? .sret = some cx) : exec .sret s = .next (s.leaveTrap cx.c cx.t) := by
  obtain ⟨rfl, -⟩ := ready_team h
  exact exec_moved rfl rfl h rfl

/-- Settles O57: the return writes the team alone, and of it the mode and the splinter that trapped. -/
theorem returnResumesAtEpc : Obligations.ReturnResumesAtEpc := by
  unfold Obligations.ReturnResumesAtEpc
  intro s cx z p h hz hf hd hp
  obtain ⟨-, hx, -⟩ := ready_team h
  obtain ⟨hpc, hhalf, hmask⟩ := z.resumes_place p
  rw [exec_sret h, State.leaveTrap_resumes hx hz hf hd]
  exact ⟨_, _, z.resumes p, rfl, State.team?_setTeam_self .., rfl, (getElem?_modAt ..).trans (congrArg _ hp), hpc, hhalf, hmask,
    fun n hn => getElem?_modAt_ne _ _ hn, rfl, rfl, rfl, rfl, State.sameDevice_onCore .., State.sameOthers_setTeam ..,
    State.sameCache_setTeam ..⟩

/-! Termination (R381, R382). -/

theorem foldl_cores {α : Type} {f : State → α → State} (hf : ∀ s a, (f s a).cores = s.cores) (l : List α) (s : State) :
    (l.foldl f s).cores = s.cores := by
  induction l generalizing s with
  | nil => rfl
  | cons a l ih => rw [List.foldl_cons, ih, hf]

@[simp] theorem State.transmit_cores (s : State) (n : Nat) (f : Flit) : (s.transmit n f).cores = s.cores := by
  simp [transmit, emit, setLink, apply_ite State.cores]

@[simp] theorem State.carry_cores (s : State) (k : Packet) : (s.carry k).cores = s.cores := by
  unfold carry
  split <;> simp [foldl_cores]

@[simp] theorem State.overPort_cores (s : State) (n : Nat) (k : Packet) : (s.overPort n k).cores = s.cores :=
  foldl_cores (fun _ _ => by simp [sealPacket]) _ _

@[simp] theorem State.send_cores (s : State) (m : OutMsg) : (s.send m).cores = s.cores := by
  unfold send
  (repeat' split) <;> simp

@[simp] theorem State.sendVia_cores (s : State) (p : Nat) (ue : Bool) (idx : Nat) (m : Option Nat → OutMsg) :
    (s.sendVia p ue idx m).cores = s.cores := by
  unfold sendVia
  split <;> simp [walkEndpoint, walks, laneWalks]

@[simp] theorem State.returnBlock_cores (s : State) (x : Team) : (s.returnBlock x).cores = s.cores := by
  unfold returnBlock returnPrivate
  dsimp only
  split <;> rfl

theorem State.freePrivates_cores (s : State) (p : Nat) : (s.freePrivates p).cores = s.cores := foldl_cores returnBlock_cores _ _

theorem State.refuseAll_cores (s : State) (p : Nat) : (s.refuseAll p).cores = s.cores := foldl_cores (fun _ _ => sendVia_cores ..) _ _

/-- Of the cores, termination changes each by itself. -/
theorem State.endPartition_cores (s : State) (p : Nat) : (s.endPartition p).cores = s.cores.map fun e => (e.1, e.2.terminate p) := by
  rw [← freePrivates_cores s p, ← refuseAll_cores (s.freePrivates p) p]
  rfl

end Sys2Proof.Machine

namespace Sys2Proof.SMap

variable {α : Type}

/-- Reading after a change of every entry. -/
theorem at?_map (f : Nat × α → Nat × α) (hf : ∀ e, (f e).1 = e.1) (m : SMap α) (k : Nat) :
    at? (m.map f) k = (at? m k).map fun v => (f (k, v)).2 := by
  induction m with
  | nil => rfl
  | cons e m ih =>
    obtain ⟨j, w⟩ := e
    have hj : f (j, w) = (j, (f (j, w)).2) := Prod.ext (hf _) rfl
    rw [List.map_cons, hj]
    simp only [at?]
    split
    next h => rw [← h]; rfl
    next h => exact ih

/-- An entry that a filter keeps is still read. -/
theorem at?_filter_kept {q : Nat × α → Bool} {m : SMap α} {k : Nat} {v : α} (h : at? m k = some v) (hq : q (k, v) = true) :
    at? (m.filter q) k = some v := by
  induction m with
  | nil => cases h
  | cons e m ih =>
    obtain ⟨j, w⟩ := e
    simp only [at?] at h
    rw [List.filter_cons]
    split at h
    next hj =>
      subst hj
      cases h
      simp [hq, at?]
    next hj =>
      split
      · simp [at?, hj, ih h]
      · exact ih h

/-- What is read stands in the table. -/
theorem mem_of_at? {m : SMap α} {k : Nat} {v : α} (h : at? m k = some v) : (k, v) ∈ m := by
  induction m with
  | nil => cases h
  | cons e m ih =>
    obtain ⟨j, w⟩ := e
    simp only [at?] at h
    split at h
    next hj =>
      subst hj
      cases h
      exact List.mem_cons_self
    · exact List.mem_cons_of_mem _ (ih h)

end Sys2Proof.SMap

namespace Sys2Proof.Machine
open Sys2Proof

/-- A trapped team of a partition that is terminated stays on its core, marked to end (R382). -/
theorem Core.terminate_keeps_trapped {k : Core} {p t : Nat} {x : Team} (h : k.teams.at? t = some x) (hp : x.part = p)
    (hs : x.inSys = true) (hf : x.formed = false) (ht : t < 32) :
    ∃ y, (k.terminate p).teams.at? t = some y ∧ y.dead = true ∧ y.sys = x.sys := by
  have hgone : ((k.teams.filter fun e => e.2.part == p && !e.2.formed).map fun e => e.1).contains t = true := by
    rw [List.contains_iff_mem, List.mem_map]
    exact ⟨(t, x), List.mem_filter.2 ⟨SMap.mem_of_at? h, by simp [hp, hf]⟩, rfl⟩
  dsimp only [Core.terminate]
  rw [SMap.at?_map _ (fun e => by split <;> rfl), SMap.at?_filter_kept h (by simp [hs, ht])]
  simp only [hgone, if_true, Option.map_some]
  exact ⟨_, rfl, rfl, rfl⟩

/-- A core after a change of each core by itself that leaves an empty core without teams. -/
theorem State.team?_mapCores {s u : State} {g : Core → Core} (h : u.cores = s.cores.map fun e => (e.1, g e.2)) {c t : Nat} {x : Team}
    (hx : s.team? c t = some x) : u.team? c t = (g (s.core c)).teams.at? t := by
  unfold team? core at hx ⊢
  rw [h, SMap.atD, SMap.at?_map (fun e => (e.1, g e.2)) fun _ => rfl]
  cases hc : SMap.at? s.cores c with
  | none => simp [SMap.atD, hc] at hx
  | some k => simp [SMap.atD, hc]

/-- A privileged instruction is ready in system mode alone (R368). -/
theorem ready_priv {i : Instr} {r : Rules} {s : State} {cx : Ctx} (hr : rulesOf i = some r) (hp : r.priv = true)
    (h : s.ready? i = some cx) : cx.sys = true := by
  obtain ⟨cy, q, -, hq, hpasses, rfl⟩ := ready_ctx h
  cases hr.symm.trans hq
  simp only [Ctx.passes, Bool.and_eq_true, hp, Bool.not_true, Bool.false_or] at hpasses
  obtain ⟨⟨⟨⟨-, hsys⟩, -⟩, -⟩, -⟩ := hpasses
  exact hsys

@[simp] theorem State.team?_closeTeam_self (s : State) (c t : Nat) : (s.closeTeam c t).team? c t = none := by
  have hcore : (s.closeTeam c t).core c = (s.dropTeam c t).core c := rfl
  rw [team?, hcore, dropTeam, core_onCore_self, SMap.at?_del_self]

/-- Settles O58: termination keeps the trapped teams of the partition and marks them, and the return of a marked team frees its slot. -/
theorem terminatedTeamsEndAtTheirReturn : Obligations.TerminatedTeamsEndAtTheirReturn := by
  unfold Obligations.TerminatedTeamsEndAtTheirReturn
  refine ⟨fun s p c t x hx hp hs hf ht => ?_, fun s cx h hf hd => ?_⟩
  · obtain ⟨y, hy, hdead, hsys⟩ := Core.terminate_keeps_trapped hx hp hs hf ht
    exact ⟨y, (State.team?_mapCores (g := fun k => k.terminate p) (s.endPartition_cores p) hx).trans hy, hdead, hsys⟩
  · obtain ⟨-, hx, -, hmode, -⟩ := ready_team h
    obtain ⟨z, hz⟩ := Option.isSome_iff_exists.1 (hmode.symm.trans (ready_priv rfl rfl h))
    have hz' : z.formed = false := by simpa [Team.formed, hz] using hf
    refine ⟨_, exec_sret h, ?_⟩
    rw [State.leaveTrap_ends hx hz hz' hd, State.team?_closeTeam_self]

end Sys2Proof.Machine

end

section

/-! What reset leaves, and a device that runs no item (R299, R364, R377, R399, R400). -/

namespace Sys2Proof.Machine
open Sys2Proof

/-- The registers of a team outside system mode read zero (R364). -/
theorem Team.ctl_eq_zero {x : Team} (hx : x.sys = none) (f : SysCtx → W64) : x.ctl f = 0 := by
  simp [Team.ctl, hx]

/-- Reset leaves zero in every control register but CALLER, which holds 64 connections and tag 0x4000 (R299). -/
theorem ctlRead_reset (c : Nat) {x : Team} (hx : x.sys = none) (r : Ctl) :
    State.reset.ctlRead c x r = match r with
      | .caller _ => 0x0000004000000010
      | _ => 0 := by
  cases r with
  | epc | estat | eaddr | eiaddr | actp => exact Team.ctl_eq_zero hx _
  | flags | arithen | quota | root | peerroot | entryt | fqbase | fqhead | fqtail | caller | tokbud | ept | arrt => rfl
  | sysroot | sysent | tvec | ftag | devid => rfl

/-- Settles O7, register by register: each is the default of its map. -/
theorem resetState : Obligations.ResetState := by
  unfold Obligations.ResetState
  exact ⟨sound_reset, rfl, rfl, fun _ => rfl, fun _ => rfl, fun c _ r hx => ctlRead_reset c hx r⟩

/-- Which cores issue nothing: all but core 0 in stage one, and every one where the device does not run (R377, R400). -/
theorem issues_eq_false {s : State} {c : Nat} (hrun : s.power ≠ .run) (hstage : s.power = .stage1 → c ≠ 0) : s.issues c = false := by
  simpa [State.issues, State.runs, hrun] using hstage

theorem turn_issue_of_not_issues {s : State} {c : Nat} (q : Nat) (h : s.issues c = false) : turn s (.issue c q) = .next s := by
  simp [turn, h]

theorem nextTurn_of_agenda {s : State} {u : Turn} {rest : List Turn} (h : s.agenda = u :: rest) :
    s.nextTurn = turn { s with agenda := rest } u := by
  simp [State.nextTurn, h]

theorem repay_of_walked_nil {s : State} (h : s.walked = []) : s.repay = s := by
  simp [State.repay, h]

/-- Settles O8: a turn of a core that issues nothing is empty, so that the step only repays what walks met. -/
theorem deviceThatIsNotRunningIssuesNothing : Obligations.DeviceThatIsNotRunningIssuesNothing := by
  unfold Obligations.DeviceThatIsNotRunningIssuesNothing
  intro s c q rest hrun hstage hagenda
  have hissues : ({ s with agenda := rest } : State).issues c = false := issues_eq_false hrun hstage
  have hstep : step s = .next ({ s with agenda := rest } : State).repay := by
    rw [step, nextTurn_of_agenda hagenda, turn_issue_of_not_issues q hissues, repaid]
  exact ⟨hstep, fun hwalked => hstep.trans (congrArg _ (repay_of_walked_nil hwalked))⟩

end Sys2Proof.Machine

end

section

/-! The sensors of a device (R377, R408). -/

namespace Sys2Proof.Machine
open Sys2Proof

/-- A report raised is put after those before it; the rest of a raise is written to memory, so that power and sectors are kept (R407). -/
theorem raise_reports {s : State} (hpower : s.power ≠ .halted) (code core : Nat) (part : Option Nat) (info : W64) (detail : W32) :
    ∃ r, (s.raise code core part info detail).reports = s.reports ++ [r] ∧ r.code = code ∧
      (s.raise code core part info detail).sectors = s.sectors ∧ (s.raise code core part info detail).power = s.power := by
  refine ⟨{ time := s.clock, info := info, detail := detail, core := core, part := part.getD 0, pv := part.isSome
            sev := sevOf code, code := code }, ?_⟩
  simp only [State.raise, beq_iff_eq, if_neg hpower]
  split <;> simp [State.write]

/-- A halted device raises no report (R377). -/
theorem raise_of_halted {s : State} (hpower : s.power = .halted) (code core : Nat) (part : Option Nat) (info : W64) (detail : W32) :
    s.raise code core part info detail = s := by
  simp [State.raise, hpower]

theorem exec_thermalWarning {s : State} (n : Nat) (hup : s.isUp = true) :
    exec (.thermalWarning n) s = .next ((s.onSector n fun k => { k with hot := true }).raise 0x000A 0 none 0 (BitVec.ofNat 32 n)) := by
  change execThermalWarning n s = _
  rw [execThermalWarning, if_pos hup]

theorem exec_thermalTrip {s : State} (n : Nat) (hup : s.isUp = true) :
    exec (.thermalTrip n) s = .next { s.raise 0x000B 0 none 0 (BitVec.ofNat 32 n) with power := .halted } := by
  change execThermalTrip n s = _
  rw [execThermalTrip, if_pos hup]

theorem thermalWarning_reports {s : State} (n : Nat) (hup : s.isUp = true) (hpower : s.power ≠ .halted) :
    ∃ t r, exec (.thermalWarning n) s = .next t ∧ t.reports = s.reports ++ [r] ∧ r.code = 0x000A ∧ (t.sector n).hot = true ∧
      t.power = s.power := by
  obtain ⟨r, hreports, hcode, hsectors, hkept⟩ := raise_reports (s := s.onSector n fun k => { k with hot := true })
    hpower 0x000A 0 none 0 (BitVec.ofNat 32 n)
  refine ⟨_, r, exec_thermalWarning n hup, hreports, hcode, ?_, hkept⟩
  rw [State.sector, hsectors]
  simp [State.onSector]

theorem thermalTrip_reports {s : State} (n : Nat) (hup : s.isUp = true) (hpower : s.power ≠ .halted) :
    ∃ t r, exec (.thermalTrip n) s = .next t ∧ t.reports = s.reports ++ [r] ∧ r.code = 0x000B ∧ t.power = .halted := by
  obtain ⟨r, hreports, hcode, -, -⟩ := raise_reports hpower 0x000B 0 none 0 (BitVec.ofNat 32 n)
  exact ⟨_, r, exec_thermalTrip n hup, hreports, hcode, rfl⟩

/-- A device that is halted already; its sensors are still read. -/
def haltedDevice : State := { State.reset with power := .halted }

theorem haltedDevice_trips : exec (.thermalTrip 0) haltedDevice = .next haltedDevice := by
  rw [exec_thermalTrip 0 rfl, raise_of_halted rfl]
  rfl

/-- Refutes O60: a device that is HALTED counts as up (`State.isUp`), and raises no report where a sensor of it reaches 110 °C, since a halted
device raises none (R377). Of a device that is up and not halted the statement holds (`thermalWarning_reports`, `thermalTrip_reports`). -/
theorem not_temperatureReportsAndHalts : ¬ Obligations.TemperatureReportsAndHalts := by
  unfold Obligations.TemperatureReportsAndHalts
  intro h
  obtain ⟨-, t, r, hexec, hreports, -⟩ := h haltedDevice 0 rfl
  cases haltedDevice_trips.symm.trans hexec
  exact List.cons_ne_nil r [] hreports.symm

end Sys2Proof.Machine

end

section

/-! The deliveries of a load that is performed on lanes that all reach near memory (R63, R79, R219). -/

namespace Sys2Proof.Machine
open Sys2Proof

/-- A load's delivery and the reads behind it depend on memory, its poison, the team's registers and the held stores: that these are as they
were at a core. -/
structure State.SameReads (u v : State) (c : Nat) : Prop where
  mem : v.mem = u.mem
  poisoned : v.poisoned = u.poisoned
  teams : (v.core c).teams = (u.core c).teams
  groups : (v.core c).groups = (u.core c).groups
  osb : (v.core c).osb = (u.core c).osb

theorem State.SameReads.refl (u : State) (c : Nat) : u.SameReads u c := ⟨rfl, rfl, rfl, rfl, rfl⟩

theorem State.SameReads.trans {u v w : State} {c : Nat} (h : u.SameReads v c) (k : v.SameReads w c) : u.SameReads w c :=
  ⟨k.mem.trans h.mem, k.poisoned.trans h.poisoned, k.teams.trans h.teams, k.groups.trans h.groups, k.osb.trans h.osb⟩

theorem State.SameReads.team? {u v : State} {c : Nat} (h : u.SameReads v c) (t : Nat) : v.team? c t = u.team? c t := by
  rw [State.team?, h.teams, State.team?]

theorem State.SameReads.vreg {u v : State} {c : Nat} (h : u.SameReads v c) (x : Team) (n : Nat) : v.vreg c x n = u.vreg c x n := by
  rw [State.vreg, h.groups, State.vreg]

theorem State.SameReads.word {u v : State} {c : Nat} (h : u.SameReads v c) (pa n : Nat) : v.word pa n = u.word pa n := by
  simp only [State.word, State.bytes, h.mem]

theorem State.SameReads.lineBad {u v : State} {c : Nat} (h : u.SameReads v c) (pa n : Nat) : v.lineBad pa n = u.lineBad pa n := by
  simp only [State.lineBad, h.poisoned]

/-- A state with the same cores, memory and poison. -/
theorem State.SameReads.of_cores {u v : State} (hm : v.mem = u.mem) (hp : v.poisoned = u.poisoned) (hc : v.cores = u.cores) (c : Nat) :
    u.SameReads v c := by
  have hcore : v.core c = u.core c := by rw [State.core, hc, State.core]
  exact ⟨hm, hp, by rw [hcore], by rw [hcore], by rw [hcore]⟩

/-- The value that a load of some bytes delivers (R219). -/
def loadValue (n : Nat) (sx : Bool) (v : Nat) : W64 := if sx then sext64 (8 * n) (BitVec.ofNat 64 v) else BitVec.ofNat 64 v

/-- A load that is not awaited by its splinter delivers to its symbol. -/
theorem deliver_load {s : State} {c t l n k : Nat} {sx : Bool} {a : Access} (hop : a.op = .load n sx) (hdirect : a.direct = false)
    (hsym : a.rsym = some k) (bs : List Byte) (o : Option Origin) : s.deliver c t a l bs o =
      s.onCore c fun q => { q with syms := q.syms.put k ((q.syms.atD k {}).put l (loadValue n sx (leNat bs)) o) } := by
  cases sx <;> simp [State.deliver, hdirect, hsym, hop, loadValue]

/-- A lane's load of near memory that is not poisoned, with no held stores at its core, delivers the bytes there (R39, R79). -/
theorem performLane_nearLoad {s : State} {w : Who} {t l n pa k : Nat} {sx : Bool} {a : Access} (hop : a.op = .load n sx)
    (hdirect : a.direct = false) (hsym : a.rsym = some k) (hosb : (s.core w.core).osb = []) (hnear : pa < 0x400000000)
    (hclean : s.lineBad pa n = false) : s.performLane w t a l [(pa, n)] = some
      (s.onCore w.core fun q => { q with syms := q.syms.put k ((q.syms.atD k {}).put l (loadValue n sx (s.word pa n)) none) }) := by
  have hread : s.laneRead w t l [(pa, n)] = s.bytes pa n := by
    simp [State.laneRead, State.readCached, hosb, hnear]
  have hfill : s.fillLines w [(pa, n)] = s := by
    simp [State.fillLines, State.fillLine, hnear]
  have hbad : s.badPart [(pa, n)] = none := by
    simp [State.badPart, hclean]
  simp only [State.performLane, hop, hread, hfill, hbad, Option.map_none]
  rw [deliver_load hop hdirect hsym]
  rfl

theorem maskOf_cons (l : Nat) (ls : List Nat) : maskOf (l :: ls) = maskOf ls ||| laneBit l := by
  refine BitVec.eq_of_getLsbD_eq fun i hi => ?_
  simp only [BitVec.getLsbD_or, getLsbD_laneBit, getLsbD_maskOf, hi, decide_true, Bool.true_and, List.mem_cons, Bool.decide_or, Bool.or_comm]

/-- A symbol with the values of some lanes put into it. -/
def Symbol.loaded (y : Symbol) (f : Nat → W64) (ls : List Nat) : Symbol := ls.foldl (fun y l => y.put l (f l) none) y

theorem Symbol.loaded_lanes (y : Symbol) (f : Nat → W64) (ls : List Nat) : (y.loaded f ls).lanes = y.lanes := by
  induction ls generalizing y with
  | nil => rfl
  | cons l ls ih => exact ih (y.put l (f l) none)

theorem Symbol.loaded_arrived (y : Symbol) (f : Nat → W64) (ls : List Nat) : (y.loaded f ls).arrived = y.arrived ||| maskOf ls := by
  induction ls generalizing y with
  | nil => simp [loaded, maskOf]
  | cons l ls ih =>
    refine (ih (y.put l (f l) none)).trans ?_
    rw [maskOf_cons, Symbol.put, BitVec.or_comm (maskOf ls), BitVec.or_assoc]

theorem Symbol.loaded_val (y : Symbol) (f : Nat → W64) {ls : List Nat} {l : Nat} (h : l ∈ ls ∨ y.vals.atD l 0 = f l) :
    (y.loaded f ls).vals.atD l 0 = f l := by
  induction ls generalizing y with
  | nil => exact h.resolve_left List.not_mem_nil
  | cons m ls ih =>
    refine ih (y.put m (f m) none) ?_
    rw [Symbol.put, SMap.atD_store]
    by_cases hm : l = m
    · subst hm
      exact .inr (if_pos rfl)
    · rw [if_neg hm]
      exact h.imp_left fun hmem => (List.mem_cons.1 hmem).resolve_left hm

/-- Lanes that each reach memory in one part. -/
def nearFates (pa : Nat → Nat) (n : Nat) (ls : List Nat) : List (Nat × Fate) := ls.map fun l => (l, .memory [(pa l, n)])

@[simp] theorem nearFates_cons (pa : Nat → Nat) (n l : Nat) (ls : List Nat) :
    nearFates pa n (l :: ls) = (l, .memory [(pa l, n)]) :: nearFates pa n ls := rfl

/-- The lanes of a load of near memory that is not poisoned are performed: each value arrives at the symbol, and what later reads depend on is as
it was. -/
theorem performLanes_nearLoads {s : State} {w : Who} {t n k : Nat} {sx : Bool} {a : Access} (hop : a.op = .load n sx)
    (hdirect : a.direct = false) (hsym : a.rsym = some k) (pa : Nat → Nat) (ls : List Nat) (hosb : (s.core w.core).osb = [])
    (hnear : ∀ l ∈ ls, pa l < 0x400000000 ∧ s.lineBad (pa l) n = false) :
    s.SameReads (s.performLanes w t a (nearFates pa n ls)).1 w.core ∧
      (∀ y, (s.core w.core).syms.at? k = some y →
        ((s.performLanes w t a (nearFates pa n ls)).1.core w.core).syms.at? k =
          some (y.loaded (fun l => loadValue n sx (s.word (pa l) n)) ls)) ∧
      (s.performLanes w t a (nearFates pa n ls)).2.1 = maskOf ls := by
  induction ls generalizing s with
  | nil => exact ⟨.refl s w.core, fun y hy => hy, rfl⟩
  | cons l ls ih =>
    obtain ⟨hl, hclean⟩ := hnear l List.mem_cons_self
    simp only [nearFates_cons, State.performLanes, Access.here, performLane_nearLoad hop hdirect hsym hosb hl hclean]
    generalize hu : (s.onCore w.core fun q =>
      { q with syms := q.syms.put k ((q.syms.atD k {}).put l (loadValue n sx (s.word (pa l) n)) none) }) = u
    have hcore : u.core w.core = { s.core w.core with
        syms := (s.core w.core).syms.put k (((s.core w.core).syms.atD k {}).put l (loadValue n sx (s.word (pa l) n)) none) } := by
      rw [← hu, State.core_onCore_self]
    have hsame : s.SameReads u w.core := ⟨by rw [← hu]; rfl, by rw [← hu]; rfl, by rw [hcore], by rw [hcore], by rw [hcore]⟩
    obtain ⟨hrest, hval, hdone⟩ := ih (s := u) (hsame.osb.trans hosb) fun m hm => by
      rw [hsame.lineBad]
      exact hnear m (List.mem_cons_of_mem _ hm)
    refine ⟨hsame.trans hrest, fun y hy => ?_, ?_⟩
    · have hput : (u.core w.core).syms.at? k = some (y.put l (loadValue n sx (s.word (pa l) n)) none) := by
        rw [hcore, SMap.at?_put_self, SMap.atD, hy]
        rfl
      rw [hval _ hput]
      simp only [hsame.word]
      rfl
    · rw [hdone]
      exact (maskOf_cons l ls).symm

/-! The rest of a load's pass. -/

theorem sameReads_discardLines (s : State) (c p : Nat) (sc : Scope) : s.SameReads (s.discardLines c p sc) c := by
  unfold State.discardLines State.stopFills
  dsimp only
  split
  · exact .refl s c
  · split <;> exact ⟨rfl, rfl, by simp [State.core, State.onCore, State.setCore], by simp [State.core, State.onCore, State.setCore],
      by simp [State.core, State.onCore, State.setCore]⟩

theorem sameSyms_discardLines (s : State) (c p : Nat) (sc : Scope) : ((s.discardLines c p sc).core c).syms = (s.core c).syms := by
  unfold State.discardLines State.stopFills
  dsimp only
  split
  · rfl
  · split <;> simp [State.core, State.onCore, State.setCore]

/-- The end of an access that writes no p15 changes cached lines alone (R109). -/
theorem finishAccess_reads {s : State} {w : Who} {t : Nat} {a : Access} {pending : Bool} (h : a.p15 = false) :
    s.SameReads (s.finishAccess w t a pending) w.core ∧ ((s.finishAccess w t a pending).core w.core).syms = (s.core w.core).syms := by
  unfold State.finishAccess
  simp only [h, Bool.false_and, Bool.false_eq_true, if_false]
  split
  · exact ⟨.refl s w.core, rfl⟩
  · split
    · exact ⟨sameReads_discardLines .., sameSyms_discardLines ..⟩
    · exact ⟨.refl s w.core, rfl⟩

@[simp] theorem State.fillTlb_poisoned (s : State) (places : List TlbPlace) (space : Nat) (w : Walk) :
    (s.fillTlb places space w).poisoned = s.poisoned := by
  cases w <;> rfl

@[simp] theorem State.fillSpot_poisoned (s : State) (w : Who) (lane a : Nat) : (s.fillSpot w lane a).poisoned = s.poisoned := by
  unfold State.fillSpot
  (repeat' split) <;> simp only [fillTlb_poisoned]

theorem foldl_poisoned {α : Type} {f : State → α → State} (hf : ∀ s a, (f s a).poisoned = s.poisoned) (l : List α) (s : State) :
    (l.foldl f s).poisoned = s.poisoned := by
  induction l generalizing s with
  | nil => rfl
  | cons a l ih => rw [List.foldl_cons, ih, hf]

/-- A state with the translations of some lanes' parts put into its TLBs (R86). -/
def State.fillLanes (s : State) (w : Who) (ps : Nat → List (Nat × Nat)) (ls : List Nat) : State :=
  ls.foldl (fun s l => (ps l).foldl (fun s p => s.fillSpot w l p.1) s) s

theorem State.fillLanes_mem (s : State) (w : Who) (ps : Nat → List (Nat × Nat)) (ls : List Nat) : (s.fillLanes w ps ls).mem = s.mem :=
  foldl_mem (fun _ _ => foldl_mem (fun _ _ => State.fillSpot_mem ..) _ _) _ _

theorem State.fillLanes_poisoned (s : State) (w : Who) (ps : Nat → List (Nat × Nat)) (ls : List Nat) :
    (s.fillLanes w ps ls).poisoned = s.poisoned :=
  foldl_poisoned (fun _ _ => foldl_poisoned (fun _ _ => State.fillSpot_poisoned ..) _ _) _ _

theorem State.fillLanes_cores (s : State) (w : Who) (ps : Nat → List (Nat × Nat)) (ls : List Nat) : (s.fillLanes w ps ls).cores = s.cores :=
  foldl_cores (fun _ _ => foldl_cores (fun _ _ => State.fillSpot_cores ..) _ _) _ _

/-- Lanes of loads do not saturate. -/
theorem performLanes_load_sat {s : State} {w : Who} {t n : Nat} {sx : Bool} {a : Access} (hop : a.op = .load n sx) (ls : List (Nat × Fate)) :
    (s.performLanes w t a ls).2.2 = 0 := by
  induction ls generalizing s with
  | nil => rfl
  | cons e ls ih =>
    obtain ⟨l, f⟩ := e
    unfold State.performLanes
    split
    · exact ih
    · split
      · rfl
      · simp [State.clamps, hop, ih]

/-- A load whose lanes all reach memory, each in one part: its pass is that of its lanes and the end of the access. -/
theorem passAccess_loads {s : State} {w : Who} {t n : Nat} {sx pending : Bool} {a : Access} (hop : a.op = .load n sx) (hdone : a.done = 0)
    (hp15 : a.p15 = false) (pa : Nat → Nat) (hfate : ∀ l ∈ lanesOf a.lanes, s.fate w a l = (.memory [(pa l, n)], [])) :
    ((s.fillLanes w a.parts (lanesOf a.lanes)).performLanes w t a (nearFates pa n (lanesOf a.lanes))).1.SameReads
        (s.passAccess w t a none pending).s w.core ∧
      ((s.passAccess w t a none pending).s.core w.core).syms =
        (((s.fillLanes w a.parts (lanesOf a.lanes)).performLanes w t a (nearFates pa n (lanesOf a.lanes))).1.core w.core).syms ∧
      (s.passAccess w t a none pending).left =
        maskOf (lanesOf a.lanes) &&& ~~~((s.fillLanes w a.parts (lanesOf a.lanes)).performLanes w t a (nearFates pa n (lanesOf a.lanes))).2.1 := by
  generalize hv : s.fillLanes w a.parts (lanesOf a.lanes) = v
  generalize hnear : nearFates pa n (lanesOf a.lanes) = near
  have hleft : a.left = a.lanes := by rw [Access.left, hdone]; exact and_not_zero _
  have hfates : (lanesOf a.left).map (fun l => (l, s.fate w a l)) = (lanesOf a.lanes).map fun l => (l, .memory [(pa l, n)], []) := by
    rw [hleft]
    exact List.map_congr_left fun l hl => by rw [hfate l hl]
  have hwrites : a.op.writes = false := by rw [hop]; rfl
  have hmcst : (a.op == .mcst) = false := by rw [hop]; rfl
  unfold State.passAccess
  extract_lets os fs faults e tags s1 s2 ls refused badLanes s3 s4 s5 s6 remote trapLanes
  have hfs : fs = (lanesOf a.lanes).map fun l => (l, .memory [(pa l, n)], []) := hfates
  have hls : ls = near := by simp [ls, hfs, ← hnear, nearFates, Function.comp_def]
  have hfaults : faults = [] := by simp [faults, hfs]
  have htags : tags = [] := by
    have hnone : fs.flatMap (fun e => e.2.2) = [] := by simp [hfs, List.flatMap_eq_nil_iff]
    simp [tags, hnone]
  have hrefused : refused = [] := by simp [refused, hls, ← hnear, nearFates]
  have hremote : remote = [] := by simp [remote, hls, ← hnear, nearFates]
  have hbad : badLanes = 0 := by simp only [badLanes, hrefused]; rfl
  have hs1 : s1 = v := by rw [← hv, State.fillLanes, ← hleft]
  have hs2 : s2 = s1 := by simp only [s2, htags, State.consumeAll]
  have hs3 : s3 = s2 := by simp only [s3, hrefused, recordsOf_nil, State.queueRecords, List.foldl_nil]
  have hs4 : s4 = s3 := by simp only [s4, hls, ← hnear, nearFates, List.foldl_map, List.foldl_fixed]
  have hs5 : s5 = s4 := by simp only [s5, hbad, State.deliverPoison, lanesOf_eq_nil.2, List.foldl_nil]
  have hs6 : s6 = s5 := by simp only [s6, State.returnP15, hp15, Bool.not_false, if_true]
  have hsurv : teamSurvives w tags = true := by simp [teamSurvives, htags]
  have hstored (v : State) (m : Mask) : v.storedWhole a m near = v := by simp only [State.storedWhole, hop]
  have hpeers (v : State) : v.sendPeers w t a remote = v := by simp [hremote, State.sendPeers, hop, AccessOp.cached, State.readPeers, sortBy]
  have hsat (q : State) : q.saturated w t a (v.performLanes w t a near).2.2 = q := by rw [performLanes_load_sat hop, State.saturated, if_pos rfl]
  have hstuck : maskOf ((near.filter fun e => (a.here e.1 e.2).isSome).map fun e => e.1) &&& ~~~(v.performLanes w t a near).2.1 =
      maskOf (lanesOf a.lanes) &&& ~~~(v.performLanes w t a near).2.1 := by
    simp [← hnear, nearFates, List.filter_map, Function.comp_def, Access.here]
  have hu : s6 = v := by rw [hs6, hs5, hs4, hs3, hs2, hs1]
  simp only [hls, hu, hwrites, hmcst, hfaults, hsurv, hstored, hpeers, hsat, List.isEmpty_nil, Bool.not_true, Bool.and_false, Bool.false_and,
    Bool.false_eq_true, if_false, if_true]
  refine and_assoc.1 ⟨?_, hstuck⟩
  split
  · exact finishAccess_reads hp15
  · exact ⟨.refl _ w.core, rfl⟩
end Sys2Proof.Machine

end

section

/-! The destination of a load: bound to a new symbol at issue (R63). -/

namespace Sys2Proof.Machine
open Sys2Proof

/-- A change of a core's registers: memory with its poison, the symbols and the held stores are as they were. -/
structure State.SameTables (u v : State) (c : Nat) : Prop where
  mem : v.mem = u.mem
  poisoned : v.poisoned = u.poisoned
  syms : (v.core c).syms = (u.core c).syms
  osb : (v.core c).osb = (u.core c).osb

theorem State.SameTables.refl (u : State) (c : Nat) : u.SameTables u c := ⟨rfl, rfl, rfl, rfl⟩

theorem State.SameTables.trans {u v w : State} {c : Nat} (h : u.SameTables v c) (k : v.SameTables w c) : u.SameTables w c :=
  ⟨k.mem.trans h.mem, k.poisoned.trans h.poisoned, k.syms.trans h.syms, k.osb.trans h.osb⟩

theorem sameTables_setVreg (s : State) (c t n : Nat) (r : VReg) : s.SameTables (s.setVreg c t n r) c := by
  unfold State.setVreg
  split
  · exact .refl s c
  · dsimp only
    split <;> exact ⟨rfl, rfl, by simp, by simp⟩

theorem sameTables_nextOrder (s : State) (c t : Nat) : s.SameTables (s.nextOrder c t) c := by
  obtain ⟨ts, hts⟩ := s.core_onTeam_teams c t fun x => { x with orderCtr := x.orderCtr + 1 }
  have hcore : (s.nextOrder c t).core c = { s.core c with teams := ts } := hts
  exact ⟨State.nextOrder_mem .., State.onTeam_poisoned .., by rw [hcore], by rw [hcore]⟩

/-- A team's register is the form of a symbol alone (R63). -/
def State.BoundTo (s : State) (c t n k : Nat) : Prop :=
  ∃ x, s.team? c t = some x ∧ (s.vreg c x n).st = .symbolic ∧ (s.vreg c x n).sym = k ∧ (s.vreg c x n).scale = 1

theorem State.SameReads.boundTo {u v : State} {c t n k : Nat} (h : u.SameReads v c) (hb : u.BoundTo c t n k) : v.BoundTo c t n k := by
  obtain ⟨x, hx, hreg⟩ := hb
  exact ⟨x, (h.team? t).trans hx, by rwa [h.vreg]⟩

theorem boundTo_nextOrder {s : State} {c t n k : Nat} (h : s.BoundTo c t n k) : (s.nextOrder c t).BoundTo c t n k := by
  obtain ⟨x, hx, hreg⟩ := h
  refine ⟨{ x with orderCtr := x.orderCtr + 1 }, ?_, ?_⟩
  · exact (State.team?_onTeam_self s c t _).trans (by rw [hx]; rfl)
  · have hv : (s.nextOrder c t).vreg c { x with orderCtr := x.orderCtr + 1 } n = s.vreg c x n := by
      have hgroups : ((s.nextOrder c t).core c).groups = (s.core c).groups := State.groups_onTeam ..
      rw [State.vreg, hgroups, State.vreg]
    rwa [hv]

theorem sameTables_bindV (s : State) (c t n : Nat) (act : Mask) (k : Nat) (half : Bool) : s.SameTables (s.bindV c t n act k half) c := by
  unfold State.bindV
  split
  · exact .refl s c
  · exact sameTables_setVreg ..

theorem boundTo_bindV_self {s : State} {c t : Nat} {x : Team} (n : Nat) (act : Mask) (k : Nat) (half : Bool) (h : s.team? c t = some x) :
    (s.bindV c t n act k half).BoundTo c t n k := by
  simp only [State.bindV, h]
  refine ⟨_, State.team?_setVreg_self n _ h, ?_⟩
  rw [State.vreg_setVreg_self n _ h]
  split <;> exact ⟨rfl, rfl, rfl⟩

theorem boundTo_bindV_ne {s : State} {c t n m k : Nat} (act : Mask) (j : Nat) (half : Bool) (hb : s.BoundTo c t n k) (hm : n ≠ m) :
    (s.bindV c t m act j half).BoundTo c t n k := by
  obtain ⟨x, hx, hreg⟩ := hb
  simp only [State.bindV, hx]
  refine ⟨_, State.team?_setVreg_self m _ hx, ?_⟩
  rwa [State.vreg_setVreg_ne _ hx hm]

theorem sameTables_bind_v (cx : Ctx) (s : State) (d : Fin 128) (wide : Bool) (k : Nat) : s.SameTables (cx.bind s (.v d) wide k) cx.c := by
  unfold Ctx.bind
  dsimp only
  split
  · exact (sameTables_bindV ..).trans (sameTables_bindV ..)
  · exact sameTables_bindV ..

/-- A vector destination is bound to its symbol; of a pair, the second register is another one (R53, R63). -/
theorem boundTo_bind_v {cx : Ctx} {s : State} {x : Team} (d : Fin 128) (wide : Bool) (k : Nat) (h : s.team? cx.c cx.t = some x) :
    (cx.bind s (.v d) wide k).BoundTo cx.c cx.t d.val k := by
  unfold Ctx.bind
  dsimp only
  split
  · refine boundTo_bindV_ne _ _ _ (boundTo_bindV_self _ _ _ _ h) ?_
    have hd := d.isLt
    rw [Fin.val_add]
    simp only [Fin.val_one]
    omega
  · exact boundTo_bindV_self _ _ _ _ h

/-- A new symbol stands in the table with no value; the registers and the held stores are as they were. -/
theorem allocSym_some {s v : State} {c t k : Nat} {sys w64 uni : Bool} {m : Mask} {src : SymSource}
    (h : s.allocSym c t sys m w64 uni src = some (k, v)) : s.SameReads v c ∧
      (v.core c).syms.at? k = some { slot := t, sys := sys, lanes := m, w64 := w64, uni := uni, src := src } := by
  obtain ⟨-, h⟩ := (ite_eq_iff.mp h).resolve_left (by simp)
  split at h
  · cases h
  · cases h
    have hcore (q : Core) (n : Nat) : State.core { s.setCore c q with fresh := n } c = q := State.core_setCore_self s c q
    refine ⟨⟨rfl, rfl, ?_, ?_, ?_⟩, ?_⟩ <;> rw [hcore]
    exact SMap.at?_put_self ..

/-- What binds a load's vector destination: the symbol that its access resolves, without a value yet, and the register as its form. -/
theorem bound_load {cx : Ctx} {r : Req} {a : Access} {e : State × Access} {d : Fin 128} {x : Team} (hteam : cx.s.team? cx.c cx.t = some x)
    (hdest : r.dest = some (.v d)) (hb : cx.bound r a = some e) : ∃ k y, e.2 = { a with rsym := some k } ∧ e.1.mem = cx.s.mem ∧
      e.1.poisoned = cx.s.poisoned ∧ (e.1.core cx.c).osb = (cx.s.core cx.c).osb ∧ e.1.BoundTo cx.c cx.t d.val k ∧
      (e.1.core cx.c).syms.at? k = some y ∧ y.lanes = a.lanes ∧ y.arrived = 0 := by
  simp only [Ctx.bound, hdest, Option.getD_some, takesSymbol, if_true] at hb
  obtain ⟨⟨k, v⟩, hv, rfl⟩ := Option.map_eq_some_iff.1 hb
  obtain ⟨halloc, hsym⟩ := allocSym_some hv
  have hbind := sameTables_bind_v cx v d r.wide k
  refine ⟨k, _, rfl, hbind.mem.trans halloc.mem, hbind.poisoned.trans halloc.poisoned, hbind.osb.trans halloc.osb,
    boundTo_bind_v d r.wide k ((halloc.team? cx.t).trans hteam),
    (congrArg (SMap.at? · k) hbind.syms).trans hsym, rfl, rfl⟩

end Sys2Proof.Machine

end

section

/-! Loads performed at issue (R63, R69, R219). O48 takes the addresses that the lanes reach from before the access takes its number, and its
performance from after it, as O46 and O47 do: where the free choices of log entry 6 agree it holds, and it is not settled. -/

namespace Sys2Proof.Machine
open Sys2Proof

/-- What a load with a vector destination delivered: its symbol is the register's form and has a value on every lane. -/
def State.Delivered (s : State) (c t d : Nat) (lanes : Mask) (f : Nat → W64) : Prop :=
  ∃ k y, s.BoundTo c t d k ∧ (s.core c).syms.at? k = some y ∧ y.lanes = lanes ∧ y.arrived = lanes ∧
    ∀ l ∈ lanesOf lanes, y.vals.atD l 0 = f l

theorem maskOf_lanesOf (m : Mask) : maskOf (lanesOf m) = m := by
  refine BitVec.eq_of_getLsbD_eq fun i hi => ?_
  rw [getLsbD_maskOf]
  simp only [mem_lanesOf, hi, decide_true, Bool.true_and, Bool.decide_eq_true]

/-- A load's pass delivers to its bound symbol what the near memory under its lanes holds. -/
theorem passAccess_delivers {s : State} {w : Who} {t n k d : Nat} {sx pending : Bool} {a : Access} {y : Symbol} (hop : a.op = .load n sx)
    (hdone : a.done = 0) (hp15 : a.p15 = false) (hdirect : a.direct = false) (hsym : a.rsym = some k) (hosb : (s.core w.core).osb = [])
    (hbound : s.BoundTo w.core t d k) (hy : (s.core w.core).syms.at? k = some y) (hlanes : y.lanes = a.lanes) (harrived : y.arrived = 0)
    (pa : Nat → Nat) (hfate : ∀ l ∈ lanesOf a.lanes, s.fate w a l = (.memory [(pa l, n)], []))
    (hnear : ∀ l ∈ lanesOf a.lanes, pa l < 0x400000000 ∧ s.lineBad (pa l) n = false) :
    (s.passAccess w t a none pending).left = 0 ∧ (s.passAccess w t a none pending).s.mem = s.mem ∧
      (s.passAccess w t a none pending).s.Delivered w.core t d a.lanes fun l => loadValue n sx (s.word (pa l) n) := by
  obtain ⟨hend, hsyms, hleft⟩ := passAccess_loads (t := t) (pending := pending) hop hdone hp15 pa hfate
  have hfill : s.SameReads (s.fillLanes w a.parts (lanesOf a.lanes)) w.core :=
    .of_cores (State.fillLanes_mem ..) (State.fillLanes_poisoned ..) (State.fillLanes_cores ..) _
  have hcore : (s.fillLanes w a.parts (lanesOf a.lanes)).core w.core = s.core w.core := by
    rw [State.core, State.fillLanes_cores, State.core]
  obtain ⟨hlanesKeep, hval, hperformed⟩ := performLanes_nearLoads (s := s.fillLanes w a.parts (lanesOf a.lanes)) (t := t) hop hdirect hsym pa
    (lanesOf a.lanes) (hfill.osb.trans hosb) fun l hl => by rw [hfill.lineBad]; exact hnear l hl
  have hall := (hfill.trans hlanesKeep).trans hend
  refine ⟨by rw [hleft, hperformed, BitVec.and_not_self], hall.mem, k, _, hall.boundTo hbound,
    (congrArg (SMap.at? · k) hsyms).trans (hval y (by rw [hcore, hy])), ?_, ?_, fun l hl => ?_⟩
  · rw [Symbol.loaded_lanes, hlanes]
  · rw [Symbol.loaded_arrived, harrived, maskOf_lanesOf]
    exact BitVec.zero_or
  · rw [Symbol.loaded_val _ _ (.inl hl), hfill.word]

/-- A request of a load asks for a byte at least. -/
theorem size_of_load {i : Instr} {cx : Ctx} {r : Req} {n : Nat} {sx : Bool} (hr : memReq cx i = some r) (hop : r.op = .load n sx) : 0 < n := by
  cases i
  case ldB | ldH | ldW | ldD => cases hr; cases hop; decide
  all_goals cases hr <;> cases hop

/-- A request of a load with a destination writes no p15 (R218). -/
theorem p15_of_load {i : Instr} {cx : Ctx} {r : Req} {n : Nat} {sx : Bool} (hr : memReq cx i = some r) (hop : r.op = .load n sx) :
    r.p15 = false := by
  cases i
  case ldB | ldH | ldW | ldD => cases hr; rfl
  all_goals cases hr <;> cases hop

/-- A load at issue whose lanes, as they are performed, reach near memory without poison is performed on all of them. -/
theorem launched_load {i : Instr} {s : State} {cx : Ctx} {r : Req} {e : State × Access} {n : Nat} {sx : Bool} {d : Fin 128}
    (h : s.ready? i = some cx) (hr : memReq cx i = some r) (hop : r.op = .load n sx) (hdest : r.dest = some (.v d))
    (hb : cx.bound r (cx.accessOf r) = some e) (hnow : cx.atIssue (cx.accessOf r) = true) (pa : Nat → Nat)
    (hfate : ∀ l ∈ lanesOf (cx.accessOf r).lanes, (e.1.nextOrder cx.c cx.t).fate cx.who (cx.accessOf r) l = (.memory [(pa l, n)], []))
    (hnear : ∀ l ∈ lanesOf (cx.accessOf r).lanes, pa l < 0x400000000 ∧ s.lineBad (pa l) n = false) (hosb : (s.core cx.c).osb = []) :
    ∃ t, cx.launched e.1 e.2 = some t ∧ t.mem = s.mem ∧
      t.Delivered cx.c cx.t d.val (cx.accessOf r).lanes fun l => loadValue n sx (s.word (pa l) n) := by
  obtain ⟨hs, hteam, -⟩ := ready_team h
  obtain ⟨k, y, haccess, hmem, hpoisoned, hheld, hbound, hy, hlanes, harrived⟩ := bound_load (hs ▸ hteam) hdest hb
  rw [hs] at hmem hpoisoned hheld
  have hp15 : (cx.accessOf r).p15 = false := p15_of_load hr hop
  have hnow' : cx.atIssue { cx.accessOf r with rsym := some k } = true := hnow
  have hnext := sameTables_nextOrder e.1 cx.c cx.t
  have hmems : (e.1.nextOrder cx.c cx.t).mem = s.mem := hnext.mem.trans hmem
  have hwords (a : Nat) : (e.1.nextOrder cx.c cx.t).word a n = s.word a n := by simp only [State.word, State.bytes, hmems]
  have hquiet (v : State) : cx.pendP15 v { cx.accessOf r with rsym := some k } = v := by
    rw [Ctx.pendP15, hp15, Bool.false_and, if_neg Bool.false_ne_true]
  obtain ⟨hleft, hkept, hdelivered⟩ := passAccess_delivers (s := e.1.nextOrder cx.c cx.t) (w := cx.who) (t := cx.t) (d := d.val)
    (pending := false) (a := { cx.accessOf r with rsym := some k }) hop rfl hp15 rfl rfl (hnext.osb.trans (hheld.trans hosb))
    (boundTo_nextOrder hbound) ((congrArg (SMap.at? · k) hnext.syms).trans hy) hlanes harrived pa hfate fun l hl => by
      rw [State.lineBad, hnext.poisoned, hpoisoned]
      exact hnear l hl
  simp only [hwords] at hdelivered
  refine ⟨_, ?_, hkept.trans hmems, hdelivered⟩
  rw [haccess, Ctx.launched, if_pos hnow']
  exact need_some.2 ⟨beq_iff_eq.2 hleft, congrArg some (hquiet _)⟩

/-- What O48 says, of the addresses that the lanes reach as they are performed. -/
theorem loadsAtIssue_deliver {i : Instr} {s t : State} {cx : Ctx} {r : Req} {e : State × Access} {g : Nat → FlagSet} {n : Nat} {sx : Bool}
    {d : Fin 128} (h : s.ready? i = some cx) (hr : memReq cx i = some r) (hop : r.op = .load n sx) (hdest : r.dest = some (.v d))
    (hb : cx.bound r (cx.accessOf r) = some e) (hnow : cx.atIssue (cx.accessOf r) = true) (he : memoryEffect cx i = some (t, g))
    (pa : Nat → Nat)
    (hfate : ∀ l ∈ lanesOf (cx.accessOf r).lanes, (e.1.nextOrder cx.c cx.t).fate cx.who (cx.accessOf r) l = (.memory [(pa l, n)], []))
    (hnear : ∀ l ∈ lanesOf (cx.accessOf r).lanes, pa l < 0x400000000 ∧ s.lineBad (pa l) n = false) (hosb : (s.core cx.c).osb = []) :
    (∀ a, (cx.finish i t g).byte a = s.byte a) ∧
      t.Delivered cx.c cx.t d.val (cx.accessOf r).lanes fun l => loadValue n sx (s.word (pa l) n) := by
  obtain ⟨v, hv, hmem, hdelivered⟩ := launched_load h hr hop hdest hb hnow pa hfate hnear hosb
  rw [memoryEffect_access hr] at he
  obtain ⟨-, he⟩ := need_some.1 he
  rw [hb, Option.bind_some, hv] at he
  cases he
  refine ⟨fun a => ?_, hdelivered⟩
  rw [finish_quiet]
  exact State.byte_congr ((Ctx.retire_mem ..).trans hmem) a

/-- What O48 says where the translations are steady. -/
theorem loadsDeliverMemory_of_steadyTlb {i : Instr} {s t : State} {cx : Ctx} {r : Req} {e : State × Access} {g : Nat → FlagSet} {n : Nat}
    {sx : Bool} {d : Fin 128} (hsteady : e.1.SteadyTlb) (h : s.ready? i = some cx) (hr : memReq cx i = some r) (hop : r.op = .load n sx)
    (hdest : r.dest = some (.v d)) (hb : cx.bound r (cx.accessOf r) = some e) (hnow : cx.atIssue (cx.accessOf r) = true)
    (he : memoryEffect cx i = some (t, g))
    (hfate : ∀ l ∈ lanesOf (cx.accessOf r).lanes, ∃ pa, e.1.fate cx.who (cx.accessOf r) l = (.memory [(pa, n)], []) ∧
      pa + n ≤ 0x400000000 ∧ s.lineBad pa n = false) (hosb : (s.core cx.c).osb = []) :
    exec i s = .next (cx.finish i t g) ∧ (∀ pa, (cx.finish i t g).byte pa = s.byte pa) ∧
    ∃ k y x, (t.core cx.c).syms.at? k = some y ∧ y.lanes = (cx.accessOf r).lanes ∧ y.arrived = (cx.accessOf r).lanes ∧
      t.team? cx.c cx.t = some x ∧ (t.vreg cx.c x d.val).st = .symbolic ∧ (t.vreg cx.c x d.val).sym = k ∧ (t.vreg cx.c x d.val).scale = 1 ∧
      ∀ l ∈ lanesOf (cx.accessOf r).lanes, ∀ pa, e.1.fate cx.who (cx.accessOf r) l = (.memory [(pa, n)], []) →
        y.vals.atD l 0 = (if sx then sext64 (8 * n) (BitVec.ofNat 64 (s.word pa n)) else BitVec.ofNat 64 (s.word pa n)) := by
  choose! pa hpa using hfate
  have hn : 0 < n := size_of_load hr hop
  obtain ⟨hbytes, k, y, ⟨x, hteam, hst, hsym, hscale⟩, hy, hlanes, harrived, hval⟩ := loadsAtIssue_deliver h hr hop hdest hb hnow he pa
    (fun l hl => (fate_nextOrder hsteady ..).trans (hpa l hl).1) (fun l hl => ⟨by have := (hpa l hl).2.1; omega, (hpa l hl).2.2⟩) hosb
  refine ⟨memoryInstructionsComplete i s t cx g h he, hbytes, k, y, x, hy, hlanes, harrived, hteam, hst, hsym, hscale, fun l hl q hq => ?_⟩
  have hsame : q = pa l := by
    have heq := hq.symm.trans (hpa l hl).1
    simpa using heq
  rw [hval l hl, hsame]
  rfl

/-- Where every choice comes out as the one before it, O48 holds. -/
theorem loadsDeliverMemory_of_steady (hsteady : ∀ n va, Config.useTlb (n + 1) va = Config.useTlb n va) : Obligations.LoadsDeliverMemory := by
  unfold Obligations.LoadsDeliverMemory
  intro i s t cx r a e g n sx d h hr hop hdest ha hb hnow he hfate hosb
  subst ha
  exact loadsDeliverMemory_of_steadyTlb (.inr (hsteady _)) h hr hop hdest hb hnow he hfate hosb

end Sys2Proof.Machine

end

section

/-! A load through a translation that is out of date: where the choices for its address differ before and after the access takes its number, O48
fails. -/

namespace Sys2Proof.Machine
open Sys2Proof

/-- It loads the 64 bits at 0x400001040. -/
def staleLoad : Instr := .ldD (.v 12) (.w 14) .zero

/-- What is needed of the load at issue. -/
structure StaleRead (cx : Ctx) (r : Req) : Prop where
  ready : stale.ready? staleLoad = some cx
  req : memReq cx staleLoad = some r
  who : cx.who = { core := 0, part := 0 }
  op : r.op = .load 8 false
  dest : r.dest = some (.v 12)
  lane : 0 ∈ lanesOf (cx.accessOf r).lanes
  addr : ∀ l ∈ lanesOf (cx.accessOf r).lanes, (cx.accessOf r).addr l = 0x400001040 ∧ (cx.accessOf r).addrPois l = none
  now : cx.atIssue (cx.accessOf r) = true
  starts : (!cx.destBusy r && cx.accessClear (cx.accessOf r) && !cx.sharedDest r.wide (.v 12)) = true
  bound : (cx.bound r (cx.accessOf r)).isSome = true

theorem staleLoad_checks : (stale.ready? staleLoad).any (fun cx => (memReq cx staleLoad).any fun r =>
    decide (cx.who = { core := 0, part := 0 } ∧ r.op = .load 8 false ∧ r.dest = some (.v 12) ∧ 0 ∈ lanesOf (cx.accessOf r).lanes ∧
      (∀ l ∈ lanesOf (cx.accessOf r).lanes, (cx.accessOf r).addr l = 0x400001040 ∧ (cx.accessOf r).addrPois l = none) ∧
      cx.atIssue (cx.accessOf r) = true ∧ (!cx.destBusy r && cx.accessClear (cx.accessOf r) && !cx.sharedDest r.wide (.v 12)) = true ∧
      (cx.bound r (cx.accessOf r)).isSome = true)) = true := by decide +kernel

theorem exists_staleRead : ∃ cx r, StaleRead cx r := by
  obtain ⟨cx, hcx, h⟩ := (Option.any_eq_true ..).1 staleLoad_checks
  obtain ⟨r, hr, h⟩ := (Option.any_eq_true ..).1 h
  obtain ⟨hwho, hop, hdest, hlane, haddr, hnow, hstarts, hbound⟩ := of_decide_eq_true h
  exact ⟨cx, r, hcx, hr, hwho, hop, hdest, hlane, haddr, hnow, hstarts, hbound⟩

/-- The physical address that a lane of the load reaches, by the choice between the cached translation and the walk. -/
def staleSource (cached : Bool) : Nat := if cached then 0x21040 else 0x1040

/-- The load's address is translated to the one or the other address, by the number of the choice. -/
theorem spot_staleLoad (k : SMap Core) (n l : Nat) : ({ stale with cores := k, fresh := n } : State).spot { core := 0, part := 0 } .load l
    0x400001040 = .memory (staleSource (Config.useTlb n 0x400001040)) := by
  have hpower : (stale.power == .stage1) = false := by decide +kernel
  have hregion : regionOf 0x400001040 ≠ .peer := by decide +kernel
  have hwalk : walk stale false (stale.rootOf 0) 0x400001040 = .leaf 0x400000000 67108864 0 true true false := by decide +kernel
  have hcached : stale.cached (corePlaces 0) 0 0x400001040 = some staleEntry := by decide +kernel
  have hlookup := lookup_choice stale k n (corePlaces 0) 0 false (stale.rootOf 0) 0x400001040
  simp only [hwalk, hcached] at hlookup
  cases hb : Config.useTlb n 0x400001040 with
  | false =>
    rw [hb] at hlookup
    exact (spot_of_leaf (s := { stale with cores := k, fresh := n }) hpower (by rfl) hregion (by rfl) hlookup (by rfl)).trans (by decide +kernel)
  | true =>
    rw [hb] at hlookup
    exact (spot_of_leaf (s := { stale with cores := k, fresh := n }) hpower (by rfl) hregion (by rfl) hlookup (by rfl)).trans (by decide +kernel)

/-- Each lane reaches the one or the other address, by the number of the choice. -/
theorem fate_staleLoad {cx : Ctx} {r : Req} (h : StaleRead cx r) (k : SMap Core) (n : Nat) {l : Nat}
    (hl : l ∈ lanesOf (cx.accessOf r).lanes) : ({ stale with cores := k, fresh := n } : State).fate cx.who (cx.accessOf r) l =
      (.memory [(staleSource (Config.useTlb n 0x400001040), 8)], []) := by
  obtain ⟨haddr, hclean⟩ := h.addr l hl
  have hop : (cx.accessOf r).op = .load 8 false := h.op
  have hparts : (cx.accessOf r).parts l = [(0x400001040, 8)] := by
    simp only [Access.parts, hop, haddr]
    decide +kernel
  have haligned : (((cx.accessOf r).addr l).toNat % (AccessOp.load 8 false).aligned != 0) = false := by
    rw [haddr]
    decide +kernel
  simp only [State.fate, hclean, hop, haligned, AccessOp.kind, hparts, h.who, State.targetParts, spot_staleLoad, Spot.target, State.joinParts,
    Bool.false_eq_true, if_false]

/-- The two sources are near memory without poison, and hold different words. -/
theorem staleSource_near (b : Bool) : staleSource b + 8 ≤ 0x400000000 ∧ stale.lineBad (staleSource b) 8 = false := by
  cases b <;> decide +kernel

theorem staleSource_differ {b b' : Bool} (h : loadValue 8 false (stale.word (staleSource b) 8) = loadValue 8 false (stale.word (staleSource b') 8)) :
    b = b' := by
  revert h b b'
  decide +kernel

theorem setVreg_eq (s : State) (c t n : Nat) (r : VReg) : ∃ k, s.setVreg c t n r = { s with cores := k } := by
  unfold State.setVreg
  split
  · exact ⟨s.cores, rfl⟩
  · dsimp only
    split <;> exact ⟨_, rfl⟩

theorem bindV_eq (s : State) (c t n : Nat) (act : Mask) (k : Nat) (half : Bool) : ∃ q, s.bindV c t n act k half = { s with cores := q } := by
  unfold State.bindV
  split
  · exact ⟨s.cores, rfl⟩
  · exact setVreg_eq ..

/-- A vector destination's symbol takes one free choice, and changes else the cores alone. -/
theorem bound_eq {cx : Ctx} {r : Req} {a : Access} {e : State × Access} {d : Fin 128} (hdest : r.dest = some (.v d))
    (hb : cx.bound r a = some e) : ∃ k, e.1 = { cx.s with cores := k, fresh := cx.s.fresh + 1 } := by
  simp only [Ctx.bound, hdest, Option.getD_some, takesSymbol, if_true] at hb
  obtain ⟨⟨k, v⟩, hv, rfl⟩ := Option.map_eq_some_iff.1 hb
  have halloc : ∃ q, v = { cx.s with cores := q, fresh := cx.s.fresh + 1 } := by
    obtain ⟨-, hv⟩ := (ite_eq_iff.mp hv).resolve_left (by simp)
    split at hv
    · cases hv
    · cases hv
      exact ⟨_, rfl⟩
  obtain ⟨q, rfl⟩ := halloc
  unfold Ctx.bind
  dsimp only
  obtain ⟨p, hp⟩ := bindV_eq { cx.s with cores := q, fresh := cx.s.fresh + 1 } cx.c cx.t d.val cx.act k false
  rw [hp]
  split
  · obtain ⟨p', hp'⟩ := bindV_eq { cx.s with cores := p, fresh := cx.s.fresh + 1 } cx.c cx.t (d + 1).val cx.act k true
    exact ⟨p', hp'⟩
  · exact ⟨p, rfl⟩

/-- What was delivered to a register is one value on each lane. -/
theorem delivered_unique {s : State} {c t d : Nat} {m : Mask} {f g : Nat → W64} (hf : s.Delivered c t d m f) (hg : s.Delivered c t d m g)
    {l : Nat} (hl : l ∈ lanesOf m) : f l = g l := by
  obtain ⟨k, y, ⟨x, hx, -, hk, -⟩, hy, -, -, hval⟩ := hf
  obtain ⟨k', y', ⟨x', hx', -, hk', -⟩, hy', -, -, hval'⟩ := hg
  obtain rfl : x = x' := Option.some.inj (hx.symm.trans hx')
  obtain rfl : k = k' := hk.symm.trans hk'
  obtain rfl : y = y' := Option.some.inj (hy.symm.trans hy')
  rw [← hval l hl, hval' l hl]

/-- Where the choices differ, the load does not deliver what stands where it reached when it began. -/
theorem not_loadsDeliverMemory_of_ne (hne : Config.useTlb 1 0x400001040 ≠ Config.useTlb 2 0x400001040) :
    ¬ Obligations.LoadsDeliverMemory := by
  unfold Obligations.LoadsDeliverMemory
  intro hall
  obtain ⟨cx, r, h⟩ := exists_staleRead
  obtain ⟨e, hb⟩ := Option.isSome_iff_exists.1 h.bound
  obtain ⟨hs, -⟩ := ready_team h.ready
  obtain ⟨q, hq⟩ := bound_eq h.dest hb
  rw [hs, stale_fresh] at hq
  obtain ⟨q', hq'⟩ := nextOrder_eq e.1 cx.c cx.t
  rw [hq] at hq'
  have hcore : cx.c = 0 := congrArg Who.core h.who
  have hosb : (stale.core cx.c).osb = [] := by
    rw [hcore]
    decide +kernel
  have hbegan (l : Nat) (hl : l ∈ lanesOf (cx.accessOf r).lanes) : e.1.fate cx.who (cx.accessOf r) l =
      (.memory [(staleSource (Config.useTlb 1 0x400001040), 8)], []) := by rw [hq]; exact fate_staleLoad h q 1 hl
  have hperformed (l : Nat) (hl : l ∈ lanesOf (cx.accessOf r).lanes) : (e.1.nextOrder cx.c cx.t).fate cx.who (cx.accessOf r) l =
      (.memory [(staleSource (Config.useTlb 2 0x400001040), 8)], []) := by rw [hq, hq']; exact fate_staleLoad h q' 2 hl
  obtain ⟨t, ht, -, hdelivered⟩ := launched_load h.ready h.req h.op h.dest hb h.now (fun _ => staleSource (Config.useTlb 2 0x400001040))
    hperformed (fun _ _ => ⟨by have := (staleSource_near (Config.useTlb 2 0x400001040)).1; omega, (staleSource_near _).2⟩) hosb
  have he : memoryEffect cx staleLoad = some (t, 0) := by
    rw [memoryEffect_access h.req, Ctx.accessEffect, h.dest, Option.getD_some, need, if_pos h.starts, hb, Option.bind_some, ht]
    rfl
  obtain ⟨-, -, k, y, x, hy, hlanes, harrived, hteam, hst, hsym, hscale, hval⟩ := hall staleLoad stale t cx r _ e 0 8 false 12 h.ready h.req
    h.op h.dest rfl hb h.now he (fun l hl => ⟨_, hbegan l hl, staleSource_near _⟩) hosb
  have hclaimed : t.Delivered cx.c cx.t (12 : Fin 128).val (cx.accessOf r).lanes fun _ =>
      loadValue 8 false (stale.word (staleSource (Config.useTlb 1 0x400001040)) 8) :=
    ⟨k, y, ⟨x, hteam, hst, hsym, hscale⟩, hy, hlanes, harrived, fun l hl => hval l hl _ (hbegan l hl)⟩
  exact hne (staleSource_differ (delivered_unique hclaimed hdelivered h.lane))

end Sys2Proof.Machine

end
